-- ==== Sys2Proof/Word.lean ====
section
/-! DEFINITION. The word and byte types, and nothing else (00 R6). -/

namespace Sys2Proof

/-- One byte of a memory, an entry or a message. -/
abbrev Byte := BitVec 8

/-- A 64-bit general register or special register of a cell (11 R284). -/
abbrev Word := BitVec 64

/-- A string of bytes, lowest address first. -/
abbrev Bytes := List Byte

/-- A 32-bit key handle (09 R234). -/
abbrev Handle := BitVec 32

end Sys2Proof
end

