-- ==== Sys2Proof/Syntax.lean ====
section
/-! DEFINITION. The commands of the block: one constructor of `Instr` per row of spec/opcode_table.json. The table gives no
row any bits, so the operands are what the row's rule says the step is given: register values, entry bytes, and what the
world outside the block answers (the result of a DMA read, of a card exchange, of a flash operation). -/

namespace Sys2Proof

/-- How a message of the trunk command set is carried (04, 03 R70, R94). -/
inductive Via where
  | mailbox (m : BitVec 3)
  | admin (tag : BitVec 16) (outPtr : BitVec 64)
  deriving DecidableEq, Repr

/-- How an exchange with a custodian card ends, as the card and the carrier show it (04 R107, 17 R441, R444). -/
inductive CardOutcome where
  /-- The card answered every command with status word 9000. -/
  | answered
  /-- No card in the slot, or a poll identified none. -/
  | absent
  /-- The card was removed, or an external field came up, during the exchange. -/
  | removed
  /-- The card answered in no class, or its transport failed. -/
  | failed
  /-- The reader could not isolate one card: what its poll says (17 R444). -/
  | several
  /-- The card refused VERIFY or SIGN with a status word other than 9000. -/
  | refused
  /-- The card refused another command so. -/
  | refusedOther
  deriving DecidableEq, Repr

/-- One round of a reader poll: a loop of the Type A sequence, or a Type B round (17 R444). -/
structure PollRound where
  /-- It holds a collision, or a SAK or ATQA that fails its CRC. -/
  unresolved : Bool
  /-- Compliant cards that it identifies and halts. -/
  cards : Nat
  deriving DecidableEq, Repr

/-- What a custodian card exchange brought (17 R441). -/
structure CardAnswer where
  /-- The rounds of the reader's poll; none on the contact slot, and where no poll came to an end. -/
  poll : List PollRound := []
  outcome : CardOutcome
  cert : Bytes
  signature : Bytes
  /-- The opened 64-byte share record of GET SHARE (09 R259). -/
  share : Bytes
  /-- The card's ephemeral point of OPEN CHANNEL, and whether its signature over both points verifies under its certificate (17
  R442): the point of the module is fresh in each command. -/
  point : Bytes := []
  channelOk : Bool := false
  deriving DecidableEq, Repr

/-- How a write or read of the SD volume ends (17 R427, R428, R435). -/
inductive SdOutcome where
  | done
  /-- Removal in a read, or in header or payload blocks or the commit block's data phase. -/
  | removedInBlocks
  /-- Removal in the busy phase of a commit block. -/
  | removedInBusy
  /-- Removal after a commit block's release, with more segments to write. -/
  | removedBetween
  /-- MEDIA_RELEASE came, and waited for the block's busy phase (17 R429, R452). -/
  | released
  /-- A transfer failed after its retries. -/
  | transferFailed
  deriving DecidableEq, Repr

/-- An event during a command's execution that keeps it from its end (04 R111, R488); the event's own command follows it. -/
inductive Interruption where
  | none
  /-- A ZEROIZE-class response. -/
  | zeroize
  /-- A LOCKOUT-class response. -/
  | lockout
  /-- An FLR of the command's function, or a reset. -/
  | gone
  deriving DecidableEq, Repr

/-- What comes between steps 4 to 6 of the change that an LC_CHANGE begins (13 R342, R360); the event's own command follows. -/
structure LifeCut where
  /-- Copies of the new code that are written and read back when it comes, at most 3. -/
  copies : Nat := 3
  during : Interruption := .none
  deriving DecidableEq, Repr

/-- What the world outside the trunk answers while one command executes. -/
structure Io where
  /-- What befalls the command while it is in execution. -/
  during : Interruption := .none
  /-- The host-memory object or SD object that the command names; `none` when the read failed (04 R104). -/
  object : Option Bytes
  /-- Whether the command's commit to flash is read back good (04 R110, 09 R254). -/
  flashOk : Bool
  /-- Whether a change of the configuration store is persisted although its commit failed (14 R371). -/
  flashKept : Bool := false
  card : CardAnswer
  sd : SdOutcome
  /-- Segments completed on the SD volume before the end or the failure (17 R435). -/
  segments : Nat
  /-- Whether the write of the response to host memory succeeds (03 R70). -/
  responseOk : Bool
  /-- What befalls the change that an LC_CHANGE begins. -/
  cut : LifeCut := {}
  deriving DecidableEq, Repr

/-- One request message of the trunk command set, with its carrier (04 R101). `body` is bytes 8 onward. -/
structure Req where
  fn : BitVec 6
  via : Via
  /-- Message bytes 2-3. -/
  len : Nat
  /-- The administrative entry's input length; for a mailbox the 256 bytes read (03 R94, 04 R103). -/
  carried : Nat
  session : BitVec 32
  body : Bytes
  io : Io
  deriving DecidableEq, Repr

/-- One run of a transaction function on a cell: the part of the job's work that the environment decides (06 R149). -/
structure Run where
  cell : BitVec 8
  /-- Cell time this run took in the present budget, in µs. -/
  usedUs : Nat
  /-- Whether the Seed queue delivered what the function draws within its declared time (10 R274). -/
  seedOk : Bool
  /-- Time within `usedUs` that the cell waited on the Seed queue, in µs (06 R154). -/
  seedUs : Nat
  /-- A fault disturbed the computation, and the result check of its microprogram fails (07 R195, R196). -/
  checkFails : Bool
  /-- The instructions of a custom function follow as commands of their own: this run enters it (11 R314). -/
  steps : Bool
  /-- Whether a staged line failed its DRAM integrity tag, and whether the cell itself read it or an engine (01 R13). -/
  dramFault : Bool
  dramByCell : Bool
  /-- What a custom function passes to SYSCALL 0 in g1, and its output (11 R315). -/
  customStatus : BitVec 16
  customOut : Bytes
  deriving DecidableEq, Repr

/-- Meters and temperatures as measured (19 R469). Temperatures in °C, biased by nothing: an integer. -/
structure Meters where
  vinMv : Nat
  iinMa : Nat
  pinMw : Nat
  dieA : Int
  dieB : Int
  dieTrunk : Int
  caseC : Int
  aonC : Int
  vbakMv : Nat
  deriving DecidableEq, Repr

/-- What a flash operation did (15 R378 to R381). -/
inductive FlashOutcome where
  | ok
  /-- A read of a sector, corrected after `retries` shifted reads, with `bits` bits corrected. -/
  | corrected (sector retries bits : Nat)
  /-- A read of a unit of a sector that no retry corrected. -/
  | uncorrectable (sector unit : Nat)
  | programFailed
  | notErased
  | eraseFailed
  deriving DecidableEq, Repr

/-- How a microprogram stopped (07 R183, R197, R198). -/
inductive BnxOutcome where
  | ended
  | stopped
  | yielded
  deriving DecidableEq, Repr

/-- One bark source that became active in a CD17 cycle, with what its detector shows (14 R368, R375). -/
structure Alarm where
  source : Nat
  detailA : BitVec 32
  detailB : BitVec 32
  deriving DecidableEq, Repr

/-- A copy of the life-cycle code in the recovery area, as it reads (13 R339): the code, and the code that its CMAC is made over; `none`
where its 16 bytes are no CMAC of a code under the key that the boot ROM derives from the device seed. -/
structure LifeCopy where
  code : BitVec 16
  mac : Option (BitVec 16)
  deriving DecidableEq, Repr

/-- Start-up results of the parts that can fail (13 R348). -/
structure BootResult where
  romOk : Bool
  /-- Copies of the life-cycle code that read otherwise than they were written (13 R339). -/
  lifeRead : List (Nat × LifeCopy)
  seedOk : Bool
  /-- Whether each image reads without UNCORRECTABLE (15 R405), for the checks of 13 R349: A, B and recovery. -/
  imageA : Bool
  imageB : Bool
  recovery : Bool
  dramOk : Bool
  /-- Whether every entry of heartwood's journal up to the anchor is read and verifies (09 R255). -/
  journalOk : Bool
  /-- The function code of a known-answer test that failed. -/
  katFail : Option Nat
  /-- Cells whose self-test failed. -/
  cellFail : List Nat
  /-- Codes of custom functions whose package's digest differs from the one measured (11 R317). -/
  packageBad : List Nat := []
  deriving DecidableEq, Repr

/-- The registers of page 3 that clear when read (03 R77). -/
inductive ClearingCounter where
  | expire | overrun | malform | idxerr
  deriving DecidableEq, Repr

/-- What executes a leaf instruction: a cell, 0 to 255, or 0x100 the trunk's cores (11 R282). -/
abbrev CoreId := BitVec 9

/-- One command of the block. -/
inductive Instr where
  -- 03: doorbells, queues, mailboxes and registers
  | queueDoorbell (fn : BitVec 6) (value : BitVec 32)
  | indexRecordReadDone (fn : BitVec 6) (completion : Bool) (q : BitVec 10) (hostIndex : Option (BitVec 16))
  | completionHeadDoorbell (fn : BitVec 6) (q : BitVec 10) (head : BitVec 16)
  | entryFetchDone (fn : BitVec 6) (q : BitVec 10) (entry : Option Bytes) (message : Option Bytes) (io : Io)
  | inputStaged (job : Nat) (input : Option Bytes)
  | mailboxDoorbell (fn : BitVec 6) (value : BitVec 32)
  | mailboxRequestReadDone (fn : BitVec 6) (m : BitVec 3) (request : Option Bytes) (io : Io)
  | mbctlWrite (fn : BitVec 6) (m : BitVec 3) (value : BitVec 32)
  | aqctlWrite (fn : BitVec 6) (value : BitVec 32)
  | svctlWrite (fn : BitVec 6) (q : BitVec 2) (value : BitVec 32)
  | registerWrite (fn : BitVec 6) (bar : BitVec 3) (offset : BitVec 16) (value : BitVec 32) (partialEnables : Bool)
  | ticklRead (fn : BitVec 6)
  | enlRead (fn : BitVec 6)
  | jobslRead (fn : BitVec 6)
  | page3CounterRead (fn : BitVec 6) (which : ClearingCounter)
  | svstatRead (fn : BitVec 6) (q : BitVec 2)
  | bar0ReadDormant (fn : BitVec 6) (offset : BitVec 16)
  | coalesceTickExpiry (fn : BitVec 6) (vec : BitVec 6)
  | flr (fn : BitVec 6)
  | perstAssert
  -- 13: start
  | startUp (r : BootResult)
  | readyRaised
  -- 02: the tick
  | tickBoundary (lateA lateB : Nat) (m : Meters)
  | thermalLimitStep
  | attestKeyGenerate
  | budgetEnd (used : List (Nat × Nat))
  | tickMissed
  | tickGeneratorResume
  | groveMissedTicks (g : Bool)
  | groveLinkSilent (g : Bool)
  | groveLost (g : Bool)
  | groveRejoinAttempt (g : Bool)
  | groveLinkTrainTimeout (g : Bool)
  | windowClose
  | receiptRootPost (partition : BitVec 6)
  | dppostWrite (cell : BitVec 8) (offset : BitVec 32)
  | dpdispWrite (cell : BitVec 8) (job : Nat)
  | dpremWrite (cell : BitVec 8) (us : BitVec 21)
  | completionReceived
  | cellFence (cell : BitVec 8) (cause : BitVec 2)
  | fenceWipeDone (cell : BitVec 8)
  | selftestDone (cell : BitVec 8) (passed : Bool)
  | invalidCstate (cell : BitVec 8) (code : BitVec 16)
  -- 04: the trunk command set
  | getInfo (q : Req)
  | getMreg (q : Req)
  | attest (q : Req)
  | getCert (q : Req)
  | readRoot (q : Req)
  | openSession (q : Req)
  | present (q : Req)
  | closeSession (q : Req)
  | sessionIdleExpiry (handle : BitVec 32)
  | sessionAssemblyExpiry (handle : BitVec 32)
  | enrol (q : Req)
  | revoke (q : Req)
  | setQuorum (q : Req)
  | createQueue (q : Req)
  | destroyQueue (q : Req)
  | setPartition (q : Req)
  | getPartition (q : Req)
  | setTick (q : Req)
  | drainCellsFinish (q : Req)
  | drainCellsEvict (q : Req)
  | restoreCells (q : Req)
  | setPowerCap (q : Req)
  | enterDormant (q : Req)
  | keyImport (q : Req)
  | keyGenerate (q : Req)
  | keyExport (q : Req)
  | keyDelete (q : Req)
  | keyInfo (q : Req)
  | masterKeyGenerate (q : Req)
  | masterKeyLoad (q : Req)
  | masterKeyActivate (q : Req)
  | masterKeyRetire (q : Req)
  | rewrapBatch (partition : BitVec 6)
  | archiveBackup (q : Req)
  | archiveRestore (q : Req)
  | logRead (q : Req)
  | logStream (q : Req)
  | logStreamEntry (readOk : Bool)
  | logClear (q : Req)
  | logClearErase
  | tamperClear (q : Req)
  | lcChange (q : Req)
  | lcChangeJobTimeout
  | lcInternalReset
  | fwUpdate (q : Req)
  | setRdp (q : Req)
  | twinPairPrimary (q : Req)
  | twinPairSecondary (q : Req)
  | twinUnpair (q : Req)
  | twinStatus (q : Req)
  | twinPromote (q : Req)
  | setRfOff (q : Req)
  | setRfReader (q : Req)
  | setRfWatch (q : Req)
  | mediaRelease (q : Req)
  | seedTestNormal (q : Req)
  | seedTestRaw (q : Req)
  | seedTestPattern (q : Req)
  | seedRawRead (q : Req)
  | barkConfig (q : Req)
  | barkStatus (q : Req)
  | logSnapshotRead (q : Req)
  | logSnapshotSet (q : Req)
  | logSnapshotRestore (q : Req)
  | logExport (q : Req)
  | mediaFormat (q : Req)
  | mediaStatus (q : Req)
  | setOutputsRead (q : Req)
  | setOutputsLed2 (q : Req)
  | setOutputsFanMin (q : Req)
  | setOutputsLockRelease (q : Req)
  | setOutputsLockEngage (q : Req)
  | lockReleaseExpiry
  -- 05: the transaction functions
  | pinTranslate (r : Run)
  | pinVerify (r : Run)
  | macGenerate (r : Run)
  | macVerify (r : Run)
  | dukptPinTranslate (r : Run)
  | dukptMacVerify (r : Run)
  | dukptDecrypt (r : Run)
  | arqcVerify (r : Run)
  | keyblockTranslate (r : Run)
  | ecdsaSign (r : Run)
  | ecdsaVerify (r : Run)
  | eddsaSign (r : Run)
  | eddsaVerify (r : Run)
  | rsaSign (r : Run)
  | rsaVerify (r : Run)
  | mldsaSign (r : Run)
  | mldsaVerify (r : Run)
  | ecdh (r : Run)
  | mlkemEncaps (r : Run)
  | mlkemDecaps (r : Run)
  | ff1Encrypt (r : Run)
  | ff1Decrypt (r : Run)
  | gcmEncrypt (r : Run)
  | gcmDecrypt (r : Run)
  | aesCbc (r : Run)
  | aesCtr (r : Run)
  | aesXts (r : Run)
  | aesEcb (r : Run)
  | tdesCbc (r : Run)
  | hash (r : Run)
  | random (r : Run)
  | batchVerifyEd25519 (r : Run)
  | customFunction (r : Run)
  -- 11: the leaf instructions, R format: rd, ra, rb
  | add (c : CoreId) (rd ra rb : BitVec 5)
  | sub (c : CoreId) (rd ra rb : BitVec 5)
  | and (c : CoreId) (rd ra rb : BitVec 5)
  | or (c : CoreId) (rd ra rb : BitVec 5)
  | xor (c : CoreId) (rd ra rb : BitVec 5)
  | sll (c : CoreId) (rd ra rb : BitVec 5)
  | srl (c : CoreId) (rd ra rb : BitVec 5)
  | sra (c : CoreId) (rd ra rb : BitVec 5)
  | slt (c : CoreId) (rd ra rb : BitVec 5)
  | sltu (c : CoreId) (rd ra rb : BitVec 5)
  | mul (c : CoreId) (rd ra rb : BitVec 5)
  | mulh (c : CoreId) (rd ra rb : BitVec 5)
  | mulhu (c : CoreId) (rd ra rb : BitVec 5)
  | divu (c : CoreId) (rd ra rb : BitVec 5)
  | remu (c : CoreId) (rd ra rb : BitVec 5)
  | csel (c : CoreId) (rd ra rb : BitVec 5)
  | bswap (c : CoreId) (rd ra rb : BitVec 5)
  -- I format
  | addi (c : CoreId) (rd ra : BitVec 5) (imm : BitVec 16)
  | andi (c : CoreId) (rd ra : BitVec 5) (imm : BitVec 16)
  | ori (c : CoreId) (rd ra : BitVec 5) (imm : BitVec 16)
  | xori (c : CoreId) (rd ra : BitVec 5) (imm : BitVec 16)
  | shi (c : CoreId) (rd ra : BitVec 5) (imm : BitVec 16)
  | lui (c : CoreId) (rd ra : BitVec 5) (imm : BitVec 16)
  | slti (c : CoreId) (rd ra : BitVec 5) (imm : BitVec 16)
  | sltiu (c : CoreId) (rd ra : BitVec 5) (imm : BitVec 16)
  -- M format
  | ld (c : CoreId) (rd ra : BitVec 5) (width : BitVec 3) (disp : BitVec 13)
  | st (c : CoreId) (rs ra : BitVec 5) (width : BitVec 3) (disp : BitVec 13)
  | ldu (c : CoreId) (rd ra : BitVec 5) (width : BitVec 3) (disp : BitVec 13)
  | stu (c : CoreId) (rs ra : BitVec 5) (width : BitVec 3) (disp : BitVec 13)
  | tas (c : CoreId) (rd ra rb : BitVec 5) (disp : BitVec 11)
  | cb (c : CoreId) (ra rb : BitVec 5) (cond : BitVec 3) (off : BitVec 13)
  | cbi (c : CoreId) (ra : BitVec 5) (cond : BitVec 3) (imm : BitVec 8) (off : BitVec 10)
  | j (c : CoreId) (rd : BitVec 5) (off : BitVec 21)
  | jr (c : CoreId) (rd ra : BitVec 5) (imm : BitVec 16)
  | rpt (c : CoreId) (ra : BitVec 5) (imm : BitVec 16)
  | rptu (c : CoreId) (ra : BitVec 5) (imm : BitVec 16)
  | mfs (c : CoreId) (rd : BitVec 5) (spr : BitVec 8)
  | mts (c : CoreId) (ra : BitVec 5) (spr : BitVec 8)
  | fence (c : CoreId)
  | eret (c : CoreId)
  | syscall (c : CoreId) (n : BitVec 8)
  | yield (c : CoreId)
  | waittick (c : CoreId) (rd ra : BitVec 5)
  | bnx (c : CoreId) (rd : BitVec 5) (imm : BitVec 8)
  | bnxEnd (c : BitVec 8) (o : BnxOutcome) (points : Nat)
  | keyld (c : CoreId) (rd ra : BitVec 5) (target : BitVec 8)
  | keyldAnswer (c : BitVec 8)
  | wipe (c : CoreId) (a b : BitVec 5) (target : BitVec 8)
  | budgetInterrupt (c : BitVec 8)
  | budgetHoldTimeout (c : BitVec 8)
  | dramStoreDiscard (c : BitVec 8) (line : BitVec 40)
  | accessTableWrite (g : Bool) (entry : BitVec 8) (value : BitVec 64)
  -- 08: engines
  | pqpostWrite (c : BitVec 8) (value : BitVec 32)
  | pipelineRequestEnd (c : BitVec 8) (descriptor : Nat) (faultAfter : Option Nat)
  | dgoGo (c : BitVec 8) (ctx : Bool)
  | dgoAbort (c : BitVec 8) (ctx : Bool)
  | digestListEnd (c : BitVec 8) (ctx : Bool)
  | dsaveSave (c : BitVec 8) (ctx : Bool)
  | dsaveRestore (c : BitVec 8) (ctx : Bool)
  | dcmpgo (c : BitVec 8) (ctx : Bool)
  | dcmpEnd (c : BitVec 8) (ctx : Bool)
  -- 10: Seed requests
  | srreqWrite (c : BitVec 8) (value : BitVec 32)
  | srcancelWrite (c : BitVec 8)
  | seedDeliveryDone (c : BitVec 8)
  -- 09: heartwood
  | heartwoodCheck (c : BitVec 8)
  | heartwoodLoadWindow (c : BitVec 8)
  | heartwoodLoadHalf (c : BitVec 8)
  | ceilingCommitRetry (slot : BitVec 17) (flashOk : Bool)
  | primePoolRefill (size : BitVec 2)
  | journalEraseDone
  -- 10: Seed
  | seedBlock (bits : List Bool)
  | seedSourceRestart
  -- 14: the bark
  | barkAlarmGroup (group : List Alarm)
  | barkSourceInactive (source : BitVec 5)
  | loopModeTransitionEnd (loop : BitVec 4) (mismatch : Bool)
  | sequencerInvalidState
  | aonPor
  -- 15: ring log and flash
  | openRecordTimeout
  | logSecondRollover
  | flashOpDone (bank : BitVec 2) (o : FlashOutcome)
  | flashRefresh (bank : BitVec 2)
  -- 19, 18: power
  | powerGood (maddr : Bool) (m : Meters)
  | powerFailWarning (writable : Nat) (signable : Nat)
  | shutdownIdle
  | wakeComplete (seedOk : Bool) (cellFail : List Nat) (packageBad : List Nat)
  -- 16: the twin
  | twinLinkTrained (lanes : BitVec 2)
  | twinHandshakeRetry
  | twinHandshakeTimeout
  | hello (session : BitVec 32) (serial : BitVec 64) (identity : Bool) (domain : Bytes) (keys : Bytes)
  | auth (session : BitVec 32) (counter : Nat) (cert : Bytes) (signature : Bytes)
  | role (session : BitVec 32) (counter : Nat) (primaryHeld : Bool) (epoch : BitVec 32) (persisted : Nat) (unreplicated : Nat) (empty : Bool) (positions : List (Nat × Nat))
  | heartbeat (session : BitVec 32) (counter : Nat)
  | heartbeatSend
  | repl (session : BitVec 32) (counter : Nat) (sequence : Nat) (item : Bytes) (flashOk : Bool)
  | ack (session : BitVec 32) (counter : Nat) (sequence : Nat) (persisted : Bool)
  | ceil (session : BitVec 32) (counter : Nat) (handle : BitVec 32) (ceiling : BitVec 64)
  | grant (session : BitVec 32) (counter : Nat) (handle : BitVec 32) (first last : BitVec 64) (toReceiver : Bool)
  | req (session : BitVec 32) (counter : Nat) (handle : BitVec 32)
  | rekey (session : BitVec 32) (counter : Nat) (keys : Bytes)
  | close (session : BitVec 32) (counter : Nat) (reason : BitVec 8)
  | twinRekeyDue
  | twinLinkLoss
  | twinLeaseExpiry
  -- 17: cards, reader and tag
  | sdInsert
  | sdRemoval
  | sdRetune (window : Nat)
  | sdBusyTimeout
  | iccInsert
  | iccRemoval
  | watchLoadChange (poll : List PollRound)
  | watchHoldExpiry
  | externalFieldDetected
  | externalFieldGone
  | tagReqb (wup : Bool)
  | tagAttrib
  | tagHltb
  | tagSelect (aid : Bytes)
  | tagReadBinary (offset : BitVec 16) (length : BitVec 8)
  | tagOtherApdu
  | tagctlSwap (value : BitVec 32)
  | tagSwapApply
  | tagshadowWrite (offset : BitVec 12) (value : BitVec 32)
  -- 19: fan and management port
  | fanDutyUpdate (rpm : Nat) (m : Meters)
  | fanStall
  | mgmtRead (address : BitVec 8) (count : Nat)
  | mpenlRead
  | dbyteslRead (c : BitVec 8) (ctx : Bool)
  | groveLinkTrained (g : Bool) (packageBad : List Nat)
  | sdCardIdentified (ok : Bool) (busMode : BitVec 3) (writeProtected : Bool) (capacity : Nat) (copy0 copy1 : Bytes) (headers commits : List Bytes) (readBack : Bytes)
  | sdCurrentLimit
  | serviceButtonChange (held : Bool)
  | functionPowerStateChange (fn : BitVec 6) (d3hot : Bool)
  | vfEnableWrite (n : BitVec 6)
  | illegalInstruction (c : CoreId)
  | instructionFetchFault (c : CoreId) (address : BitVec 64)
  deriving DecidableEq, Repr

end Sys2Proof
end

