-- ==== Sys2Proof/Decode.lean ====
section
/-! DEFINITION. The command that a word spells by the bits of spec/opcode_table.json, which gives bits to no row; and the leaf
processor's own decoder, from a 32-bit instruction word to the instruction that it spells (11 R289 to R307). -/

namespace Sys2Proof

/-- No row of the table has bits, so no word spells a command. -/
def decodeTableWord (_nbits _w : Nat) : Option Instr := none

/-! ### The leaf instruction formats (11 R289) -/

/-- Field a of every format: [25:21]. -/
def leafA (w : BitVec 32) : BitVec 5 := w.extractLsb' 21 5
/-- Field b: [20:16]. -/
def leafB (w : BitVec 32) : BitVec 5 := w.extractLsb' 16 5
/-- rb of formats R and A: [15:11]. -/
def leafRb (w : BitVec 32) : BitVec 5 := w.extractLsb' 11 5
/-- imm16 of formats I and P. -/
def leafImm (w : BitVec 32) : BitVec 16 := w.extractLsb' 0 16
/-- width of format M, cond of format B: [15:13]. -/
def leafTop3 (w : BitVec 32) : BitVec 3 := w.extractLsb' 13 3
/-- disp13 and off13: [12:0]. -/
def leafLow13 (w : BitVec 32) : BitVec 13 := w.extractLsb' 0 13
/-- imm8 of format X. -/
def leafImm8 (w : BitVec 32) : BitVec 8 := w.extractLsb' 0 8

/-- Special registers that exist (11 R284). -/
def leafSprs : List Nat := [0x00, 0x01, 0x02, 0x03, 0x04, 0x05, 0x06, 0x07, 0x08, 0x09, 0x10, 0x11, 0x12, 0x13]

/-- The instruction if a condition of its encoding holds. -/
def legal (b : Bool) (i : Instr) : Option Instr := if b then some i else none

/-- Opcode 0x00: the register ALU, by func (11 R291). -/
def decodeAlu (c : CoreId) (w : BitVec 32) : Option Instr :=
  let rd := leafA w
  let ra := leafB w
  let rb := leafRb w
  match (w.extractLsb' 0 11).toNat with
  | 0x001 => some (.add c rd ra rb)
  | 0x002 => some (.sub c rd ra rb)
  | 0x003 => some (.and c rd ra rb)
  | 0x004 => some (.or c rd ra rb)
  | 0x005 => some (.xor c rd ra rb)
  | 0x006 => some (.sll c rd ra rb)
  | 0x007 => some (.srl c rd ra rb)
  | 0x008 => some (.sra c rd ra rb)
  | 0x009 => some (.slt c rd ra rb)
  | 0x00A => some (.sltu c rd ra rb)
  | 0x010 => some (.mul c rd ra rb)
  | 0x011 => some (.mulh c rd ra rb)
  | 0x012 => some (.mulhu c rd ra rb)
  | 0x013 => some (.divu c rd ra rb)
  | 0x014 => some (.remu c rd ra rb)
  | 0x018 => some (.csel c rd ra rb)
  | 0x020 => legal (rb == 0) (.bswap c rd ra rb)
  | _ => none

/-- Opcode 0x30: the system instructions, by sub (11 R303). -/
def decodeSystem (c : CoreId) (w : BitVec 32) : Option Instr :=
  let a := leafA w
  let b := leafB w
  let imm := leafImm8 w
  match (w.extractLsb' 8 8).toNat with
  | 0x01 => legal (b == 0 && leafSprs.contains imm.toNat) (.mfs c a imm)
  | 0x02 => legal (a == 0 && leafSprs.contains imm.toNat) (.mts c b imm)
  | 0x03 => legal (a == 0 && b == 0 && imm == 0) (.fence c)
  | 0x04 => legal (a == 0 && b == 0 && imm == 0) (.eret c)
  | 0x05 => legal (a == 0 && b == 0) (.syscall c imm)
  | 0x06 => legal (a == 0 && b == 0 && imm == 0) (.yield c)
  | 0x07 => legal (imm == 0) (.waittick c a b)
  | _ => none

/-- Opcode 0x31: the crypto instructions, by sub (11 R307). -/
def decodeCrypto (c : CoreId) (w : BitVec 32) : Option Instr :=
  let a := leafA w
  let b := leafB w
  let imm := leafImm8 w
  match (w.extractLsb' 8 8).toNat with
  | 0x01 => legal (b == 0 && decide (imm.toNat < 2)) (.bnx c a imm)
  | 0x02 => legal (decide (imm.toNat < 3)) (.keyld c a b imm)
  | 0x03 => legal (decide (imm.toNat < 5) && (imm == 0 || (a == 0 && b == 0))) (.wipe c a b imm)
  | _ => none

/-- The instruction that a word spells in core `c`, by its major opcode; none where R290 makes the word ILLEGAL. The trunk's
cores have no banks and halves (R282). -/
def decodeLeaf (c : CoreId) (w : BitVec 32) : Option Instr :=
  let a := leafA w
  let b := leafB w
  let imm := leafImm w
  let top := leafTop3 w
  let low := leafLow13 w
  let cond := w.extractLsb' 18 3
  match (w.extractLsb' 26 6).toNat with
  | 0x00 => decodeAlu c w
  | 0x01 => some (.addi c a b imm)
  | 0x02 => some (.andi c a b imm)
  | 0x03 => some (.ori c a b imm)
  | 0x04 => some (.xori c a b imm)
  | 0x05 => legal (imm.extractLsb' 8 8 == 0 && imm.extractLsb' 6 2 != 3) (.shi c a b imm)
  | 0x06 => legal (b == 0) (.lui c a b imm)
  | 0x07 => some (.slti c a b imm)
  | 0x08 => some (.sltiu c a b imm)
  | 0x10 => legal (top != 7) (.ld c a b top low)
  | 0x11 => legal (decide (top.toNat < 4)) (.st c a b top low)
  | 0x12 => legal (top != 7 && a != b) (.ldu c a b top low)
  | 0x13 => legal (decide (top.toNat < 4)) (.stu c a b top low)
  | 0x14 => some (.tas c a b (leafRb w) (w.extractLsb' 0 11))
  | 0x18 => legal (decide (top.toNat < 6)) (.cb c a b top low)
  | 0x19 => legal (decide (cond.toNat < 6)) (.cbi c a cond (w.extractLsb' 10 8) (w.extractLsb' 0 10))
  | 0x1A => some (.j c a (w.extractLsb' 0 21))
  | 0x1B => some (.jr c a b imm)
  | 0x20 =>
    if w.extractLsb' 16 4 ≠ 0 ∨ (a ≠ 0 ∧ imm ≠ 0) then none
    else if w.getLsbD 20 then some (.rptu c a imm) else some (.rpt c a imm)
  | 0x30 => decodeSystem c w
  | 0x31 => if c.toNat < 256 ∨ w.extractLsb' 0 16 = 0x0300 then decodeCrypto c w else none
  | _ => none

end Sys2Proof
end

