-- ==== Sys2Proof/Config.lean ====
section
/-! DEFINITION. What the spec leaves to the implementation: opaque constants, so that no proof can see a value of them (log
entries 2, 3, 7, 11). -/

namespace Sys2Proof.Config

/-- What an open function stands for: a form or a choice that neither a rule nor a standard of 00 R9 fixes. Its inputs are the strings
given to `stdByte`, `stdHolds` and `stdNat` in the order the caller's docstring gives (log entries 2, 7, 13, 20, 26, 62). -/
inductive Std where
  | certificate | devid | storeKey | imageCheck
  | strength | checkValue | tkForm | blockFlag | derivedMode | pinFill | blockPad | drbg
  | montgomery | verdictWord | batchCount | shakeForm
  deriving DecidableEq, Repr

/-- Byte `k` of an open function's output on its inputs (log entry 2). -/
opaque stdByte : Std → List Bytes → Nat → Byte

/-- An open verdict on its inputs (log entry 2). -/
opaque stdHolds : Std → List Bytes → Bool

/-- An open length or code on its inputs (log entry 2). -/
opaque stdNat : Std → List Bytes → Nat

/-- Byte `k` of random draw `n`: what Seed delivers (10 R271), or a value the spec leaves open (log entry 3). -/
opaque freeByte : Nat → Nat → Byte

/-- An open number of draw `n` (log entry 3). -/
opaque freeNat : Nat → Nat

/-- Stall cycles of a cell between two instructions: R312 gives typical figures only (log entry 11). -/
opaque stallCycles : Nat → Nat

/-- The module's 64-bit serial number (03 R68), its own in every module (log entry 7). -/
opaque serial : BitVec 64

/-- The vendor identifier assigned to Yiljan Devices (03 R62, log entry 66). -/
opaque vendor : BitVec 16

/-- Yiljan's firmware keys, ECDSA P-384 and ML-DSA-87 public keys, whose digests the boot ROM holds (13 R349, log entry 2). -/
opaque firmwareKey : Bool → Nat → Byte

/-- Whether the ordering code is KZ256-E; otherwise KZ256-C (00 R1, 03 R68). -/
opaque isE : Bool

/-- The fixed seeds with which the loops' and mesh traces' generators run after AON_POR (14 R364, log entry 9). -/
opaque lfsrSeed : Nat → Nat

/-- The 256-bit device seed in the fuses (13 R356), no bus reaches it. -/
opaque deviceSeed : Nat → Byte

/-- The boot-ROM, leaf-kernel and microprogram-store digests extended into MREG0 and MREG1 (13 R353). -/
opaque measured : Nat → Nat → Byte

/-- Entries that the trunk writes into a grove's access table with the leaf kernel: kernel code and data, and the partitions' staging
regions (12 R329, log entry 19). -/
opaque tableEntry : Bool → Nat → BitVec 64

/-- Byte `i` of the leaf kernel, as the trunk loads it into a cell's instruction SRAM from address 0 (11 R288, 13 R347): the spec gives no
code. -/
opaque leafKernel : Nat → Byte
opaque leafKernelLength : Nat

/-- Word index of step 1 of 06 R149 in the leaf kernel, and the kernel's stack pointer there (12 R328). -/
opaque kernelLoop : BitVec 13
opaque kernelStack : Word

/-- Declared time, in µs, of the internal cell job of a (c) command, by its code (03 R72, 02 R49). -/
opaque internTime : Nat → Nat

/-- Words of an erase-flag row (15 R381): the spec gives no length (log entry 2). -/
opaque flagWords : Nat

end Sys2Proof.Config
end

