-- ==== Sys2Proof/Machine/State.lean ====
section
/-! DEFINITION. The block's state as plain data: every register, queue, buffer, counter, mode and pin that the spec names,
and the queue of waiting commands. Tables are lists of (index, value) with rising index; an index not listed holds the
table's reset value, which the accessor that reads it names. -/

namespace Sys2Proof.Machine

/-- A sparse table: pairs of an index and a value, indexes strictly rising. -/
abbrev Tbl (α : Type) := List (Nat × α)

/-- Why a command stops the block with a fault. -/
inductive Fault where
  /-- Raised by no meaning of this model: the spec gives every command of the table an effect. Safe: it would stop. -/
  | stuck
  deriving DecidableEq, Repr

/-- Why a command has no meaning. -/
inductive Refusal where
  /-- Raised by an arm of `exec` for a command without a meaning yet, under the row's mnemonic. Safe: it stops. -/
  | notModelled (mnemonic : String)
  deriving DecidableEq, Repr

/-! ### Names that the spec fixes -/

/-- Status codes of 04 R118, 06 R172, 09 R251 and 17 R425. -/
inductive Status where
  | ok | okRequeued | okDegraded
  | malformedEntry | malformedChain | badFunction | badLength | badParameter
  | notAuthorised | partitionMismatch | sessionInvalid | quorumPending | cardRejected | stateRefused
  | keyNotFound | keyUsage | nonceExhausted | keyLimit | keyStaleGeneration | keyReadOnlyTwin | slotOccupied
  | blockInvalid | counterReserving
  | expired | sliceOverrun | drainedRetry | partnerLost | queueDestroyed | intakeFull | noResource | notIdle
  | verifyFail
  | cellFault | dualMismatch | haltedByAlarm | randomUnavailable
  | mediaRemoved | commitUnknown | notErased | bankBusySelf | uncorrectable | tagBusy | noMedia | mediaReadOnly
  | mediaError | unresolved
  deriving DecidableEq, Repr

/-- Life-cycle states (13 R338). -/
inductive Life where
  | factory | transit | blank | operational | maintenance | recovery | retired
  deriving DecidableEq, Repr

/-- Twin roles, coded as STATUS.TWIN (03 R68). -/
inductive TwinRole where
  | solo | primary | secondary | splitPrimary | splitSecondary
  deriving DecidableEq, Repr

/-- Power modes (18 R453). -/
inductive PowerMode where
  | full | capped | dormant
  deriving DecidableEq, Repr

/-- Seed modes (10 R277). -/
inductive SeedMode where
  | normal | raw | pattern
  deriving DecidableEq, Repr

/-- RF modes set by SET_RF (04, 17 R444). -/
inductive RfMode where
  | off | reader | watch
  deriving DecidableEq, Repr

/-- Cell states (06 R152). -/
inductive CellSt where
  | idle | resident | draining | drained | parked | fenced | selftest | failed
  deriving DecidableEq, Repr

/-- Response classes (14 R361), weakest first. -/
inductive Cls where
  | log | notify | halt | zeroize | lockout
  deriving DecidableEq, Repr

/-- Roles (04 R105). -/
inductive Role where
  | host | operator | officer | auditor
  deriving DecidableEq, Repr

/-! ### Host interface (03) -/

/-- MBSTAT.STATE (R69). -/
inductive MbState where
  | idle | busy | done
  deriving DecidableEq, Repr

/-- A mailbox block (R69). -/
structure Mailbox where
  req : BitVec 64 := 0
  rsp : BitVec 64 := 0
  en : Bool := false
  ie : Bool := false
  vec : BitVec 6 := 0
  state : MbState := .idle
  ovr : Bool := false
  dmaErr : Bool := false
  seq : BitVec 8 := 0
  lastSt : BitVec 16 := 0
  deriving DecidableEq, Repr

/-- The indices of one host-memory queue (R82, R83, R84). -/
structure Ring where
  dev : Nat := 0
  host : Nat := 0
  wrap : Nat := 0
  /-- A read of the index record is outstanding. -/
  reading : Bool := false
  /-- A doorbell came during that read. -/
  again : Bool := false
  deriving DecidableEq, Repr

/-- A completion entry before its phase bit is set (R93). -/
structure Cpl where
  tag : Nat
  status : Status
  sq : Nat
  tick : Nat
  cell : Nat
  slices : Nat
  outLen : Nat
  epoch : Nat
  receipt : Nat
  /-- For a chain, the queue's head after its LAST entry (R91). -/
  head : Option Nat := none
  /-- The job that it is of, whose staging buffer is in use until it is written (06 R151). -/
  job : Option Nat := none
  deriving DecidableEq, Repr

/-- The administrative pair's registers (R73). -/
structure AdminPair where
  en : Bool := false
  ie : Bool := false
  vec : BitVec 6 := 0
  sqLog : BitVec 4 := 0
  cqLog : BitVec 4 := 0
  active : Bool := false
  busy : Bool := false
  cfgErr : Bool := false
  fetchErr : Bool := false
  sqBase : BitVec 64 := 0
  sqRec : BitVec 64 := 0
  cqBase : BitVec 64 := 0
  cqRec : BitVec 64 := 0
  sq : Ring := {}
  cq : Ring := {}
  waiting : List Cpl := []
  /-- The next entry needs an internal cell job and none was free (R72). -/
  held : Bool := false
  deriving DecidableEq, Repr

/-- A service entry (R95). -/
structure SvcEntry where
  code : Nat
  seq : Nat
  tick : Nat
  partition : Nat
  payload : Bytes
  deriving DecidableEq, Repr

/-- A service queue's registers and waiting entries (R73, R97). -/
structure SvcQueue where
  base : BitVec 64 := 0
  record : BitVec 64 := 0
  en : Bool := false
  ie : Bool := false
  vec : BitVec 6 := 0
  log : BitVec 4 := 0
  active : Bool := false
  cfgErr : Bool := false
  drop : BitVec 16 := 0
  seq : Nat := 0
  waiting : List SvcEntry := []
  ring : Ring := {}
  deriving DecidableEq, Repr

/-- One vector: its coalescing register and its MSI-X entry (R61, R76, R98). -/
structure MsixVector where
  cnt : BitVec 8 := 0
  ticks : BitVec 8 := 0
  pend : BitVec 8 := 0
  /-- Boundaries seen by the oldest pending addition. -/
  age : Nat := 0
  addr : BitVec 64 := 0
  data : BitVec 32 := 0
  masked : Bool := true
  pba : Bool := false
  deriving DecidableEq, Repr

/-- One PCIe function (R62, R69 to R78). -/
structure Fn where
  mbox : Tbl Mailbox := []
  adm : AdminPair := {}
  svc : Tbl SvcQueue := []
  vec : Tbl MsixVector := []
  qselNum : BitVec 10 := 0
  qselKind : Bool := false
  tickH : BitVec 16 := 0
  enH : BitVec 32 := 0
  jobsH : BitVec 32 := 0
  jobs : BitVec 64 := 0
  expire : BitVec 32 := 0
  overrun : BitVec 32 := 0
  malform : BitVec 32 := 0
  idxErr : BitVec 32 := 0
  d3hot : Bool := false
  wakeWanted : Bool := false
  /-- The submission queue served last (R84). -/
  fetchLast : Nat := 0
  deriving DecidableEq, Repr

/-- A queue made by CREATE_QUEUE (04 R112, 03 R75). -/
structure Queue where
  fn : Nat
  completion : Bool
  num : Nat
  log : Nat
  dual : Bool := false
  requeue : Bool := false
  degrade : Bool := false
  ie : Bool := false
  vec : BitVec 6 := 0
  cq : Nat := 0
  quota : Nat := 0
  weight : Nat := 1
  base : BitVec 64 := 0
  record : BitVec 64 := 0
  ring : Ring := {}
  /-- Fetched entries of the open chain, FIRST first, with their stamp (R91). -/
  chain : List Bytes := []
  chainStamp : Nat := 0
  waiting : List Cpl := []
  destroyed : Bool := false
  deriving DecidableEq, Repr

/-! ### Keys (09) -/

/-- A slot of the symmetric or the private cache (R237, R239). -/
structure Slot where
  key : Bytes := []
  alg : Nat := 0
  usage : BitVec 16 := 0
  partition : Nat := 0
  tk48 : Bool := false
  forms : Bool := false
  gen : Nat := 0
  /-- Highest generation issued in the slot: above `gen` where a reset put an older record back (R235, log entry 24). -/
  top : Nat := 0
  occupied : Bool := false
  persistent : Bool := false
  unreplicated : Bool := false
  extended : Bool := false
  drawLocked : Bool := false
  isExt : Bool := false
  closed : Bool := false
  counter : Nat := 0
  limit : Nat := 0
  fixed : BitVec 32 := 0
  expiry : Nat := 0
  /-- The committed ceiling C (R250). -/
  ceiling : Nat := 0
  commitFailed : Bool := false
  deriving DecidableEq, Repr

/-! ### Jobs (02, 05, 06) -/

/-- What a copy of a job ended with (06 R155). -/
structure Result where
  status : Status
  /-- Output bytes in staging. -/
  out : Bytes
  /-- Output length reported: bytes written, or the needed length (03 R93). -/
  outLen : Nat
  entryDigest : Bytes
  outDigest : Bytes
  /-- The firmware epoch when the copy ended. -/
  epoch : Nat
  deriving DecidableEq, Repr

/-- Where a copy of a job stands (02 R44, R49, R54). -/
inductive Place where
  /-- In the intake, not admitted. -/
  | waiting
  /-- In a cell's plan, not started. -/
  | planned
  /-- Started: running, or resident between budgets. -/
  | running
  /-- Its completion record has been posted or its result is held (06 R160). -/
  | ended
  deriving DecidableEq, Repr

/-- What the LOADs of a job's start delivered to its cell: the keys as they stood then, and the per-signature secret (06 R149
step 6, 09 R246, R249). -/
structure Loaded where
  keyA : Slot := {}
  keyB : Slot := {}
  secret : Bytes := []
  deriving DecidableEq, Repr

/-- One copy of a job in one grove. -/
structure Copy where
  place : Place := .waiting
  cell : Nat := 0xFF
  tick : Nat := 0
  ran : Nat := 0
  /-- The tick in which it ran last. -/
  lastRan : Option Nat := none
  /-- Cell time used since admission, ns (06 R154 JTIME). -/
  used : Nat := 0
  slices : Nat := 0
  /-- Remaining declared time, µs. -/
  remaining : Nat := 0
  /-- Displacement allowance, µs (02 R48). -/
  allowance : Nat := 0
  long : Bool := false
  restarted : Bool := false
  /-- Cell time used passed the declared time (02 R53). -/
  overran : Bool := false
  ext : Nat := 0
  loaded : Option Loaded := none
  /-- Its ticket has been delivered to its cell (08 R214). -/
  ticketed : Bool := false
  /-- The random bytes drawn at its start, and those of a draw that has not ended (06 R149 step 7, 10 R273). -/
  random : Option Bytes := none
  draws : Bytes := []
  /-- Seed has refused its draw (10 R269, R278). -/
  drawFailed : Bool := false
  /-- Its custom function has been entered (11 R314). -/
  entered : Bool := false
  /-- The result held for the DUAL comparison (06 R160). -/
  result : Option Result := none
  deriving DecidableEq, Repr

/-- One transaction job (03 R88 to R92, 02 R42 to R49). -/
structure Job where
  fn : Nat
  q : Nat
  partition : Nat
  code : Nat
  tag : Nat
  fence : Bool := false
  dual : Bool := false
  requeue : Bool := false
  degrade : Bool := false
  stamp : Nat
  maxAge : Nat
  handleA : Handle
  handleB : Handle
  /-- Entry bytes 48-63 of the FIRST entry. -/
  params : Bytes
  entries : List Bytes
  input : Bytes := []
  staged : Bool := false
  inLen : Nat
  outCap : Nat
  outPtr : BitVec 64
  /-- Declared time W, µs. -/
  w : Nat
  copyA : Option Copy := none
  copyB : Option Copy := none
  /-- The status with which this job is to end at its next stop, marked by a halt, destroy, FLR, drain or loss. -/
  mark : Option Status := none
  /-- The tick of the expiry boundary (02 R45). -/
  markTick : Nat := 0
  /-- The submission queue's head after the chain's LAST entry (03 R91). -/
  head : Option Nat := none
  /-- DRAM address of its staging buffer (06 R151). -/
  buf : Option Nat := none
  /-- Orders 3 to 5 of R90 refuse it: it ends with this once its input has been read, which order 1 judges first. -/
  refusal : Option Status := none
  /-- An FLR ended the job: no completion is written for it (03 R99). -/
  silent : Bool := false
  /-- Done on one cell of a DUAL queue whose partner is absent (06 R173). -/
  degraded : Bool := false
  /-- The ticket value that heartwood issued for the job, shared by both copies (05 R124, 09 R265). -/
  issued : Option (BitVec 64) := none
  /-- The CHECK verdict already given under the DUAL pair identifier (09 R265). -/
  checked : Option Status := none
  deriving DecidableEq, Repr

/-- A completion record on its way from a dispatcher to the trunk (06 R155). -/
structure Posted where
  job : Nat
  grove : Bool
  status : Status
  out : Bytes
  outLen : Nat
  entryDigest : Bytes
  /-- The output digest of the record, and the epoch that the dispatcher adds (06 R155). -/
  outDigest : Bytes
  epoch : Nat
  cell : Nat
  tick : Nat
  ran : Nat
  deriving DecidableEq, Repr

/-- A DRAM staging buffer (06 R151): its size, the partition whose region it is in, and the job that has it. -/
structure Buf where
  size : Nat
  partition : Nat
  job : Option Nat
  deriving DecidableEq, Repr

/-- What waits for step t5 of a tick (02 R41): a record that a dispatcher posts for a fenced cell, or a DUAL job that a lost partner
settles (06 R156, R173). -/
inductive Late where
  | record (p : Posted)
  | settle (job : Nat)
  deriving DecidableEq, Repr

/-! ### Cells (06, 07, 08, 10, 11, 12) -/

/-- A store in the store buffer: the memory key of its first byte and its bytes (11 R294). -/
structure BufStore where
  key : Nat
  data : Bytes
  deriving DecidableEq, Repr

/-- What holds a cell between two instructions. -/
inductive Wait where
  | none
  /-- WAITTICK into rd; with a target, until the latched tick exceeds it (11 R306). -/
  | tick (rd : BitVec 5) (target : Option Word)
  /-- BNX in a bank, into rd (11 R308). -/
  | bnx (bankL : Bool) (rd : BitVec 5)
  /-- KEYLD of a handle to a target, into rd (11 R309). -/
  | keyld (rd : BitVec 5) (handle : Handle) (target : Nat)
  deriving DecidableEq, Repr

/-- One half of the secret bank with its metadata (07 R177, R178). -/
structure Half where
  full : Bool := false
  key : Bytes := []
  alg : Nat := 0
  perSig : Bool := false
  loads : BitVec 8 := 0
  /-- Handles whose delivery into this half is in flight, oldest first (11 R308 to R310). -/
  delivering : List Handle := []
  deriving DecidableEq, Repr

/-- A microprogram started in a bank (07 R183, R185): its control block at the start, the operands that it was given, and the
bank as it left it at its last stop. The spec keeps all of it in the bank itself, in a form that it does not give. -/
structure BnuRun where
  cb : Bytes
  ins : List Bytes
  left : Option Bytes := none
  deriving DecidableEq, Repr

/-- The leaf processor of a cell (11 R283 to R288, 12). -/
structure Core where
  pc : Word := 0
  gpr : Vector Word 32 := Vector.replicate 32 0
  en : Bool := false
  pl : Bool := false
  ie : Bool := false
  guard : Bool := false
  prog : BitVec 32 := 0
  savepc : Word := 0
  savest : Word := 0
  gsavepc : Word := 0
  gsavest : Word := 0
  gstack : Word := 0
  kbound : Word := 0x8040
  cause : Word := 0
  faddr : Word := 0
  cycle : Word := 0
  instret : Word := 0
  locked : Bool := false
  /-- BUDGET raised and not yet taken (12 R326). -/
  budget : Bool := false
  wait : Wait := .none
  sbuf : List BufStore := []
  imprecise : Option Nat := none
  /-- Access-table entries held in the lookaside, newest first (12 R333). -/
  look : List Nat := []
  deriving DecidableEq, Repr

/-- An entry of the access table (12 R329), held as its 64 bits. -/
abbrev AtEntry := BitVec 64

/-- Access tables that bursts issued before a table write were judged by (12 R333): a bound on the place of a burst in its stream, and the
table, oldest first. -/
abbrev Verdicts := List (Nat × Tbl AtEntry)

/-- DSTAT.STATE (08 R224). -/
inductive DState where
  | idle | busy | open | done | error
  deriving DecidableEq, Repr

/-- The two SAVEST codes that a SAVE or RESTORE leaves, and none (08 R224, R230). -/
inductive DSaveSt where
  | none | done | refused | failed
  deriving DecidableEq, Repr

/-- One digest-engine context (08 R223, R224). -/
structure DCtx where
  alg : BitVec 4 := 0
  keyed : Bool := false
  pair : Bool := false
  key : BitVec 32 := 0
  list : BitVec 64 := 0
  count : BitVec 13 := 0
  state : DState := .idle
  saveSt : DSaveSt := .none
  gen : BitVec 8 := 0
  code : BitVec 16 := 0
  bytes : BitVec 64 := 0
  bytesH : BitVec 32 := 0
  outLen : BitVec 11 := 0
  out : BitVec 64 := 0
  save : BitVec 64 := 0
  res : Bytes := []
  cmp : BitVec 64 := 0
  cmpLen : BitVec 7 := 0
  cmpBusy : Bool := false
  cmpValid : Bool := false
  cmpMatch : Bool := false
  partition : Nat := 0
  /-- The algorithm, key mark, handle and output length in force for the digest in progress (R226, R228). -/
  curAlg : Nat := 0
  curKeyed : Bool := false
  curKey : BitVec 32 := 0
  curOut : Nat := 0
  curPair : Bool := false
  /-- Bytes absorbed, the key held and whether a KEYFRAG gave it, the customisation string. -/
  absorbed : Bytes := []
  keyHeld : Bytes := []
  keyGiven : Bool := false
  cust : Bytes := []
  /-- The level, ATCTX.PART and CID with which GO was written (12 R332). -/
  goPl : Bool := false
  goPart : Nat := 0
  /-- The state a BUSY context was in when GO was written: OPEN or DONE. -/
  wasOpen : Bool := false
  wasDone : Bool := false
  /-- The registers for the list's first digest were taken when GO was written (R226). -/
  latched : Bool := false
  /-- Context 1 is BUSY with context 0's list (R229). -/
  paired : Bool := false
  seen : Verdicts := []
  deriving DecidableEq, Repr

/-- One key-window context of a grove's pipeline (08 R202, R208 to R210). -/
structure WCtx where
  handle : Handle
  partition : Nat
  alg : Nat
  usage : BitVec 16
  fixed : BitVec 32
  key : Bytes
  valid : Bool
  deriving DecidableEq, Repr

/-- A request outstanding at the cipher pipeline (08 R207, R217). -/
structure PReq where
  /-- What tells it from every other request of the grove (model's own). -/
  id : Nat := 0
  key : Nat
  /-- The 64 bytes of the descriptor as they stood when it was posted. -/
  desc : Bytes
  pl : Bool
  part : Option Nat
  jpart : Nat
  /-- The request has its stream slot. -/
  streaming : Bool
  /-- The key window has missed and heartwood has been asked (R208). -/
  missing : Bool
  /-- The job of the cell that posted it (R220). -/
  job : Option Nat := none
  /-- The context that its stream is bound to, which serves it to its end (R210). -/
  bound : Option WCtx := none
  seen : Verdicts := []
  deriving DecidableEq, Repr

/-- The cell's view of the pipeline request port and its tickets (08 R214, R216). -/
structure PPort where
  outstanding : List PReq := []
  /-- Requests posted so far (model's own). -/
  posts : Nat := 0
  done : BitVec 8 := 0
  ovf : Bool := false
  addr : Bool := false
  ticketS : Option (Handle × BitVec 64) := none
  ticketL : Option (Handle × BitVec 64) := none
  deriving DecidableEq, Repr

/-- A generator (10 R271): the key and V of the CTR_DRBG's working state, the bytes made since its last reseed, and its queue of
output, the oldest byte first (R272). -/
structure Gen where
  running : Bool := false
  key : Bytes := []
  v : Bytes := []
  made : Nat := 0
  queue : Bytes := []
  deriving DecidableEq, Repr

/-- A request that waits at a grove's queue (10 R273): of a cell's Seed page, or the kernel's for a job, with the bytes that it still
lacks and those that the job's next requests ask for (05 R138). -/
structure SeedReq where
  cell : Nat
  job : Option Nat := none
  left : Nat := 0
  more : Nat := 0
  deriving DecidableEq, Repr

/-- SRSTAT.STATE (10 R275). -/
inductive SrState where
  | idle | waiting | done | failed
  deriving DecidableEq, Repr

/-- The cell's Seed page (10 R275). -/
structure SeedPort where
  dst : BitVec 40 := 0
  state : SrState := .idle
  ovr : Bool := false
  addr : Bool := false
  code : BitVec 16 := 0
  len : Nat := 0
  low : Bool := false
  got : Nat := 0
  pl : Bool := false
  part : Option Nat := none
  deriving DecidableEq, Repr

/-- An internal job of partition 0 (02 R49): the partition whose root it signs, or a command's work, with its declared time, what it
still declares and, of a resident one, its allowance, in µs. -/
structure Intern where
  root : Option Nat := none
  w : Nat
  left : Nat
  long : Bool := false
  allowance : Nat := 0
  deriving DecidableEq, Repr

/-- One item of a cell's plan (06 R154). -/
structure Item where
  job : Nat
  declared : Nat
  long : Bool
  resume : Bool
  deriving DecidableEq, Repr

/-- One cell. -/
structure Cell where
  st : CellSt := .selftest
  markedDrained : Bool := false
  /-- Windows in which the cell was fenced, newest first (06 R159). -/
  fences : List Nat := []
  testAt : Nat := 0
  testByRestore : Bool := false
  /-- The self-test passed and the cell waits for its boundary (06 R158). -/
  testPassed : Bool := false
  /-- First tick at which the cell takes plans again (06 R158). -/
  plansFrom : Nat := 0
  ctick : BitVec 48 := 0
  /-- Budget remaining, ns (BREM). -/
  brem : Nat := 0
  jtime : Nat := 0
  jpart : Nat := 0
  planBase : BitVec 32 := 0
  cntJob : BitVec 32 := 0
  cntBusy : BitVec 32 := 0
  cntSeed : BitVec 32 := 0
  plan : List Item := []
  /-- The resident long job (06 R152). -/
  resident : Option Nat := none
  /-- Internal jobs placed on the cell: short ones, and a resident long one (02 R49). -/
  intern : List Intern := []
  /-- ATCTX: PART, VALID, and its reserved bits as they were written (12 R330). -/
  atPart : Nat := 0
  atValid : Bool := false
  atRest : Nat := 0
  core : Core := {}
  halfS : Half := {}
  halfL : Half := {}
  bnuS : Option BnuRun := none
  bnuL : Option BnuRun := none
  /-- Heartwood's answer to the KEYLD in progress (11 R309). -/
  answer : Option Status := none
  /-- Bytes of the branch-SRAM scratch area up to the highest address that the short job, and the long job, wrote (06 R150). -/
  scratchS : Nat := 0
  scratchL : Nat := 0
  /-- The kernel's copy of a long job's registers (11 R316). -/
  savedCore : Option Core := none
  dctx0 : DCtx := {}
  dctx1 : DCtx := {}
  port : PPort := {}
  seed : SeedPort := {}
  /-- Counts of the receipt window (06 R175): busy, unavailable, jobs, overruns, fences, Seed wait. -/
  wBusy : Nat := 0
  wUnavail : Nat := 0
  wJobs : Nat := 0
  wOverruns : Nat := 0
  wFences : Nat := 0
  wSeed : Nat := 0
  /-- The tick counted last in `wSeed`. -/
  waitTick : Option Nat := none
  deriving DecidableEq, Repr

/-- A digest context saved under the per-reset grove key: the bytes that were written, and what they stand for (08 R230). -/
structure DSaved where
  area : Bytes
  partition : Nat
  ctx : DCtx
  deriving DecidableEq, Repr

/-- A pipeline request's state saved under MORE: the state block's bytes, and what they stand for (08 R219). -/
structure PSaved where
  block : Bytes
  partition : Nat
  handle : Handle
  op : Nat
  iv : Bytes
  /-- AAD and data of the segments so far; of GCM the ciphertext. -/
  aad : Bytes
  prior : Bytes
  deriving DecidableEq, Repr

/-- One grove. -/
structure Grove where
  powered : Bool := false
  lost : Bool := false
  linkUp : Bool := false
  /-- Cells that a power-up in progress is to restore, each with the CD18 count at which it was commanded (06 R166, R168). -/
  rising : Option (Tbl Nat) := none
  lostAt : Nat := 0
  rejoinedAt : Option Nat := none
  rejoinTried : Bool := false
  /-- Job identifiers in the intake, in order (02 R44). -/
  intake : List Nat := []
  /-- Custom functions whose package was not installed, since its digest differed (11 R317). -/
  notInstalled : List Nat := []
  /-- Queue served last by the round robin (02 R49). -/
  rrLast : Option Nat := none
  thermal : Nat := 128
  capLimit : Nat := 128
  late : Nat := 0
  /-- Due times missed in a row (02 R57). -/
  missed : Nat := 0
  access : Tbl AtEntry := []
  /-- Key-window contexts, most recently used first. -/
  window : List WCtx := []
  /-- GCM streams by their request, with the 4 KiB segments they still have: the first 4 hold the GHASH units, the others wait, longest
  first (08 R206). -/
  ghash : List (Nat × Nat) := []
  /-- The cell that took a stream slot last (08 R207). -/
  pipeLast : Nat := 0
  dpBusy : Bool := false
  /-- The grove's generator with its queue, and the waiting requests of class 1 and class 2, oldest first (10 R271 to R273). -/
  gen : Gen := {}
  seedWait1 : List SeedReq := []
  seedWait2 : List SeedReq := []
  /-- The per-reset keys under which contexts and request states are saved, and the key of the die-to-die link; none drawn yet when
  empty (08 R219, R230, 06 R168). -/
  resetKeys : Bytes := []
  linkKey : Bytes := []
  /-- Contexts and request states saved since the grove's last reset (08 R219, R230). -/
  dsaved : List DSaved := []
  psaved : List PSaved := []
  deriving DecidableEq, Repr

/-! ### Time, schedule, trunk -/

/-- Clocks and counters (01 R15, 15 R390, 14 R367). -/
structure Clock where
  /-- CD18 cycles of 40 ns. -/
  cd18 : Nat := 0
  opBase : Nat := 0
  opSetAt : Nat := 0
  bsecBase : Nat := 0
  powerCycles : Nat := 0
  energyJ : BitVec 64 := 0
  /-- Energy below a joule, in nJ. -/
  energyNj : Nat := 0
  deriving DecidableEq, Repr

/-- The schedule (02). -/
structure Sched where
  tick : Nat := 0
  period : Nat := 100
  pend : Option (Nat × Nat) := none
  cap : Nat := 0
  capUnmet : Option Nat := none
  coolTicks : Option Nat := none
  stalled : Bool := false
  firstBoundary : Bool := true
  boundaryAt : Nat := 0
  /-- Cells to drain at a boundary: tick from which the mask applies, and whether EVICT (06 R163, R164). -/
  drains : List (Nat × Bool × List Nat) := []
  running : Bool := false
  /-- The guard of the present tick has begun (02 R41). -/
  inGuard : Bool := true
  /-- The receipt window that is open (02 R38). -/
  windowOpen : Nat := 0
  /-- Window closes for which ROOT_UNSIGNED was raised, while they have roots to post (01 R29). -/
  unsignedFor : List Nat := []
  /-- Window closes so far, early ones too. -/
  closes : Nat := 0
  /-- The tick generator has resumed and its next boundary opens a new grid (02 R56). -/
  resumed : Bool := false
  /-- Internal jobs that no cell has taken yet, in arrival order (R49). -/
  unplaced : List Intern := []
  /-- What waits for step t5 of this tick, in order. -/
  t5 : List Late := []
  deriving DecidableEq, Repr

/-- State of an operational image's boot record (13 R349). -/
inductive Boot where
  | inactive | pending | active | rejected
  deriving DecidableEq, Repr

/-- What the signed header of a custom function declares: W, DUAL class C, the key algorithms and usages that it accepts for
handles A and B (05 R148), and where it is entered. -/
structure Custom where
  code : Nat
  partition : Nat
  w : Nat
  isC : Bool
  algsA : List Nat := []
  usagesA : List Nat := []
  algsB : List Nat := []
  usagesB : List Nat := []
  /-- The entry address in grove SRAM (11 R314), the 64 KiB page of grove SRAM that its code goes into, and the package itself (R317). -/
  entry : Nat := 0
  page : Nat := 0
  package : Bytes := []
  deriving DecidableEq, Repr

/-- A firmware image in flash with its boot record (13 R349). -/
structure Image where
  boot : Boot := .inactive
  fwver : BitVec 32 := 0
  secver : Nat := 0
  seedcfg : BitVec 2 := 3
  header : Bytes := []
  bodyDigest : Bytes := []
  customs : List Custom := []
  starts : Nat := 0
  /-- The image as it stands in flash; none for one that no FW_UPDATE wrote, whose bytes the spec does not give (log entry 7). -/
  stored : Option Bytes := none
  /-- It passed the checks of R349 when it was written. -/
  good : Bool := false
  deriving DecidableEq, Repr

/-- Where a life-cycle change stands (13 R341). -/
structure Change where
  target : Life
  /-- The 200 ms that jobs have to end are over (R341 step 3). -/
  timedOut : Bool
  /-- The LC_CHANGE that waits for the commands in execution to end (R341 step 1). -/
  waits : Option Req := none
  /-- What befalls steps 4 to 6 of this change (R342, R360). -/
  cut : LifeCut := {}
  deriving DecidableEq, Repr

/-- What a command waits for: its draw of the trunk's Seed queue (10 R274), an earlier command that changes the same partition, the
commands of the session that it closes (04 R111), or the end of the operation that a flash bank works on; `read`: that operation has
ended (15 R382). -/
inductive HeldFor where
  | seed | turn | session | flash | read
  deriving DecidableEq, Repr

/-- A command that waits, with its code and the partition that it changes. -/
structure Held where
  code : Nat
  req : Req
  part : Nat
  why : HeldFor
  deriving DecidableEq, Repr

/-- A RESTORE_CELLS that waits for the groves it powers up (06 R166): the boundary it reports, whether a grove failed. -/
structure Restore where
  req : Req
  tick : Nat
  groves : List Bool
  failed : Bool
  deriving DecidableEq, Repr

/-- An instruction of the test port on J6 (R345, IEEE 1149.1). -/
inductive ScanInstr where
  | bypass | idcode | samplePreload | extest | debug
  deriving DecidableEq, Repr

/-- The trunk and the life cycle (13). -/
structure Trunk where
  ready : Bool := false
  /-- Start-up has begun and has not failed (R347, R348). -/
  starting : Bool := false
  perst : Bool := true
  bootCode : BitVec 8 := 0
  life : Life := .factory
  /-- The three copies of the life-cycle code in the recovery area of bank 0 (R339). -/
  lifeCopies : List LifeCopy := List.replicate 3 { code := 0x5555, mac := some 0x5555 }
  rdp : BitVec 2 := 0
  /-- The instruction in the TAP of J6: IDCODE after its reset (R345). -/
  tap : ScanInstr := .idcode
  rework : Nat := 0
  minSecver : Nat := 0
  tstkySinceTransit : Bool := false
  change : Option Change := none
  imageA : Image := { boot := .active, fwver := 0x01000000, good := true }
  imageB : Image := {}
  /-- Whether bank 1's image B is the one running. -/
  runB : Bool := false
  runRecovery : Bool := false
  recovery : Image := { fwver := 0x01000000, good := true }
  mregs : List Bytes := List.replicate 8 (List.replicate 48 0)
  /-- Extensions made after t7 that take effect at the next boundary, and the count in EPOCH [7:0] (R354, R355). -/
  extPending : List (Nat × Bytes) := []
  epoch : BitVec 32 := 0
  devidCert : Bytes := []
  attestCert : Bytes := []
  svcButton : Bool := false
  /-- Carriers of the PF whose latest doorbell came while the button was held, as it has been since: mailboxes 0 to 7, and 8
  for the administrative queue (13 R340). -/
  svcBells : List Nat := []
  /-- The power-fail warning was raised; the shutdown runs (19 R466). -/
  shutdown : Bool := false
  powerGood : Bool := false
  maddr : Bool := false
  power : PowerMode := .full
  waking : Bool := false
  /-- Doorbells rung during DORMANT and the wake: function, completion side, queue (18 R459 t5). -/
  rung : List (Nat × Bool × Nat) := []
  /-- Reads of BAR0 pages 1 to 3 that wait for the wake: function and offset (01 R18). -/
  reads : List (Nat × Nat) := []
  numVfs : Nat := 0
  /-- Commands that wait, oldest first, and what the one that goes on had waited for (04 R111, 10 R274). -/
  held : List Held := []
  resuming : Option HeldFor := none
  /-- What the trunk drew at the last reset: the DRAM's data, tweak and tag keys and the key-bus mask key (01 R12, R22). -/
  resetKeys : Bytes := []
  /-- RESTORE_CELLS commands whose answer waits for a power-up (06 R166, R168). -/
  restores : List Restore := []
  /-- A boundary has passed with no grove serving (06 R171). -/
  dark : Bool := false
  /-- The submission queue whose next entry is being read, and the function served last (03 R84). -/
  fetching : Option (Nat × Nat) := none
  fetchLast : Nat := 0
  deriving DecidableEq, Repr

/-- A session (04 R106 to R108). -/
structure Session where
  fn : Nat
  role : Role
  partition : Nat
  isOpen : Bool
  challenge : Bytes
  /-- Certificates that have joined. -/
  joined : List Bytes
  failures : Nat
  openedAt : Nat
  lastAt : Nat
  deriving DecidableEq, Repr

/-- A RECEIPT payload held for READ_ROOT (04 R113, 05 R144). -/
structure Root where
  window : Nat
  /-- The close that it is of. -/
  closeNo : Nat
  first : Nat
  count : Nat
  close : Bool
  signed : Bool
  digest : Bytes
  tick : Nat
  signature : Bytes
  deriving DecidableEq, Repr

/-- A partition (04 R108, R114; 05 R143 to R147; 03 R96). -/
structure Part where
  qA : Nat := 16
  qB : Nat := 16
  officers : Tbl Bytes := []
  auditors : Tbl Bytes := []
  operators : Tbl Bytes := []
  mOfficer : Nat := 0
  mAuditor : Nat := 0
  mOperator : Nat := 0
  nextReceipt : Nat := 1
  recorded : Nat := 1
  first : Nat := 0
  count : Nat := 0
  /-- Merkle frontier: subtree sizes and digests, largest and oldest first (05 R143). -/
  frontier : List (Nat × Bytes) := []
  /-- Closed windows whose root is not posted yet. -/
  closing : List Root := []
  roots : List Root := []
  wJobs : Nat := 0
  wClass : List Nat := List.replicate 8 0
  peakIntake : Nat := 0
  peakWait : Nat := 0
  deriving DecidableEq, Repr

/-! ### Heartwood (09) -/

/-- State of a master-key slot (R258). -/
inductive MasterSt where
  | empty | pending | loaded | active
  deriving DecidableEq, Repr

/-- A master-key slot (R258 to R260). -/
structure Master where
  st : MasterSt := .empty
  key : Bytes := []
  gen : Nat := 0
  /-- Shares written so far by operation 0. -/
  written : Nat := 0
  /-- Session whose ceremony the pending slot belongs to. -/
  session : BitVec 32 := 0
  /-- Shares read by operation 1: point and share bytes, with the check value. -/
  shares : List (Nat × Bytes) := []
  /-- What fixes the polynomials of a split in progress. -/
  poly : Bytes := []
  /-- Records still wrapped under this key (R261). -/
  depends : Bool := false
  deriving DecidableEq, Repr

/-- A change item of the journal (R253). -/
inductive Change1 where
  | slot (n : Nat) (s : Slot)
  /-- A slot is emptied: its generation, and the partition of the key that it held. -/
  | emptied (n gen partition : Nat)
  | master (n : Nat) (m : Master)
  | ceiling (n c : Nat)
  | mark (partition : Nat)
  | snapStart
  | snapEnd
  deriving DecidableEq, Repr

/-- A journal entry in bank 2 (R253): its change items, and what stands in the flash: ciphertext, tag and chain. -/
structure JEntry where
  seq : Nat
  image : Bytes
  items : List Change1
  payload : Bytes
  tag : Bytes
  chain : Bytes
  /-- What is read back is what was written: chain and tag verify. -/
  good : Bool
  deriving DecidableEq, Repr

/-- The battery-backed key register (R252). -/
structure Bbkr where
  root : Bytes := []
  image : Bytes := []
  seq : Nat := 0
  chain : Bytes := []
  deriving DecidableEq, Repr

/-- Heartwood. Slot numbers are the slot field of R234; master slot i of partition p has number p × 8 + i. -/
structure Heart where
  serving : Bool := false
  slots : Tbl Slot := []
  masters : Tbl Master := []
  /-- Re-wraps in progress: partition and slots still to do (R261). -/
  rewrap : Tbl (List Nat) := []
  /-- The pooled prime pairs of each RSA size, first found first (R244). -/
  primes : Tbl (List Bytes) := []
  bbkr : Bbkr := {}
  journal : List JEntry := []
  erasing : Bool := false
  zeroising : Bool := false
  /-- A zeroisation has been made since the image was created: the next image reopens closed slots (R235). -/
  reopens : Bool := false
  deriving DecidableEq, Repr

/-! ### Seed (10) -/

/-- Seed on the trunk (R266 to R281); the groves' generators and queues are in `Grove`. -/
structure Seed where
  mode : SeedMode := .normal
  fail : Bool := false
  /-- The source is running (it stops in DORMANT and after a failed block). -/
  source : Bool := false
  restarting : Bool := false
  /-- Outcomes of the last 1,024 blocks, newest first; true is failed. -/
  recent : List Bool := []
  lastBit : Bool := false
  run : Nat := 0
  startPassed : Nat := 0
  starting : Bool := false
  /-- The trunk's generator with its queue. -/
  gen : Gen := {}
  /-- Generator that takes the next passing block: 0 trunk, 1 Grove A, 2 Grove B. -/
  nextGen : Nat := 0
  session : Option (BitVec 32) := none
  patternSeed : Bytes := []
  /-- Blocks of the pattern sampled since it was set (R279). -/
  blocks : Nat := 0
  deriving DecidableEq, Repr

/-! ### Bark (14) -/

/-- A bark ALARM entry prepared and held (R373). -/
structure HeldAlarm where
  code : Nat
  payload : Bytes
  deriving DecidableEq, Repr

/-- A non-zero value of a 31-bit generator. -/
def lfsrOf (n : Nat) : BitVec 31 := BitVec.ofNat 31 (1 + n % (2 ^ 31 - 1))

/-- The always-on registers (R367) and what goes with them. -/
structure Bark where
  tstky : BitVec 32 := 0x08000000
  thalt : BitVec 32 := 0
  tntf : BitVec 32 := 0x08000000
  tnew : BitVec 32 := 0x08000000
  tarm : BitVec 32 := 0x07FFF000
  tact : BitVec 32 := 0
  lko : Bool := false
  lkoRecord : Bool := false
  alcs : BitVec 16 := 0x00FF
  lmodeLoop : BitVec 16 := 0
  lmodeCsw : BitVec 4 := 0
  /-- Configured classes that differ from the default: source × 4 + state (BLANK, OPERATIONAL, MAINTENANCE, RECOVERY). -/
  cls : Tbl Cls := []
  tstamp : Tbl (BitVec 32) := []
  tcount : Tbl (BitVec 16) := []
  executed : Tbl Cls := []
  inactiveAt : Tbl Nat := []
  /-- Loops changing detector: loop and the mode of the old one (R364). -/
  moving : Tbl Nat := []
  /-- Generators of loops 0 to 7 and of the 4 traces of each mesh layer as they were last seeded, and when (R364). -/
  lfsr : List (BitVec 31) := (List.range 16).map (fun i => lfsrOf (Config.lfsrSeed i))
  lfsrAt : Nat := 0
  held : List HeldAlarm := []
  /-- Functions on whose ALARM queue they have been posted (R373). -/
  heldPosted : List Nat := []
  /-- Bits whose alarm arose while the trunk could not log it: TNEW's sources with the class the group executed, its detail
  words and flags, for the entries of t7 (R373). -/
  fresh : Tbl (Nat × Nat × Nat × Nat) := [(27, 1, 0, 0, 0)]
  deriving DecidableEq, Repr

/-! ### Ring log and flash (15) -/

/-- A ring-log record (R386). -/
structure Rec where
  seq : Nat
  code : Nat
  source : Nat
  sev : Nat
  repeats : Nat
  op : Nat
  cycle : Nat
  partition : Nat
  frac : Nat
  snapCount : Nat
  flags : Nat
  payload : Bytes
  snap : List (BitVec 32)
  last : Nat
  deriving DecidableEq, Repr

/-- A checkpoint (R391). -/
structure Ckpt where
  seq : Nat
  kind : Nat
  cycle : Nat
  op : Nat
  tick : Nat
  lastRec : Nat
  bsec : Nat
  lastClear : Nat
  receipts : List Nat
  deriving DecidableEq, Repr

/-- A checkpoint slot that is not erased: its first unit, and the sequence number in its second, when that reads (R391, R392). -/
structure CkptSlot where
  c : Ckpt
  copy : Option Nat
  deriving DecidableEq, Repr

/-- A running LOG_STREAM (R401). -/
structure Stream where
  next : Nat
  stop : Nat
  left : Nat
  first : Nat
  last : Nat
  sent : Nat
  skipped : Nat
  deriving DecidableEq, Repr

/-- The ring log (R385 to R405). -/
structure Log where
  /-- The reopening at t7 has been made (R403). -/
  reopened : Bool := false
  /-- Held records by slot: 0 to 4,095 permanent, 4,096 + i circulating slot i. -/
  held : Tbl Rec := []
  /-- Slots that are written and not held, with their mark as it reads: all ones where only the body is programmed (R387). -/
  spoilt : Tbl (BitVec 32) := []
  /-- Next circulating slot. -/
  pos : Nat := 0
  /-- Slots of the permanent area abandoned so far (15 R380). -/
  abandoned : Nat := 0
  nextSeq : Nat := 1
  /-- Sequence of the newest committed record, 0 for none (R391). -/
  lastSeq : Nat := 0
  opened : Option Rec := none
  openedAt : Nat := 0
  /-- Committed and waiting for bank 3. -/
  waiting : List Rec := []
  /-- Arisen before the reopening, without number (R388). -/
  early : List Rec := []
  lost : Nat := 0
  firstLoss : Nat := 0
  /-- Per code in the present second: written, suppressed (R394). -/
  seconds : Tbl (Nat × Nat) := []
  second : Nat := 0
  /-- The checkpoint area: its slots that are not erased, and the next one (R385). -/
  ckptSlots : Tbl CkptSlot := []
  ckptPos : Nat := 0
  /-- Checkpoints that wait for bank 3, oldest first. -/
  ckptQueue : List Ckpt := []
  ckptSeq : Nat := 1
  lastClear : Nat := 0
  clearing : Bool := false
  /-- Circulating sectors that a clear emptied and that are not erased yet, as sectors of bank 3 (R402). -/
  toErase : List Nat := []
  selectors : Tbl (List Nat) := []
  stream : Option Stream := none
  deriving DecidableEq, Repr

/-- An operation of a flash bank (R378). -/
inductive FlashOp where
  /-- The erase of a sector, and whether the sector is a free replacement after it (R379). -/
  | erase (sector : Nat) (returns : Bool)
  /-- Bank 3: the body of the oldest waiting record, then its valid mark (R387). -/
  | body
  | mark
  /-- Bank 3: the first or the second unit of the oldest waiting checkpoint (R391, R392). -/
  | unit (second : Bool)
  /-- The copy of a sector into an erased replacement; whether the sector is refreshed, as weak, or given up (R379, R383). -/
  | copy (sector replacement : Nat) (weak : Bool)
  deriving DecidableEq, Repr

/-- A word of an erase-flag row, and whether its clear mark is programmed (R381). -/
structure FlagWord where
  sector : Nat
  cleared : Bool := false
  deriving DecidableEq, Repr

/-- One flash bank (R377 to R384). Its sectors are numbered with the 64 replacements last; the replacement map names, for a sector of the
usable capacity, the one that stands for it. -/
structure Bank where
  /-- Operations in the order in which the trunk issued them, the current one first (R382). -/
  ops : List FlashOp := []
  /-- Sector whose erase runs (R381). -/
  erasing : Option Nat := none
  /-- Sectors whose erase failed its verification once. -/
  failedOnce : List Nat := []
  /-- The two erase-flag rows, and whether the second is the current one (R377, R381). -/
  rowA : List FlagWord := []
  rowB : List FlagWord := []
  inB : Bool := false
  weak : List Nat := []
  /-- Sectors to replace at the next idle time. -/
  toReplace : List Nat := []
  /-- Free replacements, lowest first (R383). -/
  free : List Nat := (List.range 64).map (4032 + ·)
  /-- The two copies of the replacement map (R377). -/
  replaced : Tbl Nat := []
  mapCopy : Tbl Nat := []
  wearRaised : Bool := false
  deriving DecidableEq, Repr

/-! ### Twin (16) -/

/-- How far the handshake has come (R411). -/
inductive LinkStep where
  | down | trained | hello | auth | role | session
  deriving DecidableEq, Repr

/-- TK-48 use numbers of one key (R420, R421). -/
structure Range where
  /-- Highest number allocated, A. -/
  alloc : Nat := 0
  /-- Top of this module's current range. -/
  top : Nat := 0
  /-- Next range of this module, first and top, when it does not join on. -/
  nextFirst : Nat := 0
  nextTop : Nat := 0
  /-- An allocation, or a request for one, is not answered yet. -/
  pending : Bool := false
  /-- The partner asked for a range while an allocation was pending. -/
  wanted : Bool := false
  deriving DecidableEq, Repr

/-- A CEIL or GRANT frame that the partner has not acknowledged, by its counter (R418, R420). -/
structure Unacked where
  counter : Nat
  slot : Nat
  value : Nat
  grant : Bool
  deriving DecidableEq, Repr

/-- The answer of a key command that waits for the partner to acknowledge its changes, up to a replication sequence (R416). -/
structure Reply where
  seq : Nat
  req : Req
  code : Nat
  part : Nat
  status : Status
  results : Bytes
  deriving DecidableEq, Repr

/-- What makes a module a twin, as bank 2 holds it (R410, R423). -/
structure Pairing where
  role : TwinRole
  identity : Bool
  epoch : BitVec 32
  set : Bytes
  domain : Bytes
  partner : BitVec 64
  partnerDigest : Bytes
  promoted : Bool
  deriving DecidableEq, Repr

/-- A change that the partner lacks: its replication sequence, what changed as `Change1.slotNo` numbers it, and what a TWIN_DISCARDED record
says of it (R424): the handle, and 1 install, 2 delete, 3 master key, or 0 for a mark. -/
structure Kept where
  seq : Nat
  no : Nat
  handle : Nat
  change : Nat
  deriving DecidableEq, Repr

/-- The twin (R406 to R424). -/
structure Twin where
  role : TwinRole := .solo
  identity : Bool := false
  epoch : BitVec 32 := 0
  set : Bytes := []
  domain : Bytes := []
  partner : BitVec 64 := 0
  partnerDigest : Bytes := []
  step : LinkStep := .down
  lanes : Nat := 0
  session : BitVec 32 := 0
  helloAt : Nat := 0
  authFails : Nat := 0
  slow : Bool := false
  sent : Nat := 0
  hbSent : Nat := 0
  seen : Nat := 0
  hbSeen : Nat := 0
  discarded : Nat := 0
  /-- No frame, and no heartbeat, has been accepted under the newest keys yet (R412). -/
  fresh : Bool := false
  hbFresh : Bool := false
  /-- The ephemeral secrets and the HELLO or REKEY frame sent last; the session's keys and transcript digest. -/
  own : Bytes := []
  hello : Bytes := []
  keys : Bytes := []
  transcript : Bytes := []
  /-- Serial in the partner's HELLO, and whether its serial, identity and domain are those of the set (R411). -/
  offered : BitVec 64 := 0
  agrees : Bool := false
  sessionAt : Nat := 0
  /-- REKEY has been sent and the partner's has not come; a rekey that fell due in DORMANT (R412). -/
  rekeyPending : Bool := false
  rekeyWaits : Bool := false
  /-- The partner's REKEY, its counter and keys, which the responder has not answered yet, since its draw waits (10 R274). -/
  rekeyIn : Option (Nat × Bytes) := none
  lossReason : Nat := 0
  lossAt : Nat := 0
  lossTick : Nat := 0
  hbTick : Nat := 0
  frameTick : Nat := 0
  leaseEnded : Bool := true
  promoted : Bool := false
  replSeq : Nat := 0
  partnerPersisted : Nat := 0
  persistedSeq : Nat := 0
  /-- Changes not replicated yet, oldest first. -/
  unreplicated : List Kept := []
  awaiting : List (Nat × Change1) := []
  replies : List Reply := []
  /-- TWIN_PAIR operation 2 that waits for the acknowledgements of its ceilings, and whether its commit was good (R410). -/
  unpairing : Option Req := none
  syncing : Bool := false
  synced : Nat := 0
  named : List Nat := []
  ranges : Tbl Range := []
  /-- Ceilings held for the partner's half, each with whether it is stale (R418). -/
  ceilings : Tbl (Nat × Bool) := []
  unacked : List Unacked := []
  /-- Native keys whose own ceiling the partner has acknowledged. -/
  ceilAcked : Tbl Nat := []
  deriving DecidableEq, Repr

/-! ### Media, reader and tag (17) -/

/-- State of a slot, coded as MEDIA_STATUS (R437). -/
inductive SlotSt where
  | absent | identifying | checking | ready | failed | released
  deriving DecidableEq, Repr

/-- An entry of the media journal (R436). -/
structure MediaJ where
  volume : Bytes
  seq : Nat
  block : Nat
  object : Bytes
  deriving DecidableEq, Repr

/-- What the enrolment store holds of one partition: certificates, quorum values and quotas (09 R256). -/
structure Enrolled where
  qA : Nat := 16
  qB : Nat := 16
  officers : Tbl Bytes := []
  auditors : Tbl Bytes := []
  operators : Tbl Bytes := []
  mOfficer : Nat := 0
  mAuditor : Nat := 0
  mOperator : Nat := 0
  deriving DecidableEq, Repr

/-- One change of the configuration store (09 R257). -/
inductive CItem where
  | enrolment (p : Nat) (x : Enrolled)
  | noEnrolments
  | bark (source mode : Nat) (classes : List Cls)
  | barkDefaults
  | selectors (code : Nat) (l : Option (List Nat))
  | selectorDefaults
  | pairing (x : Pairing)
  | media (journal : List MediaJ)
  deriving DecidableEq, Repr

/-- An entry of the configuration store: its sequence number and its CMAC (R257). -/
structure CEntry where
  seq : Nat
  item : CItem
  mac : Bytes
  deriving DecidableEq, Repr

/-- The flash die. -/
structure Flash where
  banks : Tbl Bank := []
  xip : Bool := false
  /-- The configuration store, oldest first. -/
  store : List CEntry := []
  deriving DecidableEq, Repr

/-- The SD slot (R426 to R436). -/
structure Sd where
  st : SlotSt := .absent
  busMode : Nat := 0
  readOnly : Bool := false
  /-- Volume identifier of a valid header. -/
  volume : Option Bytes := none
  nextBlock : Nat := 2048
  lastSeq : Nat := 0
  writeBlock : Nat := 2048
  writeSeq : Nat := 1
  capacity : Nat := 0
  journal : List MediaJ := []
  failures : Nat := 0
  deriving DecidableEq, Repr

/-- The contact slot (R438 to R440). -/
structure Icc where
  st : SlotSt := .absent
  cls : Nat := 0
  active : Bool := false
  deriving DecidableEq, Repr

/-- Strength of the module's own field (R445). -/
inductive Field where
  | none | tenth | full
  deriving DecidableEq, Repr

/-- State of the built-in tag toward an external reader (R446). -/
inductive TagSt where
  | idle | ready | active | halted
  deriving DecidableEq, Repr

/-- RF: reader, watch and tag (R443 to R450). -/
structure Rf where
  mode : RfMode := .off
  external : Bool := false
  field : Field := .none
  /-- A card found by a WATCH poll is held halted. -/
  cardHeld : Bool := false
  baselineTaken : Nat := 0
  tagEn : Bool := true
  frame : Bool := false
  swapPend : Bool := false
  busyErr : Bool := false
  tag : TagSt := .idle
  selected : Bool := false
  /-- Active page and shadow page; bytes beyond the list are 0. -/
  page : Bytes := []
  shadow : Bytes := []
  generation : BitVec 16 := 0
  contentLost : Bool := true
  /-- A page write was refused during a frame and is to be made again in the gap (17 R449). -/
  rewrite : Bool := false
  deriving DecidableEq, Repr

/-! ### Outputs and meters (19) -/

/-- Meters, outputs and the management port (R469 to R476). -/
structure Elec where
  m : Meters := { vinMv := 0, iinMa := 0, pinMw := 0, dieA := 0, dieB := 0, dieTrunk := 0, caseC := 0, aonC := 0, vbakMv := 0 }
  mpEnh : BitVec 32 := 0
  fanDuty : Nat := 100
  fanMin : Nat := 30
  rpm : Nat := 0
  stallRaised : Bool := false
  led2 : Nat := 0
  /-- CD18 count at which the LOCK release ends. -/
  lockUntil : Option Nat := none
  deriving DecidableEq, Repr

/-! ### What leaves the module -/

/-- One thing that the module sent out. Register answers and writes carry their function's requester ID (01 R31). -/
inductive Output where
  /-- A DMA read issued under a function's requester ID (01 R31): address and length. Its data comes with a later command. -/
  | hostRead (fn : Nat) (addr : Nat) (len : Nat)
  /-- A posted write to host memory under a function's requester ID. -/
  | hostWrite (fn : Nat) (addr : Nat) (data : Bytes)
  /-- An MSI-X message (03 R98). -/
  | msix (fn : Nat) (vec : Nat) (addr : BitVec 64) (data : BitVec 32)
  /-- The answer to a register read of the host, by BAR0 offset. -/
  | regRead (fn : Nat) (offset : Nat) (value : Nat)
  /-- An answer of the management port (19 R477). -/
  | mgmt (address : Nat) (value : Nat)
  /-- A frame sent on the twin link: kind, session and counter, and its payload as it travels, encrypted with its tag after a key
  exchange (16 R407). -/
  | twinFrame (kind : Nat) (session : Nat) (counter : Nat) (payload : Bytes)
  /-- An answer of the built-in tag (17 R446). -/
  | tagAnswer (data : Bytes)
  /-- A command to a custodian card (17 R441): INS and data. -/
  | cardCommand (ins : Nat) (data : Bytes)
  /-- Blocks written to the SD card: first block and data (17 R430). -/
  | sdWrite (block : Nat) (data : Bytes)
  | sdPowerDown
  | iccPowerDown
  deriving DecidableEq, Repr

/-! ### The whole block -/

/-- The state of the block. -/
structure State where
  /-- The commands that wait, first in first out (model's own). -/
  pending : List Instr := []
  /-- Number of the next free value (model's own, log entry 3). -/
  free : Nat := 0
  /-- What has left the module, newest first (model's own, log entry 4). -/
  out : List Output := []
  /-- Number of the next job (log entry 5). -/
  nextJob : Nat := 1
  clock : Clock := {}
  sched : Sched := {}
  trunk : Trunk := {}
  fns : Tbl Fn := []
  /-- Created queues: key fn × 2048 + 1024 for completion + number. -/
  queues : Tbl Queue := []
  jobs : Tbl Job := []
  posted : List Posted := []
  /-- DRAM staging buffers by address (06 R151). -/
  stage : Tbl Buf := []
  groveA : Grove := {}
  groveB : Grove := {}
  cells : Tbl Cell := []
  /-- Bytes of the cells', branches' and groves' memories and of DRAM; a byte not listed is 0 (13 R344). -/
  mem : Tbl Byte := []
  /-- DRAM lines whose integrity tag fails (01 R13). -/
  dramBad : List Nat := []
  sessions : Tbl Session := []
  parts : Tbl Part := []
  heart : Heart := {}
  seed : Seed := {}
  bark : Bark := {}
  log : Log := {}
  flash : Flash := {}
  twin : Twin := {}
  sd : Sd := {}
  icc : Icc := {}
  rf : Rf := {}
  elec : Elec := {}
  deriving DecidableEq, Repr

/-- The module right after reset: a new module in FACTORY at the first supply of its always-on domain (14 R367's reset
column, 13 R487), PERST# asserted, nothing loaded (log entry 7). -/
def State.reset : State := {}

end Sys2Proof.Machine
end

