-- ==== Sys2Proof/Machine/Ops.lean ====
section
/-! DEFINITION. The named operations that every meaning uses: tables, byte strings, memory, the accessors of the state's
parts, free values, time, and what leaves the module. -/

namespace Sys2Proof.Machine

/-- What a command answers. -/
abbrev Answer := Host.Outcome State Fault Refusal

/-! ### Tables -/

/-- The value listed at index `k`. -/
def tblGet {α : Type} : Tbl α → Nat → Option α
  | [], _ => none
  | (i, x) :: t, k => if i = k then some x else tblGet t k

/-- List value `v` at index `k`, keeping the indexes rising. -/
def tblSet {α : Type} : Tbl α → Nat → α → Tbl α
  | [], k, v => [(k, v)]
  | (i, x) :: t, k, v =>
    if i = k then (k, v) :: t else if k < i then (k, v) :: (i, x) :: t else (i, x) :: tblSet t k v

/-- Remove index `k`. -/
def tblDel {α : Type} : Tbl α → Nat → Tbl α
  | [], _ => []
  | (i, x) :: t, k => if i = k then tblDel t k else (i, x) :: tblDel t k

/-- Indexes rise strictly. -/
def tblRising {α : Type} : Tbl α → Bool
  | [] => true
  | [_] => true
  | (i, _) :: (j, y) :: t => decide (i < j) && tblRising ((j, y) :: t)

/-- Change every listed value. -/
def tblMap {α : Type} (f : Nat → α → α) (t : Tbl α) : Tbl α := t.map (fun p => (p.1, f p.1 p.2))

/-! ### Byte strings (00 R6: little-endian) -/

/-- The `n` low bytes of `v`, lowest first. -/
def le : Nat → Nat → Bytes
  | 0, _ => []
  | n + 1, v => BitVec.ofNat 8 v :: le n (v / 256)

/-- The number that a little-endian string spells. -/
def num : Bytes → Nat
  | [] => 0
  | b :: bs => b.toNat + 256 * num bs

/-- Bytes `off` to `off + n - 1`; bytes that the string does not have read 0. -/
def piece (bs : Bytes) (off n : Nat) : Bytes :=
  let d := (bs.drop off).take n
  d ++ List.replicate (n - d.length) 0

/-- The little-endian field at `off` of `n` bytes. -/
def field (bs : Bytes) (off n : Nat) : Nat := num (piece bs off n)

/-- The string extended by zero bytes, or cut, to `n` bytes. -/
def padTo (n : Nat) (bs : Bytes) : Bytes := piece bs 0 n

/-- Bit `i` of a number. -/
def bit (n i : Nat) : Bool := Nat.testBit n i

/-- 1 or 0. -/
def b2n (b : Bool) : Nat := if b then 1 else 0

/-- Bits `hi` to `lo` of a number. -/
def bits (n hi lo : Nat) : Nat := (n / 2 ^ lo) % 2 ^ (hi + 1 - lo)

/-- Number `n` with bits `hi` to `lo` replaced. -/
def setBits (n hi lo v : Nat) : Nat := n - bits n hi lo * 2 ^ lo + (v % 2 ^ (hi + 1 - lo)) * 2 ^ lo

/-- The bytes of a standard's output (Config). -/
def stdBytes (f : Config.Std) (ins : List Bytes) (n : Nat) : Bytes := (List.range n).map (Config.stdByte f ins)

/-! ### Memory (01 R24, 13 R344: a byte nothing has written reads 0) -/

/-- The byte at a memory key. -/
def memGet (m : Tbl Byte) (k : Nat) : Byte := (tblGet m k).getD 0

/-- Write one byte; writing 0 removes the entry, so that equal memories are equal lists. -/
def memSet (m : Tbl Byte) (k : Nat) (b : Byte) : Tbl Byte := if b = 0 then tblDel m k else tblSet m k b

/-- The bytes at keys `k` to `k + n - 1`. -/
def memRead (m : Tbl Byte) (k n : Nat) : Bytes := (List.range n).map (fun i => memGet m (k + i))

/-- Write a string at rising keys. -/
def memWrite (m : Tbl Byte) : Nat → Bytes → Tbl Byte
  | _, [] => m
  | k, b :: bs => memWrite (memSet m k b) (k + 1) bs

/-- Remove all keys from `k` to `k + n - 1`: they read 0. -/
def memZero (m : Tbl Byte) (k n : Nat) : Tbl Byte := m.filter (fun p => decide (p.1 < k) || decide (k + n ≤ p.1))

/-- The canonical form of memory: keys rising, no byte 0 listed. -/
def Memory.wf (m : Tbl Byte) : Bool := tblRising m && m.all (fun p => p.2 != 0)

/-! ### Parts of the state -/

def State.fn (s : State) (f : Nat) : Fn := (tblGet s.fns f).getD {}
def State.setFn (s : State) (f : Nat) (x : Fn) : State := { s with fns := tblSet s.fns f x }
def State.modFn (s : State) (f : Nat) (g : Fn → Fn) : State := s.setFn f (g (s.fn f))

def State.cell (s : State) (c : Nat) : Cell := (tblGet s.cells c).getD {}
def State.setCell (s : State) (c : Nat) (x : Cell) : State := { s with cells := tblSet s.cells c x }
def State.modCell (s : State) (c : Nat) (g : Cell → Cell) : State := s.setCell c (g (s.cell c))

def State.core (s : State) (c : Nat) : Core := (s.cell c).core
def State.setCore (s : State) (c : Nat) (x : Core) : State := s.modCell c (fun d => { d with core := x })
def State.modCore (s : State) (c : Nat) (g : Core → Core) : State := s.setCore c (g (s.core c))

def State.part (s : State) (p : Nat) : Part := (tblGet s.parts p).getD {}
def State.setPart (s : State) (p : Nat) (x : Part) : State := { s with parts := tblSet s.parts p x }
def State.modPart (s : State) (p : Nat) (g : Part → Part) : State := s.setPart p (g (s.part p))

def State.queue? (s : State) (k : Nat) : Option Queue := tblGet s.queues k
def State.setQueue (s : State) (k : Nat) (x : Queue) : State := { s with queues := tblSet s.queues k x }
def State.delQueue (s : State) (k : Nat) : State := { s with queues := tblDel s.queues k }
def State.modQueue (s : State) (k : Nat) (g : Queue → Queue) : State :=
  match s.queue? k with
  | some q => s.setQueue k (g q)
  | none => s

def State.job? (s : State) (j : Nat) : Option Job := tblGet s.jobs j
def State.setJob (s : State) (j : Nat) (x : Job) : State := { s with jobs := tblSet s.jobs j x }
def State.delJob (s : State) (j : Nat) : State := { s with jobs := tblDel s.jobs j }
def State.modJob (s : State) (j : Nat) (g : Job → Job) : State :=
  match s.job? j with
  | some x => s.setJob j (g x)
  | none => s

/-- Grove A is `false`, Grove B is `true`. -/
def State.grove (s : State) (g : Bool) : Grove := if g then s.groveB else s.groveA
def State.setGrove (s : State) (g : Bool) (x : Grove) : State :=
  if g then { s with groveB := x } else { s with groveA := x }
def State.modGrove (s : State) (g : Bool) (f : Grove → Grove) : State := s.setGrove g (f (s.grove g))

def State.slot (s : State) (n : Nat) : Slot := (tblGet s.heart.slots n).getD {}
def State.setSlot (s : State) (n : Nat) (x : Slot) : State :=
  { s with heart := { s.heart with slots := tblSet s.heart.slots n x } }
def State.modSlot (s : State) (n : Nat) (g : Slot → Slot) : State := s.setSlot n (g (s.slot n))

def State.master (s : State) (p i : Nat) : Master := (tblGet s.heart.masters (p * 8 + i)).getD {}
def State.setMaster (s : State) (p i : Nat) (x : Master) : State :=
  { s with heart := { s.heart with masters := tblSet s.heart.masters (p * 8 + i) x } }

def State.session? (s : State) (h : Nat) : Option Session := tblGet s.sessions h
def State.setSession (s : State) (h : Nat) (x : Session) : State := { s with sessions := tblSet s.sessions h x }
def State.delSession (s : State) (h : Nat) : State := { s with sessions := tblDel s.sessions h }

/-- Usable sectors of a bank (15 R377). -/
def usableSectors (b : Nat) : Nat := if b = 3 then 1984 else 4032
/-- A bank that nothing has happened to: its 64 replacements are free. -/
def Bank.new (b : Nat) : Bank := { free := (List.range 64).map (usableSectors b + ·) }
def State.bank (s : State) (b : Nat) : Bank := (tblGet s.flash.banks b).getD (Bank.new b)
def State.setBank (s : State) (b : Nat) (x : Bank) : State :=
  { s with flash := { s.flash with banks := tblSet s.flash.banks b x } }

def Fn.mailbox (x : Fn) (m : Nat) : Mailbox := (tblGet x.mbox m).getD {}
def Fn.setMailbox (x : Fn) (m : Nat) (b : Mailbox) : Fn := { x with mbox := tblSet x.mbox m b }
def Fn.service (x : Fn) (q : Nat) : SvcQueue := (tblGet x.svc q).getD {}
def Fn.setService (x : Fn) (q : Nat) (v : SvcQueue) : Fn := { x with svc := tblSet x.svc q v }
def Fn.vector (x : Fn) (v : Nat) : MsixVector := (tblGet x.vec v).getD {}
def Fn.setVector (x : Fn) (v : Nat) (y : MsixVector) : Fn := { x with vec := tblSet x.vec v y }

/-- The table key of a created queue of a function. -/
def queueKey (fn : Nat) (completion : Bool) (num : Nat) : Nat := fn * 2048 + (if completion then 1024 else 0) + num

/-- The number under which the trunk's cores, which run in lockstep, are held among the cells (11 R282, log entry 70). -/
def trunkCore : Nat := 0x100

/-- The grove, branch (0 to 31) and leaf of a cell identifier (00: bit [7] grove, [6:3] branch, [2:0] leaf). -/
def groveOf (c : Nat) : Bool := decide (128 ≤ c % 256)
def branchOf (c : Nat) : Nat := c % 256 / 8
def leafOf (c : Nat) : Nat := c % 8
/-- The cells of a grove, in rising order. -/
def cellsOf (g : Bool) : List Nat := (List.range 128).map (fun i => i + (if g then 128 else 0))

/-! ### Free values and output -/

/-- What the module sends out. -/
def State.emit (s : State) (o : Output) : State := { s with out := o :: s.out }

/-- Use up one free value (log entry 3). -/
def State.drawn (s : State) : State := { s with free := s.free + 1 }
/-- `n` free bytes, the ones the next use takes. -/
def State.freeBytes (s : State) (n : Nat) : Bytes := (List.range n).map (Config.freeByte s.free)
/-- The free number that the next use takes. -/
def State.freeNat (s : State) : Nat := Config.freeNat s.free

/-! ### Time (01 R15, 15 R390, 14 R367) -/

/-- CD18 cycles of 40 ns in a second. -/
def second : Nat := 25000000

/-- The operating-seconds counter in units of 1/65,536 s (R390). -/
def State.opFine (s : State) : Nat := s.clock.opBase * 65536 + (s.clock.cd18 - s.clock.opSetAt) * 65536 / second
def State.opSeconds (s : State) : Nat := s.opFine / 65536
def State.opFraction (s : State) : Nat := s.opFine % 65536
/-- The backup seconds counter BSEC (R367). -/
def State.bsec (s : State) : Nat := (s.clock.bsecBase + s.clock.cd18 / second) % 2 ^ 32
/-- CD18 cycles since an earlier count. -/
def State.since (s : State) (t : Nat) : Nat := s.clock.cd18 - t

/-- One CD18 cycle passes (log entry 1). -/
def State.idle (s : State) : State := { s with clock := { s.clock with cd18 := s.clock.cd18 + 1 } }

/-! ### Repetition -/

/-- Repeat a change once for each item of a list. -/
def State.each {α : Type} (s : State) (xs : List α) (f : State → α → State) : State := xs.foldl f s

/-! ### Copies of a job, and the job that a cell has in hand -/

/-- The job that a cell has in hand: its resident job, or the front of its plan. -/
def Cell.jobNow (x : Cell) : Option Nat :=
  match x.plan with
  | i :: _ => some i.job
  | [] => x.resident

/-- The job's item on a cell is a long job. -/
def Cell.longJob (x : Cell) (j : Nat) : Bool :=
  ((x.plan.find? (fun i => i.job == j)).map (fun i => i.long)).getD (x.resident == some j)

/-- A job's copy in a grove. -/
def Job.copy (x : Job) (g : Bool) : Option Copy := if g then x.copyB else x.copyA
def Job.setCopy (x : Job) (g : Bool) (k : Option Copy) : Job := if g then { x with copyB := k } else { x with copyA := k }
def State.copy? (s : State) (j : Nat) (g : Bool) : Option Copy := (s.job? j).bind (fun x => x.copy g)

/-- The job that a cell runs: the front of its plan once it has started, or its resident job while the kernel has not saved it (06 R149,
11 R316). -/
def State.inHand (s : State) (c : Nat) : Option Nat :=
  let x := s.cell c
  x.jobNow.filter (fun j => (s.copy? j (groveOf c)).any (fun k => k.place == .running && (!k.long || x.savedCore.isNone)))

/-- Change a copy of a job. -/
def State.modCopy (s : State) (j : Nat) (g : Bool) (f : Copy → Copy) : State :=
  s.modJob j (fun x => x.setCopy g ((x.copy g).map f))

end Sys2Proof.Machine
end

