-- ==== Sys2Proof/Machine/StdHash.lean ====
section
/-! DEFINITION. The hash and keyed-hash functions of the standards that 00 R9 names: SHA-2 (FIPS 180-4), SHA-3 and SHAKE
(FIPS 202), HMAC (FIPS 198-1), KMAC (SP 800-185). Constants are computed from the standards' own definitions of them. -/

namespace Sys2Proof.Machine

/-! ### Big-endian strings -/

/-- The `n` low bytes of a number, most significant first. -/
def be (n v : Nat) : Bytes := (le n v).reverse

/-- The number that a big-endian string spells. -/
def numBe (bs : Bytes) : Nat := num bs.reverse

/-- Bytewise exclusive or over the shorter length. -/
def xorBytes (a b : Bytes) : Bytes := List.zipWith (· ^^^ ·) a b

/-- The string cut into pieces of `n` bytes, `fuel` of them at most; the last may be short. -/
def chunksFrom : Nat → Nat → Bytes → List Bytes
  | 0, _, _ => []
  | f + 1, n, bs => if bs = [] then [] else bs.take n :: chunksFrom f n (bs.drop n)

def chunks (n : Nat) (bs : Bytes) : List Bytes := chunksFrom bs.length n bs

/-! ### SHA-2 (FIPS 180-4) -/

/-- Whether no number from 2 below `n` divides it. -/
def isPrime (n : Nat) : Bool := decide (2 ≤ n) && (List.range n).all (fun d => decide (d < 2) || n % d != 0)

/-- The first 80 primes. -/
def primes80 : List Nat := (List.range 410).filter isPrime

/-- The largest number below 2^`bits` whose `k`-th power does not exceed `n`. -/
def rootOf (k n bits : Nat) : Nat :=
  (List.range bits).foldr (fun i x => if (x + 2 ^ i) ^ k ≤ n then x + 2 ^ i else x) 0

/-- The first 64 bits of the fractional part of a prime's square or cube root. -/
def rootWord (k p : Nat) : Nat := rootOf k (p * 2 ^ (64 * k)) 70 % 2 ^ 64

/-- The 80 round constants and the 16 words from which the initial values are taken, to 64 bits. -/
def roundWords : List Nat := primes80.map (rootWord 3)
def startWords : List Nat := (primes80.take 16).map (rootWord 2)

/-- One member of the family: word width, rounds, and its rotations; the third of a small sigma is a shift. -/
structure Sha2 where
  w : Nat
  rounds : Nat
  big0 : List Nat
  big1 : List Nat
  small0 : List Nat
  small1 : List Nat

def sha2of32 : Sha2 :=
  { w := 32, rounds := 64, big0 := [2, 13, 22], big1 := [6, 11, 25], small0 := [7, 18, 3], small1 := [17, 19, 10] }
def sha2of64 : Sha2 :=
  { w := 64, rounds := 80, big0 := [28, 34, 39], big1 := [14, 18, 41], small0 := [1, 8, 7], small1 := [19, 61, 6] }

/-- Exclusive or of three rotations to the right; `shift` makes the last one a shift. -/
def turn {w : Nat} (x : BitVec w) (r : List Nat) (shift : Bool) : BitVec w :=
  let c := r.getD 2 0
  x.rotateRight (r.getD 0 0) ^^^ x.rotateRight (r.getD 1 0) ^^^ (if shift then x >>> c else x.rotateRight c)

/-- The message schedule, newest word first. -/
def Sha2.schedule (f : Sha2) (block : List (BitVec f.w)) : List (BitVec f.w) :=
  (List.range (f.rounds - 16)).foldl (fun ws _ =>
    (turn (ws.getD 1 0) f.small1 true + ws.getD 6 0 + turn (ws.getD 14 0) f.small0 true + ws.getD 15 0) :: ws) block.reverse

/-- One round on the eight working variables. -/
def Sha2.round (f : Sha2) (v : List (BitVec f.w)) (kw : BitVec f.w) : List (BitVec f.w) :=
  match v with
  | [a, b, c, d, e, g, h, i] =>
    let t := i + turn e f.big1 false + ((e &&& g) ^^^ (~~~e &&& h)) + kw
    let u := turn a f.big0 false + ((a &&& b) ^^^ (a &&& c) ^^^ (b &&& c))
    [t + u, a, b, c, d + t, e, g, h]
  | _ => v

/-- One block is absorbed into the chaining value. -/
def Sha2.compress (f : Sha2) (hv : List (BitVec f.w)) (block : Bytes) : List (BitVec f.w) :=
  let ws := (f.schedule ((chunks (f.w / 8) block).map (fun b => BitVec.ofNat f.w (numBe b)))).reverse
  let ks := (roundWords.take f.rounds).map (fun k => BitVec.ofNat f.w (k / 2 ^ (64 - f.w)))
  let v := (List.zipWith (· + ·) ks ws).foldl f.round hv
  List.zipWith (· + ·) hv v

/-- The padded message: a one bit, zeros, and the length in bits. -/
def Sha2.pad (f : Sha2) (m : Bytes) : Bytes :=
  let b := 2 * f.w
  let l := f.w / 4
  m ++ (0x80 :: List.replicate ((2 * b - 1 - l - m.length % b) % b) 0) ++ be l (8 * m.length)

def Sha2.digest (f : Sha2) (start : List Nat) (n : Nat) (m : Bytes) : Bytes :=
  let h0 := start.map (fun k => BitVec.ofNat f.w (k / 2 ^ (64 - f.w)))
  (((chunks (2 * f.w) (f.pad m)).foldl f.compress h0).flatMap (fun x => be (f.w / 8) x.toNat)).take n

def sha256 (m : Bytes) : Bytes := sha2of32.digest (startWords.take 8) 32 m
def sha384 (m : Bytes) : Bytes := sha2of64.digest (startWords.drop 8) 48 m
def sha512 (m : Bytes) : Bytes := sha2of64.digest (startWords.take 8) 64 m

/-! ### SHA-1 (FIPS 180-4), which EMV Book 2 uses for master-key derivation option B -/

def sha1Round (v : List (BitVec 32)) (tw : Nat × BitVec 32) : List (BitVec 32) :=
  match v with
  | [a, b, c, d, e] =>
    let q := tw.1 / 20
    let f := if q = 0 then (b &&& c) ^^^ (~~~b &&& d) else if q = 2 then (b &&& c) ^^^ (b &&& d) ^^^ (c &&& d) else b ^^^ c ^^^ d
    let k := rootOf 2 ([2, 3, 5, 10].getD q 0 * 2 ^ 60) 34
    [a.rotateLeft 5 + f + e + BitVec.ofNat 32 k + tw.2, a, b.rotateLeft 30, c, d]
  | _ => v

def sha1Compress (hv : List (BitVec 32)) (block : Bytes) : List (BitVec 32) :=
  let w0 := (chunks 4 block).map (fun b => BitVec.ofNat 32 (numBe b))
  let ws := (List.range 64).foldl (fun ws _ =>
    (ws.getD 2 0 ^^^ ws.getD 7 0 ^^^ ws.getD 13 0 ^^^ ws.getD 15 0).rotateLeft 1 :: ws) w0.reverse
  List.zipWith (· + ·) hv (((List.range 80).zip ws.reverse).foldl sha1Round hv)

def sha1 (m : Bytes) : Bytes :=
  let start := [0x67452301, 0xEFCDAB89, 0x98BADCFE, 0x10325476, 0xC3D2E1F0].map (BitVec.ofNat 32)
  ((chunks 64 (sha2of32.pad m)).foldl sha1Compress start).flatMap (fun x => be 4 x.toNat)

/-! ### Keccak (FIPS 202) -/

/-- The 25 lanes; lane (x, y) stands at x + 5y. -/
abbrev Lanes := List (BitVec 64)

def Lanes.at (a : Lanes) (x y : Nat) : BitVec 64 := a.getD (x % 5 + 5 * (y % 5)) 0

def lanesOf (f : Nat → Nat → BitVec 64) : Lanes := (List.range 25).map (fun i => f (i % 5) (i / 5))

/-- Offsets of the rotation step by lane, from the walk (x, y) to (y, 2x + 3y). -/
def rhoOffsets : List (Nat × Nat) :=
  ((List.range 24).foldl (fun (acc : List (Nat × Nat) × Nat × Nat) t =>
    let (l, x, y) := acc
    ((x + 5 * y, (t + 1) * (t + 2) / 2 % 64) :: l, y, (2 * x + 3 * y) % 5)) ([], 1, 0)).1

/-- Bit t of the register that makes the round constants. -/
def rcBit (t : Nat) : Bool :=
  let step (r : Nat) (_ : Nat) : Nat := let d := 2 * r; if 256 ≤ d then (d - 256) ^^^ 0x71 else d
  ((List.range (t % 255)).foldl step 1) % 2 == 1

def roundConst (i : Nat) : BitVec 64 :=
  BitVec.ofNat 64 ((List.range 7).foldl (fun n j => n + (if rcBit (j + 7 * i) then 2 ^ (2 ^ j - 1) else 0)) 0)

def roundConsts : Lanes := (List.range 24).map roundConst

def keccakRound (a : Lanes) (rc : BitVec 64) : Lanes :=
  let col := (List.range 5).map (fun x => (List.range 5).foldl (fun v y => v ^^^ a.at x y) 0)
  let mix (x : Nat) : BitVec 64 := col.getD ((x + 4) % 5) 0 ^^^ (col.getD ((x + 1) % 5) 0).rotateLeft 1
  let turned := lanesOf (fun x y => (a.at x y ^^^ mix x).rotateLeft ((tblGet rhoOffsets (x + 5 * y)).getD 0))
  let moved := lanesOf (fun x y => turned.at (x + 3 * y) x)
  let out := lanesOf (fun x y => moved.at x y ^^^ (~~~(moved.at (x + 1) y) &&& moved.at (x + 2) y))
  match out with
  | l :: t => (l ^^^ rc) :: t
  | [] => []

def keccak (a : Lanes) : Lanes := roundConsts.foldl keccakRound a

def laneBytes (a : Lanes) : Bytes := a.flatMap (fun x => le 8 x.toNat)

/-- A block of the rate is absorbed. -/
def absorbBlock (a : Lanes) (block : Bytes) : Lanes :=
  let b := ((chunks 8 (padTo 200 block)).map (fun x => BitVec.ofNat 64 (num x)))
  keccak (List.zipWith (· ^^^ ·) a b)

def squeeze (rate : Nat) : Nat → Lanes → Bytes
  | 0, _ => []
  | n + 1, a => (laneBytes a).take rate ++ squeeze rate n (keccak a)

/-- The sponge with a rate in bytes and a domain suffix. -/
def sponge (rate suffix : Nat) (m : Bytes) (n : Nat) : Bytes :=
  let q := rate - m.length % rate
  let p : Bytes := if q = 1 then [BitVec.ofNat 8 (suffix + 0x80)]
    else BitVec.ofNat 8 suffix :: (List.replicate (q - 2) 0 ++ [0x80])
  (squeeze rate ((n + rate - 1) / rate) ((chunks rate (m ++ p)).foldl absorbBlock (List.replicate 25 0))).take n

def sha3 (n : Nat) (m : Bytes) : Bytes := sponge (200 - 2 * n) 6 m n
def shake128 (m : Bytes) (n : Nat) : Bytes := sponge 168 0x1F m n
def shake256 (m : Bytes) (n : Nat) : Bytes := sponge 136 0x1F m n

/-! ### cSHAKE and KMAC (SP 800-185) -/

/-- Bytes that a number takes, at least one. -/
def byteLen (n : Nat) : Nat := if n = 0 then 1 else Nat.log2 n / 8 + 1

def leftEncode (n : Nat) : Bytes := le 1 (byteLen n) ++ be (byteLen n) n
def rightEncode (n : Nat) : Bytes := be (byteLen n) n ++ le 1 (byteLen n)
def encodeString (s : Bytes) : Bytes := leftEncode (8 * s.length) ++ s
def bytepad (s : Bytes) (w : Nat) : Bytes :=
  let z := leftEncode w ++ s
  padTo ((z.length + w - 1) / w * w) z

/-- cSHAKE with a function name or a customisation string that is not empty. -/
def cshake (rate : Nat) (m name cust : Bytes) (n : Nat) : Bytes :=
  if name = [] ∧ cust = [] then sponge rate 0x1F m n
  else sponge rate 4 (bytepad (encodeString name ++ encodeString cust) rate ++ m) n

/-- KMAC128 at a rate of 168, KMAC256 at 136. -/
def kmac (rate : Nat) (key m cust : Bytes) (n : Nat) : Bytes :=
  cshake rate (bytepad (encodeString key) rate ++ m ++ rightEncode (8 * n)) [0x4B, 0x4D, 0x41, 0x43] cust n

def kmac256 (key m cust : Bytes) (n : Nat) : Bytes := kmac 136 key m cust n

/-! ### Hash codes (05 R126) and HMAC (FIPS 198-1) -/

/-- The digest of a hash code; `n` is the output length of SHAKE. -/
def hashOf (code : Nat) (m : Bytes) (n : Nat) : Bytes :=
  match code with
  | 0 => m
  | 1 => sha256 m
  | 2 => sha384 m
  | 3 => sha512 m
  | 4 => sha3 32 m
  | 5 => sha3 48 m
  | 6 => sha3 64 m
  | 7 => shake128 m n
  | _ => shake256 m n

/-- Digest and block lengths of the hash codes with a fixed output. -/
def digestLen (code : Nat) : Nat := if code = 1 ∨ code = 4 then 32 else if code = 2 ∨ code = 5 then 48 else 64
def blockLenOf (code : Nat) : Nat :=
  match code with
  | 1 => 64
  | 2 => 128
  | 3 => 128
  | 4 => 136
  | 5 => 104
  | 6 => 72
  | 7 => 168
  | _ => 136

def hmac (code : Nat) (key m : Bytes) : Bytes :=
  let b := blockLenOf code
  let k := padTo b (if b < key.length then hashOf code key (digestLen code) else key)
  let mask (x : Byte) : Bytes := k.map (· ^^^ x)
  hashOf code (mask 0x5C ++ hashOf code (mask 0x36 ++ m) (digestLen code)) (digestLen code)

end Sys2Proof.Machine
end

