-- ==== Sys2Proof/Machine/Flags.lean ====
section
/-! DEFINITION. The codes of the spec's tables and the status words computed from the state: STATUS, LCS, TPER, CELLS,
CAPS, TEMP, QINFO, IDENT, and the tamper registers' classes. -/

namespace Sys2Proof.Machine

/-- Status codes (04 R118, 06 R172, 09 R251, 17 R425). -/
def Status.code : Status → Nat
  | .ok => 0x0000
  | .okRequeued => 0x0101
  | .okDegraded => 0x0102
  | .malformedEntry => 0x0201
  | .malformedChain => 0x0202
  | .badFunction => 0x0203
  | .badLength => 0x0204
  | .badParameter => 0x0205
  | .notAuthorised => 0x0301
  | .partitionMismatch => 0x0302
  | .sessionInvalid => 0x0303
  | .quorumPending => 0x0304
  | .cardRejected => 0x0305
  | .stateRefused => 0x0306
  | .keyNotFound => 0x0401
  | .keyUsage => 0x0402
  | .nonceExhausted => 0x0403
  | .keyLimit => 0x0404
  | .keyStaleGeneration => 0x0405
  | .keyReadOnlyTwin => 0x0406
  | .slotOccupied => 0x0407
  | .blockInvalid => 0x0408
  | .counterReserving => 0x0409
  | .expired => 0x0501
  | .sliceOverrun => 0x0502
  | .drainedRetry => 0x0503
  | .partnerLost => 0x0504
  | .queueDestroyed => 0x0505
  | .intakeFull => 0x0506
  | .noResource => 0x0507
  | .notIdle => 0x0508
  | .verifyFail => 0x0601
  | .cellFault => 0x0701
  | .dualMismatch => 0x0702
  | .haltedByAlarm => 0x0703
  | .randomUnavailable => 0x0704
  | .mediaRemoved => 0x0801
  | .commitUnknown => 0x0802
  | .notErased => 0x0803
  | .bankBusySelf => 0x0804
  | .uncorrectable => 0x0805
  | .tagBusy => 0x0806
  | .noMedia => 0x0807
  | .mediaReadOnly => 0x0808
  | .mediaError => 0x0809
  | .unresolved => 0x080A

/-- Every status of the spec's tables. -/
def allStatuses : List Status := [.ok, .okRequeued, .okDegraded, .malformedEntry, .malformedChain, .badFunction, .badLength,
  .badParameter, .notAuthorised, .partitionMismatch, .sessionInvalid, .quorumPending, .cardRejected, .stateRefused,
  .keyNotFound, .keyUsage, .nonceExhausted, .keyLimit, .keyStaleGeneration, .keyReadOnlyTwin, .slotOccupied, .blockInvalid,
  .counterReserving, .expired, .sliceOverrun, .drainedRetry, .partnerLost, .queueDestroyed, .intakeFull, .noResource,
  .notIdle, .verifyFail, .cellFault, .dualMismatch, .haltedByAlarm, .randomUnavailable, .mediaRemoved, .commitUnknown,
  .notErased, .bankBusySelf, .uncorrectable, .tagBusy, .noMedia, .mediaReadOnly, .mediaError, .unresolved]

/-- The status that a code names, if a table defines it. -/
def Status.ofCode (n : Nat) : Option Status := allStatuses.find? (fun x => x.code == n)

/-- The class, the high byte of the code (R118). -/
def Status.cls (x : Status) : Nat := x.code / 256

/-- Classes 0x00 and 0x01 are success (R118). -/
def Status.good (x : Status) : Bool := decide (x.cls ≤ 1)

/-- Life-cycle codes (13 R338). -/
def Life.code : Life → Nat
  | .factory => 0x5555
  | .transit => 0x3333
  | .blank => 0x0F0F
  | .operational => 0x00FF
  | .maintenance => 0x6666
  | .recovery => 0x5A5A
  | .retired => 0x3C3C

/-- The state that a code names, if any. -/
def Life.ofCode (n : Nat) : Option Life :=
  [Life.factory, .transit, .blank, .operational, .maintenance, .recovery, .retired].find? (fun l => l.code == n)

/-- STATUS.TWIN (03 R68). -/
def TwinRole.code : TwinRole → Nat
  | .solo => 0
  | .primary => 1
  | .secondary => 2
  | .splitPrimary => 3
  | .splitSecondary => 4

def SeedMode.code : SeedMode → Nat
  | .normal => 0
  | .raw => 1
  | .pattern => 2

def PowerMode.code : PowerMode → Nat
  | .full => 0
  | .capped => 1
  | .dormant => 2

def RfMode.code : RfMode → Nat
  | .off => 0
  | .reader => 1
  | .watch => 2

/-- Codewords of CSTATE (06 R152). -/
def CellSt.code : CellSt → Nat
  | .idle => 0x6969
  | .resident => 0x55AA
  | .draining => 0x33CC
  | .drained => 0x6699
  | .parked => 0x0FF0
  | .fenced => 0x5AA5
  | .selftest => 0x3CC3
  | .failed => 0x6996

/-- Class codes (14 R361). -/
def Cls.code : Cls → Nat
  | .log => 0
  | .notify => 1
  | .halt => 2
  | .zeroize => 3
  | .lockout => 4

def Cls.ofCode : Nat → Option Cls
  | 0 => some .log
  | 1 => some .notify
  | 2 => some .halt
  | 3 => some .zeroize
  | 4 => some .lockout
  | _ => none

/-- The stronger of two classes. -/
def Cls.max (a b : Cls) : Cls := if a.code < b.code then b else a

def Role.code : Role → Nat
  | .host => 0
  | .operator => 1
  | .officer => 2
  | .auditor => 3

def SlotSt.code : SlotSt → Nat
  | .absent => 0
  | .identifying => 1
  | .checking => 2
  | .ready => 3
  | .failed => 4
  | .released => 5

/-! ### Conditions that page 0 shows (03 R68) -/

/-- A HALT-class response is in force while THALT is not 0 (14 R369). -/
def State.halted (s : State) : Bool := s.bark.thalt != 0

/-- LOCKOUT in force: either mark (14 R369). -/
def State.lockout (s : State) : Bool := s.bark.lko || s.bark.lkoRecord

/-- ALERT# is asserted while TNTF is not 0 (14 R369). -/
def State.alert (s : State) : Bool := s.bark.tntf != 0

def State.dormant (s : State) : Bool := s.trunk.power == .dormant

/-- A grove that is neither lost nor powered down, and whose power-up has ended. -/
def Grove.serves (g : Grove) : Bool := g.powered && !g.lost && g.rising.isNone

def State.groveServes (s : State) (g : Bool) : Bool := (s.grove g).serves

/-- A serving grove whose cells have not stopped over missed due times (02 R57). -/
def State.groveRuns (s : State) (g : Bool) : Bool := s.groveServes g && decide ((s.grove g).missed < 4)

/-- No cell serves (06 R171). -/
def State.noneServes (s : State) : Bool := !s.groveServes false && !s.groveServes true

/-- All cells that exist. -/
def allCells : List Nat := List.range 256

/-- CELLS.ACTIVE (03 R77). -/
def State.activeIn (s : State) (g : Bool) : Nat :=
  if s.groveServes g then
    ((cellsOf g).filter (fun c => [CellSt.idle, .resident, .draining].contains (s.cell c).st)).length
  else 0
def State.active (s : State) : Nat := s.activeIn false + s.activeIn true
def State.parkedCount (s : State) : Nat := (allCells.filter (fun c => (s.cell c).st == .parked)).length

/-- STATUS.DRAIN (R68), whatever has become of the cells' groves. -/
def State.anyDrained (s : State) : Bool :=
  allCells.any (fun c =>
    let x := s.cell c
    [CellSt.draining, .drained].contains x.st || ([CellSt.fenced, .selftest].contains x.st && x.markedDrained))

/-- STATUS.RF: 3 while the antenna belongs to the tag and an external field is present (17 R450). -/
def State.rfCode (s : State) : Nat := if s.rf.external then 3 else s.rf.mode.code

def State.sdPresent (s : State) : Bool := s.sd.st != .absent && s.sd.st != .released
def State.iccPresent (s : State) : Bool := s.icc.st != .absent && s.icc.st != .released

/-- The life-cycle state that LCS and the quote report. -/
def State.life (s : State) : Life := s.trunk.life

/-- STATUS (03 R68, 0x01C). -/
def State.statusWord (s : State) : Nat :=
  b2n s.trunk.ready + b2n s.halted * 2 ^ 2 + b2n s.lockout * 2 ^ 3 + s.twin.role.code * 2 ^ 4 + s.seed.mode.code * 2 ^ 7 +
    b2n s.seed.fail * 2 ^ 9 + s.trunk.power.code * 2 ^ 10 + b2n s.groveA.lost * 2 ^ 12 + b2n s.groveB.lost * 2 ^ 13 +
    b2n s.sdPresent * 2 ^ 14 + b2n s.iccPresent * 2 ^ 15 + s.rfCode * 2 ^ 16 + b2n s.alert * 2 ^ 19 +
    b2n s.anyDrained * 2 ^ 20

/-- LCS (R68, 0x018). -/
def State.lcsWord (s : State) : Nat := s.life.code + s.trunk.rdp.toNat * 2 ^ 16

/-- TPER (R77). -/
def State.tperWord (s : State) : Nat :=
  s.sched.period + (match s.sched.pend with
    | some (p, _) => p * 2 ^ 16 + 2 ^ 31
    | none => 0)

/-- CELLS (R77). -/
def State.cellsWord (s : State) : Nat := s.active + s.parkedCount * 2 ^ 16

/-- Two's complement in `n` bits. -/
def twos (n : Nat) (i : Int) : Nat := (i % (2 ^ n : Int)).toNat

/-- TEMP (R77): hottest die and case, each in °C. -/
def State.hottest (s : State) : Int := max s.elec.m.dieA (max s.elec.m.dieB s.elec.m.dieTrunk)
def State.tempWord (s : State) : Nat := twos 8 s.hottest + twos 8 s.elec.m.caseC * 2 ^ 8

/-- Queues of one kind that exist in the pool of 1,024 (R68 CAPS, R81). -/
def State.poolUsed (s : State) (completion : Bool) : Nat := (s.queues.filter (fun p => p.2.completion == completion)).length
def State.capsWord (s : State) : Nat := (1024 - s.poolUsed false) + (1024 - s.poolUsed true) * 2 ^ 16

/-- IDENT (R68). -/
def orderCode : Nat := if Config.isE then 2 else 1
def stepping : Nat := 0xB1
def identWord : Nat := 0x0256 * 2 ^ 16 + stepping * 2 ^ 8 + orderCode

/-- The image that runs, as its boot record has it. -/
def State.image (s : State) : Image :=
  if s.trunk.runRecovery then s.trunk.recovery else if s.trunk.runB then s.trunk.imageB else s.trunk.imageA

/-- The receipt window number: ticks 10,000 to a window (02 R37). -/
def State.window (s : State) : Nat := s.sched.tick / 10000

end Sys2Proof.Machine
end

