-- ==== Sys2Proof/Machine/Events.lean ====
section
/-! DEFINITION. What the module reports: vectors, service queues, ring-log records and the NOTIFY events (03 R86, R95, R97,
R98; 15 R386 to R399; 14 R374). -/

namespace Sys2Proof.Machine

/-! ### Interrupt vectors (03 R98) -/

/-- Send the vector's message, or set its PBA bit while it is masked; PEND returns to 0. -/
def State.vecSend (s : State) (f v : Nat) : State :=
  let x := (s.fn f).vector v
  let s := if x.masked then s else s.emit (.msix f v x.addr x.data)
  s.modFn f (fun y => y.setVector v { x with pba := x.pba || x.masked, pend := 0, age := 0 })

/-- Add one to the vector's pending count, and send its message when a rule of R98 holds; `now` for ALARM entries. -/
def State.vecAdd (s : State) (f v : Nat) (now : Bool) : State :=
  let x := (s.fn f).vector v
  let p := if x.pend = 255 then 255 else x.pend + 1
  let s := s.modFn f (fun y => y.setVector v { x with pend := p, age := if x.pend = 0 then 0 else x.age })
  if now || (x.cnt == 0 && x.ticks == 0) || (x.cnt != 0 && decide (x.cnt ≤ p)) then s.vecSend f v else s

/-! ### Rings in host memory (03 R82, R85, R86) -/

/-- Room for one entry: the device index after it would not equal the host index. -/
def Ring.room (r : Ring) (log : Nat) : Bool := (r.dev + 1) % 2 ^ log != r.host

/-- The device index moves on by one entry. -/
def Ring.push (r : Ring) (log : Nat) : Ring :=
  let d := (r.dev + 1) % 2 ^ log
  { r with dev := d, wrap := if d = 0 then (r.wrap + 1) % 2 ^ 32 else r.wrap }

/-- The phase of the entry at the device index: 1 on the first pass, flipping on each wrap (R86). -/
def Ring.phase (r : Ring) : Bool := r.wrap % 2 == 0

/-- The single 8-byte write of bytes 8 to 15 of an index record (R82). -/
def State.writeIndex (s : State) (f : Nat) (record : BitVec 64) (r : Ring) : State :=
  s.emit (.hostWrite f (record.toNat + 8) (le 4 r.dev ++ le 4 r.wrap))

/-! ### Service queues (03 R95, R97) -/

/-- The 256 bytes of a service entry (R95). -/
def SvcEntry.bytes (e : SvcEntry) (phase : Bool) : Bytes :=
  padTo 256 (le 2 e.code ++ le 2 e.payload.length ++ le 4 e.seq ++ le 6 e.tick ++ le 1 (b2n phase) ++ le 1 e.partition ++
    e.payload)

/-- Write waiting entries of service queue `q` while there is room. -/
def State.svcWrite : Nat → State → Nat → Nat → State
  | 0, s, _, _ => s
  | n + 1, s, f, q =>
    let v := (s.fn f).service q
    match v.waiting with
    | [] => s
    | e :: rest =>
      if v.active && v.ring.room v.log.toNat then
        let r := v.ring.push v.log.toNat
        let s := s.emit (.hostWrite f (v.base.toNat + 256 * v.ring.dev) (e.bytes v.ring.phase))
        let s := s.writeIndex f v.record r
        let s := s.modFn f (fun y => y.setService q { v with waiting := rest, ring := r })
        let s := if v.ie then s.vecAdd f v.vec.toNat (q == 0) else s
        State.svcWrite n s f q
      else s

/-- Serve a function's service queues in strict priority (R97): ALARM, RECEIPT, LOG, STATS. In DORMANT nothing is written. -/
def State.svcServe (s : State) (f : Nat) : State :=
  if s.dormant then s else s.each [0, 1, 2, 3] (fun s q => State.svcWrite 64 s f q)

/-- An entry arises for a service queue. It is not kept while the queue is disabled; beyond 64 waiting the oldest goes. -/
def State.svcPost (s : State) (f q code partition : Nat) (payload : Bytes) : State :=
  let v := (s.fn f).service q
  if v.active then
    let e : SvcEntry := { code, seq := (v.seq + 1) % 2 ^ 32, tick := s.sched.tick, partition, payload }
    let w := v.waiting ++ [e]
    let excess := decide (64 < w.length)
    let s := s.modFn f (fun y => y.setService q
      { v with seq := (v.seq + 1) % 2 ^ 32, waiting := if excess then w.drop 1 else w,
               drop := if excess && v.drop != 0xFFFF then v.drop + 1 else v.drop })
    s.svcServe f
  else s

/-- All PCIe functions. -/
def allFns : List Nat := List.range 64

/-- Something waits that a function in D3hot asks for with WAKE# (19 R479). -/
def State.wantWake (s : State) : State :=
  { s with fns := tblMap (fun _ y => if y.d3hot then { y with wakeWanted := true } else y) s.fns }

/-- An ALARM entry on every function whose ALARM queue is enabled (14 R361). -/
def State.alarmPost (s : State) (code : Nat) (payload : Bytes) : State :=
  s.wantWake.each allFns (fun s f => s.svcPost f 0 code 0 payload)

/-! ### Ring-log records (15) -/

/-- Selectors in force for a record code (R397). -/
def State.selectors (s : State) (code : Nat) : List Nat := (tblGet s.log.selectors code).getD [1, 2, 3, 10]

/-- Codes whose source is a cell (R396, R374). -/
def cellSourced (code : Nat) : Bool := [0x0402, 0x0403, 0x0404, 0x0405, 0x0406, 0x0201, 0x0202].contains code

/-- The value a selector captures (R397); one that does not apply reads 0. -/
def State.snapValue (s : State) (code source sel : Nat) : Nat :=
  let c := cellSourced code && source != 0xFF
  match sel with
  | 0x01 => s.statusWord
  | 0x02 => s.lcsWord
  | 0x03 => s.trunk.epoch.toNat
  | 0x04 => s.sched.tick % 2 ^ 32
  | 0x05 => s.tperWord
  | 0x06 => s.cellsWord
  | 0x07 => s.elec.m.vinMv
  | 0x08 => s.elec.m.pinMw
  | 0x09 => s.tempWord
  | 0x0A => s.bark.tstky.toNat
  | 0x0B => s.bark.tact.toNat
  | 0x0C => s.bsec
  | 0x0D => if c then (s.core source).cause.toNat % 2 ^ 32 else 0
  | 0x0E => if c then (s.core source).faddr.toNat % 2 ^ 32 else 0
  | _ => 0

/-- The record that an event makes now (R386); its number is given when the ring log accepts it. -/
def State.record (s : State) (code source sev partition flags : Nat) (payload : Bytes) : Rec :=
  let sel := (s.selectors code).takeWhile (· ≠ 0)
  { seq := 0, code, source, sev, repeats := 1, op := s.opSeconds, cycle := s.clock.powerCycles, partition
    frac := s.opFraction, snapCount := sel.length, flags, payload
    snap := sel.map (fun x => BitVec.ofNat 32 (s.snapValue code source x)), last := s.opSeconds }

/-- The 128 bytes of a record; `mark` is bytes 124 to 127 (R386, R400). -/
def Rec.bytes (r : Rec) (opened : Bool) : Bytes :=
  le 4 r.seq ++ le 2 r.code ++ le 1 r.source ++ le 1 r.sev ++ le 4 r.repeats ++ le 4 r.op ++ le 3 r.cycle ++
    le 1 r.partition ++ le 2 r.frac ++ le 1 (r.snapCount + r.flags + b2n opened * 128) ++ le 1 r.payload.length ++
    padTo 32 (r.snap.flatMap (fun w => le 4 w.toNat)) ++ padTo 64 r.payload ++ le 4 r.last ++ le 4 0

/-- Flag bits of record byte 22 (R386). -/
def flagBackup : Nat := 16
def flagSummary : Nat := 32
def flagHoldUp : Nat := 64

/-- Numbers follow each other, 4,097 after 0xFFFF_FFFE (R388). -/
def nextNumber (n : Nat) : Nat := if n = 0xFFFFFFFE then 4097 else n + 1

def FlashOp.isRecord (o : FlashOp) : Bool := o == .body || o == .mark

/-- Bank 3 is to write the oldest waiting record, after what it was told before (R382, R395). -/
def State.issueBody (s : State) : State :=
  let x := s.bank 3
  if s.log.waiting != [] && !x.ops.any FlashOp.isRecord then s.setBank 3 { x with ops := x.ops ++ [.body] } else s

/-- A committed record waits for bank 3 and is posted on the LOG queues (R395, R399). -/
def State.commitRec (s : State) (r : Rec) : State :=
  let s := { s with log := { s.log with waiting := s.log.waiting ++ [r], lastSeq := r.seq } }.issueBody
  let p := if r.partition = 0xFF then 0 else r.partition
  let s := s.svcPost 0 2 r.code p (r.bytes false)
  if decide (1 ≤ r.partition) && decide (r.partition ≤ 63) then s.svcPost r.partition 2 r.code p (r.bytes false) else s

/-- Commit the open record (R393). -/
def State.commitOpen (s : State) (flags : Nat) : State :=
  match s.log.opened with
  | none => s
  | some o => ({ s with log := { s.log with opened := none } }).commitRec { o with flags := o.flags + flags }

/-- Give a record the next number (R388). -/
def State.numbered (s : State) (r : Rec) : State × Rec :=
  ({ s with log := { s.log with nextSeq := nextNumber s.log.nextSeq } }, { r with seq := s.log.nextSeq })

/-- Normal service: READY is high and none of the modes of R394 applies. -/
def State.normalService (s : State) : Bool :=
  s.trunk.ready && s.life != .factory && s.life != .recovery && !s.trunk.runRecovery && s.seed.mode == .normal

/-- A repeat of the open record (R393). -/
def Rec.repeats? (r o : Rec) : Bool :=
  decide (r.sev ≤ 1) && r.code == o.code && r.source == o.source && r.partition == o.partition && r.snap == o.snap

/-- A record that 256 waiting records keep out (R395). -/
def State.loseRec (s : State) : State :=
  { s with log := { s.log with lost := s.log.lost + 1, firstLoss := if s.log.lost = 0 then s.opSeconds else s.log.firstLoss } }

/-- R393: the open record takes a repeat, or the record replaces it. -/
def State.acceptNormal (s : State) (r : Rec) : State :=
  match s.log.opened with
  | some o =>
    if r.repeats? o then
      let o := { o with repeats := o.repeats + 1, last := r.last }
      let s := { s with log := { s.log with opened := some o } }
      if o.repeats = 0xFFFFFFFF then s.commitOpen 0 else s
    else if 256 ≤ s.log.waiting.length then s.loseRec
    else
      let s := s.commitOpen 0
      if 2 ≤ r.sev ∧ 256 ≤ s.log.waiting.length then s.loseRec
      else
      let (s, r) := s.numbered r
      if 2 ≤ r.sev then s.commitRec r
      else { s with log := { s.log with opened := some r, openedAt := s.clock.cd18 } }
  | none =>
    if 256 ≤ s.log.waiting.length then s.loseRec
    else
      let (s, r) := s.numbered r
      if 2 ≤ r.sev then s.commitRec r
      else { s with log := { s.log with opened := some r, openedAt := s.clock.cd18 } }

/-- R394: no record stays open, each is committed as it arises, at most 16 of a code in a second; later ones of severity 0 or 1 are
counted. Summary records are never suppressed. -/
def State.acceptEach (s : State) (r : Rec) : State :=
  let s := s.commitOpen 0
  let (w, sup) := (tblGet s.log.seconds r.code).getD (0, 0)
  if decide (16 ≤ w) && decide (r.sev ≤ 1) && !bit r.flags 5 then
    { s with log := { s.log with seconds := tblSet s.log.seconds r.code (w, sup + 1) } }
  else if 256 ≤ s.log.waiting.length then s.loseRec
  else
    let s := { s with log := { s.log with seconds := tblSet s.log.seconds r.code (w + 1, sup) } }
    let (s, r) := s.numbered r
    s.commitRec r

/-- A record arises (R388, R393 to R395): before the reopening and in DORMANT it waits in trunk SRAM; once a shutdown has written
its last nothing more is accepted (R404 t4). -/
def State.acceptRec (s : State) (r : Rec) : State :=
  if s.trunk.shutdown then s
  else if !s.log.reopened || s.dormant then
    if 256 ≤ s.log.early.length then s.loseRec else { s with log := { s.log with early := s.log.early ++ [r] } }
  else if s.normalService then s.acceptNormal r
  else s.acceptEach r

/-- Whether the ring log can accept a record now (R395). -/
def State.logFull (s : State) : Bool := decide (256 ≤ s.log.waiting.length)

/-- Record an event of code, source, severity and partition. -/
def State.logEvent (s : State) (code source sev partition : Nat) (payload : Bytes) : State :=
  s.acceptRec (s.record code source sev partition 0 payload)

def addTo (l : List Nat) (n : Nat) : List Nat := if l.contains n then l else l ++ [n]

/-- FLASH_PROGRAM_FAIL: the sector of a program that failed its read-back is replaced at the next idle time (R380). -/
def State.failedProgram (s : State) (b sec unit : Nat) : State :=
  (s.setBank b { s.bank b with toReplace := addTo (s.bank b).toReplace sec }).logEvent 0x0909 b 0 0xFF (le 2 sec ++ le 2 unit)

/-- A command's program of bank `b` fails, in one of `n` sectors from `lo`; which unit it was is free. -/
def State.programFails (s : State) (b lo n : Nat) : State :=
  let sec := lo + s.freeNat % n
  let s := s.drawn
  s.drawn.failedProgram b sec (s.freeNat % 128)

/-- A NOTIFY-class event of R374 or R424: a record of severity 1 and an ALARM entry on every enabled ALARM queue. -/
def State.notify (s : State) (code source : Nat) (payload : Bytes) : State :=
  (s.logEvent code source 1 0xFF payload).alarmPost code payload

end Sys2Proof.Machine
end

