-- ==== Sys2Proof/Machine/Jobs.lean ====
section
/-! DEFINITION. Completing a job: the receipt leaf and the Merkle frontier (05 R140 to R143), the completion entry and its
queue (03 R85, R86, R93, 01 R26, R27), the counters and the statistics. -/

namespace Sys2Proof.Machine

/-! ### Receipts (05) -/

/-- The inner node of R143: first 32 bytes of SHA-384 over 0x01, left, right. -/
def node (l r : Bytes) : Bytes := (sha384 (1 :: (l ++ r))).take 32

/-- The receipt leaf (R140): first 32 bytes of SHA-384 over the 116-byte string. -/
def leafPreimage (partition receipt tick cell epoch : Nat) (entryDigest outputDigest : Bytes) : Bytes :=
  le 1 partition ++ le 8 receipt ++ le 6 tick ++ le 1 cell ++ le 4 epoch ++ padTo 48 entryDigest ++ padTo 48 outputDigest

def leaf (partition receipt tick cell epoch : Nat) (entryDigest outputDigest : Bytes) : Bytes :=
  (sha384 (leafPreimage partition receipt tick cell epoch entryDigest outputDigest)).take 32

/-- Add a perfect subtree to the frontier, newest first; equal sizes merge. -/
def frontierAdd : Nat × Bytes → List (Nat × Bytes) → List (Nat × Bytes)
  | x, [] => [x]
  | (n, d), (m, e) :: t => if n = m then frontierAdd (n + m, node e d) t else (n, d) :: (m, e) :: t

/-- The root of the leaves that the frontier holds: the newer subtrees join under the older ones. -/
def frontierRoot : List (Nat × Bytes) → Bytes
  | [] => []
  | (_, d) :: t => t.foldl (fun acc e => node e.2 acc) d

/-- The output digest (R141): the bytes written, then the 2-byte status. -/
def outputDigest (out : Bytes) (st : Status) : Bytes := sha384 (out ++ le 2 st.code)

/-- The entry digest (R141): the entries, and the input when the job was admitted. -/
def entryDigest (entries : List Bytes) (input : Bytes) (admitted : Bool) : Bytes :=
  sha384 (entries.flatten ++ (if admitted then input else []))

/-- The next receipt number of a partition, and the leaf added to its tree (01 R27). -/
def State.receipt (s : State) (p tick cell epoch : Nat) (ed od : Bytes) : State × Nat :=
  let x := s.part p
  let n := x.nextReceipt
  let d := leaf p n tick cell epoch ed od
  (s.setPart p { x with nextReceipt := n + 1, first := if x.count = 0 then n else x.first, count := x.count + 1,
                        frontier := frontierAdd (1, d) x.frontier }, n)

/-! ### Completion queues (03) -/

/-- Bytes 0 to 31 of a completion entry (R93); `dev` is the submission queue's device index as the entry is written. For a chain
the head is the one after its LAST entry (R91). -/
def Cpl.bytes (e : Cpl) (dev : Nat) (phase : Bool) : Bytes :=
  le 2 e.tag ++ le 2 e.status.code ++ le 2 e.sq ++ le 2 (e.head.getD dev) ++ le 6 e.tick ++ le 1 e.cell ++
    le 1 (b2n phase + 2 * (min e.slices 127)) ++ le 4 e.outLen ++ le 4 e.epoch ++ le 8 e.receipt

/-- The device index of a submission queue of a function; queue 0 is the administrative one. -/
def State.sqHead (s : State) (f q : Nat) : Nat :=
  if q = 0 then (s.fn f).adm.sq.dev else ((s.queue? (queueKey f false q)).map (fun x => x.ring.dev)).getD 0

/-- A destroyed submission queue's number returns to the pool after its last completion has been written (R87). -/
def State.reap (s : State) (f q : Nat) : State :=
  let k := queueKey f false q
  match s.queue? k with
  | some x =>
    if x.destroyed && !s.jobs.any (fun p => p.2.fn == f && p.2.q == q) &&
        !s.queues.any (fun p => p.2.fn == f && p.2.completion && p.2.waiting.any (fun e => e.sq == q)) then s.delQueue k
    else s
  | none => s

/-- Completions that wait now raise the partition's peak of the window (R96). -/
def State.peakWaits (s : State) (p n : Nat) : State := s.modPart p (fun x => { x with peakWait := max x.peakWait n })

/-- The staging buffers of jobs whose completion has been written, or is not to be, are free again for their partition (06 R151). -/
def State.unstage (s : State) : State :=
  let used (j : Nat) : Bool := (s.job? j).isSome || s.queues.any (fun q => q.2.waiting.any (fun e => e.job == some j))
  { s with stage := tblMap (fun _ b => if b.job.any (fun j => !used j) then { b with job := none } else b) s.stage }

/-- Write the waiting completions of a created completion queue while there is room (R85, R86). -/
def State.cqWrite : Nat → State → Nat → State
  | 0, s, _ => s
  | n + 1, s, k =>
    match s.queue? k with
    | none => s
    | some q =>
      match q.waiting with
      | [] => s
      | e :: rest =>
        if q.ring.room q.log then
          let r := q.ring.push q.log
          let s := s.emit (.hostWrite q.fn (q.base.toNat + 32 * q.ring.dev) (e.bytes (s.sqHead q.fn e.sq) q.ring.phase))
          let s := s.writeIndex q.fn q.record r
          let s := s.setQueue k { q with waiting := rest, ring := r }
          let s := if q.ie then s.vecAdd q.fn q.vec.toNat false else s
          State.cqWrite n (s.unstage.reap q.fn e.sq) k
        else s

/-- A completion for completion queue `k` of partition `p`: written in order, or waiting for room (R85). -/
def State.cqPost (s : State) (k p : Nat) (e : Cpl) : State :=
  match s.queue? k with
  | none => s
  | some q =>
    let s := s.setQueue k { q with waiting := q.waiting ++ [e] }
    let s := State.cqWrite (q.waiting.length + 1) s k
    s.peakWaits p (((s.queue? k).map (fun x => x.waiting.length)).getD 0)

/-- The administrative completion queue (R73, R79): a completion that finds EN clear is discarded and recorded. -/
def State.admWrite : Nat → State → Nat → State
  | 0, s, _ => s
  | n + 1, s, f =>
    let a := (s.fn f).adm
    match a.waiting with
    | [] => s
    | e :: rest =>
      if a.active && a.cq.room a.cqLog.toNat then
        let r := a.cq.push a.cqLog.toNat
        let s := s.emit (.hostWrite f (a.cqBase.toNat + 32 * a.cq.dev) (e.bytes a.sq.dev a.cq.phase))
        let s := s.writeIndex f a.cqRec r
        let s := s.modFn f (fun y => { y with adm := { a with waiting := rest, cq := r } })
        let s := if a.ie then s.vecAdd f a.vec.toNat false else s
        State.admWrite n s f
      else s

/-- A completion that reports a malformed entry or chain (R77). -/
def State.countMalformed (s : State) (f : Nat) (st : Status) : State :=
  if st = .malformedEntry ∨ st = .malformedChain then s.modFn f (fun y => { y with malform := y.malform + 1 }) else s

def State.admPost (s : State) (f : Nat) (e : Cpl) : State :=
  let s := s.countMalformed f e.status
  let a := (s.fn f).adm
  if a.active then
    let s := State.admWrite (a.waiting.length + 1) (s.modFn f (fun y => { y with adm := { a with waiting := a.waiting ++ [e] } })) f
    s.peakWaits f (s.fn f).adm.waiting.length
  else s.logEvent 0x0602 f 0 f (le 2 0)

/-! ### Counters -/

/-- Page 3 counters and the window's statistics (03 R77, R96). -/
def State.countJob (s : State) (f p : Nat) (st : Status) : State :=
  let inc (b : Bool) (x : BitVec 32) : BitVec 32 := if b then x + 1 else x
  let s := s.modFn f (fun y => { y with
    jobs := y.jobs + 1
    expire := inc (st == .expired) y.expire
    overrun := inc (st == .sliceOverrun) y.overrun })
  let s := s.countMalformed f st
  s.modPart p (fun x => { x with wJobs := x.wJobs + 1, wClass := x.wClass.modify st.cls (· + 1) })

/-! ### Ending a job -/

/-- The boundary that follows now (01 R27): the first boundary after READY opens the tick set at t7 (02 R37). -/
def State.nextTick (s : State) : Nat := if s.sched.firstBoundary then s.sched.tick else (s.sched.tick + 1) % 2 ^ 48

/-- Take a job out of both intakes, out of every plan, and out of the Seed queues. -/
def State.unplace (s : State) (j : Nat) : State :=
  let drop (c : Cell) : Cell :=
    { c with plan := c.plan.filter (fun i => i.job != j), resident := if c.resident = some j then none else c.resident }
  let away (y : Grove) : Grove := { y with
    intake := y.intake.filter (· != j)
    seedWait1 := y.seedWait1.filter (fun r => r.job != some j), seedWait2 := y.seedWait2.filter (fun r => r.job != some j) }
  { s with groveA := away s.groveA, groveB := away s.groveB, cells := tblMap (fun _ c => drop c) s.cells }

/-- What a completion takes from the record that a dispatcher forwarded: its output digest and its epoch (06 R155). Without a
record the digest is formed here, and the epoch is the one in force. -/
abbrev Attested := Option (Bytes × Nat)

/-- Post one completion of a submission queue: receipt, leaf, output, entry, counters (01 R26, R27, 05 R140, R141). -/
def State.postCompletion (s : State) (f q p tag : Nat) (st : Status) (out : Bytes) (outPtr : BitVec 64) (outLen : Nat)
    (ed : Bytes) (cell tick slices : Nat) (silent : Bool) (head : Option Nat := none) (rec : Attested := none) (job : Option Nat := none) : State :=
  let epoch := (rec.map (fun r => r.2)).getD s.trunk.epoch.toNat
  let (s, n) := s.receipt p tick cell epoch ed ((rec.map (fun r => r.1)).getD (outputDigest out st))
  if silent then s
  else
    let s := if out = [] then s else s.emit (.hostWrite f outPtr.toNat out)
    let e : Cpl := { tag, status := st, sq := q, tick, cell, slices, outLen, epoch, receipt := n, head, job }
    let s := s.countJob f p st
    match s.queue? (queueKey f false q) with
    | some x => s.cqPost (queueKey f true x.cq) p e
    | none => s


/-- A job ends with a status and is gone (01 R27, 05 R151). -/
def State.endJob (s : State) (j : Nat) (st : Status) (out : Bytes) (outLen : Nat) (ed : Bytes) (cell tick slices : Nat)
    (rec : Attested := none) : State :=
  match s.job? j with
  | none => s
  | some x =>
    let s := (s.unplace j).delJob j
    let s := s.postCompletion x.fn x.q x.partition x.tag st out x.outPtr outLen ed cell tick slices x.silent x.head rec (some j)
    s.unstage.reap x.fn x.q

/-- Copies of a job that have been admitted. -/
def Job.admitted (x : Job) : Bool := ([x.copyA, x.copyB].filterMap id).any (fun k => k.place != .waiting)

/-- A job ends that was never admitted: cell 0xFF, slice count 0, its entries alone digested (05 R141, R142). -/
def State.endUnadmitted (s : State) (j : Nat) (st : Status) (tick : Nat) : State :=
  match s.job? j with
  | none => s
  | some x => s.endJob j st [] 0 (entryDigest x.entries [] false) 0xFF tick 0

/-- A life-cycle change runs: its response has been written (13 R341). -/
def State.changing (s : State) : Bool := s.trunk.change.any (fun c => c.waits.isNone)

/-- Entries in the intakes complete with QUEUE_DESTROYED while a life-cycle change runs (13 R341 step 3). -/
def State.endWaiting (s : State) : State :=
  if s.changing then
    s.each ((s.jobs.filter (fun p => !p.2.admitted)).map (fun p => p.1)) (fun s j => s.endUnadmitted j .queueDestroyed s.nextTick)
  else s

end Sys2Proof.Machine
end

