-- ==== Sys2Proof/Machine/Fetch.lean ====
section
/-! DEFINITION. Rings by function, kind and number (03 R81), the way of a job into the intakes (02 R44), and the order in which the
host interface reads submission entries (03 R84). -/

namespace Sys2Proof.Machine

/-! ### Rings by function, kind and number (R81) -/

/-- A queue's ring, its size's logarithm, base and index record. -/
structure RingRef where
  ring : Ring
  log : Nat
  base : BitVec 64
  record : BitVec 64

/-- The ring that a doorbell may name: the administrative pair and the service queues while ACTIVE, created queues (R83). -/
def State.ringRef (s : State) (f : Nat) (completion : Bool) (q : Nat) : Option RingRef :=
  let y := s.fn f
  let a := y.adm
  if q = 0 then
    if !a.active then none
    else if completion then some ⟨a.cq, a.cqLog.toNat, a.cqBase, a.cqRec⟩
    else some ⟨a.sq, a.sqLog.toNat, a.sqBase, a.sqRec⟩
  else if completion && decide (q ≤ 4) then
    let v := y.service (q - 1)
    if v.active then some ⟨v.ring, v.log.toNat, v.base, v.record⟩ else none
  else
    match s.queue? (queueKey f completion q) with
    | some x => if x.destroyed then none else some ⟨x.ring, x.log, x.base, x.record⟩
    | none => none

def State.setRing (s : State) (f : Nat) (completion : Bool) (q : Nat) (r : Ring) : State :=
  if q = 0 then
    s.modFn f (fun y => { y with adm := if completion then { y.adm with cq := r } else { y.adm with sq := r } })
  else if completion && decide (q ≤ 4) then
    s.modFn f (fun y => y.setService (q - 1) { y.service (q - 1) with ring := r })
  else s.modQueue (queueKey f completion q) (fun x => { x with ring := r })

/-! ### Intakes (01 R23, 02 R44) -/

/-- Entries that a grove's intake of 16,384 holds: each job has the place of every entry of its chain. -/
def State.intakeUsed (s : State) (g : Bool) : Nat :=
  ((s.grove g).intake.map (fun j => ((s.job? j).map (fun x => x.entries.length)).getD 0)).sum

/-- Entries of a partition in a grove's intake. -/
def State.intakeOf (s : State) (p : Nat) (g : Bool) : Nat :=
  ((s.grove g).intake.map (fun j => ((s.job? j).map (fun x => if x.partition = p then x.entries.length else 0)).getD 0)).sum

/-- The groves whose intakes a job of a queue goes into. Between the loss of the last grove and the boundary from which no entry
is admitted, entries go to Grove A's (06 R171). -/
def State.route (s : State) (p : Nat) (dual : Bool) : List Bool :=
  let here := [false, true].filter (fun g => s.groveServes g)
  if here = [] then [false]
  else if dual then here
  else match here with
    | [_, _] => if s.intakeOf p true < s.intakeOf p false then [true] else [false]
    | l => l

/-- An intake that the next entry of a queue may need is full (02 R44). -/
def State.intakeFull (s : State) (q : Queue) : Bool :=
  (s.route q.fn q.dual).any (fun g => decide (16384 ≤ s.intakeUsed g + q.chain.length))

/-! ### Fetching (03 R71, R72, R84) -/

/-- Commands in execution whose answer waits, each with its code: for a grove, for the partner, for a life-cycle change's turn, or held
(04 R111, 06 R166, 16 R410, R416). -/
def State.inExecution (s : State) : List (Nat × Req) :=
  s.trunk.restores.map (fun w => (0x0403, w.req)) ++ s.twin.replies.map (fun x => (x.code, x.req)) ++
    s.twin.unpairing.toList.map (fun q => (0x0801, q)) ++ (s.trunk.change.bind (fun c => c.waits)).toList.map (fun q => (0x0701, q)) ++
    s.trunk.held.map (fun w => (w.code, w.req))

/-- No administrative command of a function is fetched and unfinished (03 R71). -/
def State.adminIdle (s : State) (f : Nat) : Bool :=
  !s.inExecution.any (fun w => w.2.fn.toNat == f && (match w.2.via with
    | .admin _ _ => true
    | .mailbox _ => false))

/-- Pending internal cell jobs: those that sign roots and the commands' (03 R72, 01 R27). -/
def State.internalJobs (s : State) : Nat := s.sched.unplaced.length + (s.cells.map (fun p => p.2.intern.length)).sum

/-- A submission queue has an entry that may be read now. -/
def State.fetchable (s : State) (f q : Nat) : Bool :=
  match s.ringRef f false q with
  | none => false
  | some x =>
    x.ring.dev != x.ring.host &&
      (if q = 0 then s.adminIdle f && !((s.fn f).adm.held && decide (256 ≤ s.internalJobs))
        else ((s.queue? (queueKey f false q)).map (fun y => !s.intakeFull y)).getD false)

/-- Numbers from a list in round-robin order, after the one served last. -/
def afterLast (last : Nat) (l : List Nat) : List Nat := l.filter (fun x => decide (last < x)) ++ l.filter (fun x => decide (x ≤ last))

/-- The queue of a function that is served next. -/
def State.nextQueue (s : State) (f : Nat) : Option Nat :=
  let qs := 0 :: (s.queues.filter (fun p => p.2.fn == f && !p.2.completion)).map (fun p => p.2.num)
  (afterLast (s.fn f).fetchLast qs).find? (fun q => s.fetchable f q)

/-- The read of the next entry goes out when none is outstanding: functions in turn, each function's queues in turn (R84;
that one read is outstanding at a time, log entry 71). -/
def State.fetch (s : State) : State :=
  if s.trunk.fetching.isSome || s.dormant || !s.trunk.ready then s
  else
    match (afterLast s.trunk.fetchLast allFns).findSome? (fun f => (s.nextQueue f).map (fun q => (f, q))) with
    | none => s
    | some (f, q) =>
      match s.ringRef f false q with
      | none => s
      | some x =>
        let s := { s with trunk := { s.trunk with fetching := some (f, q), fetchLast := f } }
        (s.modFn f (fun y => { y with fetchLast := q })).emit (.hostRead f (x.base.toNat + 64 * x.ring.dev) 64)

/-- The outstanding read is of a queue that is gone: its answer is not used. -/
def State.fetchDrop (s : State) (gone : Nat → Nat → Bool) : State :=
  if s.trunk.fetching.any (fun p => gone p.1 p.2) then { s with trunk := { s.trunk with fetching := none } } else s

end Sys2Proof.Machine
end

