-- ==== Sys2Proof/Machine/Space.lean ====
section
/-! DEFINITION. The memories that cells and engines address: one key space over every cell's, branch's and grove's memory
and DRAM (01 R23, R24), wipes (06 R150, R156, 07 R200, R201), and the ports of the engines at a job's end (08 R220, R233,
10 R276). -/

namespace Sys2Proof.Machine

/-- First memory key of an owner: cells 1 to 256, branches from 0x200, groves from 0x300, the trunk 0x400; DRAM keeps its
addresses. -/
def ownerBase (o : Nat) : Nat := o * 2 ^ 48
def cellBase (c : Nat) : Nat := ownerBase (1 + c % 256)
def branchBase (c : Nat) : Nat := ownerBase (0x200 + branchOf c)
def groveBase (g : Bool) : Nat := ownerBase (0x300 + b2n g)

/-- Bank offsets in the cell map (R24). -/
def bankL : Nat := 0x100000
def bankS : Nat := 0x101000

/-- What an address of the cell map is (R24). -/
inductive Region where
  /-- Own instruction SRAM, data SRAM, bank L or bank S: a memory key. -/
  | localMem (key : Nat)
  /-- Branch SRAM, grove SRAM or DRAM: a memory key behind the access table. -/
  | fabric (key : Nat)
  /-- The cell control page, at an offset. -/
  | control (off : Nat)
  /-- A peripheral page behind the access table: 1 digest engine, 2 pipeline port, 3 Seed, 4 dispatcher. -/
  | periph (page off : Nat)
  /-- The integrity-tag area. -/
  | tags
  /-- Not listed: unmapped. -/
  | none
  deriving DecidableEq, Repr

/-- The region of an address seen by cell `c` (R24). What the trunk's cores address is not given: memory of their own (log entry
70). -/
def region (c addr : Nat) : Region :=
  if c = trunkCore then (if addr < 2 ^ 40 then .localMem (ownerBase 0x400 + addr) else .none)
  else if addr < 0x8000 then .localMem (cellBase c + addr)
  else if 0x10000 ≤ addr ∧ addr < 0x20000 then .localMem (cellBase c + addr)
  else if 0x100000 ≤ addr ∧ addr < 0x102000 then .localMem (cellBase c + addr)
  else if 0x0100000000 ≤ addr ∧ addr < 0x0100080000 then .fabric (branchBase c + (addr - 0x0100000000))
  else if 0x0200000000 ≤ addr ∧ addr < 0x0200800000 then .fabric (groveBase (groveOf c) + (addr - 0x0200000000))
  else if 0x1000000000 ≤ addr ∧ addr < 0x13C0000000 then .fabric addr
  else if 0x13C0000000 ≤ addr ∧ addr < 0x1400000000 then .tags
  else if 0x2000000000 ≤ addr ∧ addr < 0x2000001000 then .control (addr - 0x2000000000)
  else if 0x2000010000 ≤ addr ∧ addr < 0x2000011000 then .periph 1 (addr - 0x2000010000)
  else if 0x2000020000 ≤ addr ∧ addr < 0x2000021000 then .periph 2 (addr - 0x2000020000)
  else if 0x2000030000 ≤ addr ∧ addr < 0x2000031000 then .periph 3 (addr - 0x2000030000)
  else if 0x2000040000 ≤ addr ∧ addr < 0x2000041000 then .periph 4 (addr - 0x2000040000)
  else .none

/-! ### Reading and writing bytes -/

def State.rd (s : State) (k n : Nat) : Bytes := memRead s.mem k n
def State.wr (s : State) (k : Nat) (bs : Bytes) : State := { s with mem := memWrite s.mem k bs }
def State.zero (s : State) (k n : Nat) : State := { s with mem := memZero s.mem k n }
/-- The little-endian number of `n` bytes at a key. -/
def State.rdNat (s : State) (k n : Nat) : Nat := num (s.rd k n)

/-- Whether a key of DRAM lies in a line whose integrity tag fails (01 R13). -/
def State.badLine (s : State) (k : Nat) : Bool := s.dramBad.contains (k / 64 * 64)

/-! ### Wipes -/

/-- The store of a cell that a failed line discarded and no instruction has reported has its DRAM_INTEGRITY record (01 R13). -/
def State.impreciseLost (s : State) (c : Nat) : State :=
  match (s.core c).imprecise with
  | some line => s.logEvent 0x0405 c 0 (s.cell c).jpart (le 8 line)
  | none => s

/-- R201 and R156: the hardware zeroes a cell's SRAM, both banks and both secret halves, and the unit's registers. -/
def State.wipeCell (s : State) (c : Nat) : State :=
  ((s.impreciseLost c).zero (cellBase c) (2 ^ 48)).modCell c (fun x => { x with
    halfS := {}, halfL := {}, answer := none, savedCore := none, bnuS := none, bnuL := none, scratchS := 0, scratchL := 0
    core := { x.core with sbuf := [], wait := .none, imprecise := none, look := [] } })

/-- Requests of a cell are cancelled, and the tickets of its banks discarded (08 R214, R220). A cancelled request's status keeps
0xFFFF. -/
def State.portsCancel (s : State) (c : Nat) (which : PReq → Bool) (bankS bankL : Bool) : State :=
  let gone := ((s.cell c).port.outstanding.filter which).map (fun r => r.id)
  let s := s.modCell c (fun x => { x with
    port := { x.port with
      outstanding := x.port.outstanding.filter (fun r => !which r)
      ticketS := if bankS then none else x.port.ticketS
      ticketL := if bankL then none else x.port.ticketL } })
  s.modGrove (groveOf c) (fun g => { g with ghash := g.ghash.filter (fun p => !gone.contains p.1) })

/-- The ports of a cell at a job's end: both contexts, the job's requests, the tickets of its banks and the Seed request (08 R214,
R215, R220, R233, 10 R276). -/
def State.portsReset (s : State) (c : Nat) (which : PReq → Bool) (bankS bankL : Bool) : State :=
  let s := (s.portsCancel c which bankS bankL).modCell c (fun x => { x with
    dctx0 := {}, dctx1 := {}
    seed := if x.seed.state = .waiting then { x.seed with state := .idle } else x.seed })
  s.modGrove (groveOf c) (fun g => { g with
      seedWait1 := g.seedWait1.filter (fun r => r.cell != c || r.job.isSome),
      seedWait2 := g.seedWait2.filter (fun r => r.cell != c || r.job.isSome) })

/-- All of a cell's ports, at a fence or with its grove. -/
def State.portsClear (s : State) (c : Nat) : State := s.portsReset c (fun _ => true) true true

/-- A grove's memory is wiped: its cells, its branches and its grove SRAM (02 R57, 06 R167, R168). -/
def State.wipeGrove (s : State) (g : Bool) : State :=
  let s := s.each (cellsOf g) (fun s c => ((s.wipeCell c).portsClear c).modCell c (fun x => { x with port := {}, seed := {} }))
  let s := s.each ((List.range 16).map (fun b => b + (if g then 16 else 0)))
    (fun s b => s.zero (ownerBase (0x200 + b)) (2 ^ 48))
  let s := s.zero (groveBase g) (2 ^ 48)
  s.modGrove g (fun x => { x with
    access := [], window := [], ghash := [], dpBusy := false, gen := {}, seedWait1 := [], seedWait2 := [], resetKeys := []
    dsaved := [], psaved := [] })

/-- First memory key of a cell's 64 KiB branch-SRAM scratch area (06 R150). -/
def scratchBase (c : Nat) : Nat := branchBase c + 0x10000 * leafOf c

/-- The cell runs its resident long job. -/
def Cell.runsLong (x : Cell) : Bool :=
  match x.plan with
  | i :: _ => i.long
  | [] => x.resident.isSome

/-- A store for cell `c`: the kernel keeps the highest scratch address that the job in hand wrote (06 R150). -/
def State.put (s : State) (c k : Nat) (bs : Bytes) : State :=
  let s := s.wr k bs
  if scratchBase c ≤ k ∧ k < scratchBase c + 0x10000 then
    let top := k - scratchBase c + bs.length
    s.modCell c (fun x => if x.runsLong then { x with scratchL := max x.scratchL top } else { x with scratchS := max x.scratchS top })
  else s

/-- Step 11 of R149 for job `j`: its banks and secret halves, data SRAM above KBOUND, and the scratch area up to the highest
address that it wrote (06 R150). -/
def State.wipeJob (s : State) (c j : Nat) (long : Bool) : State :=
  let x := s.cell c
  let db := min (bits x.core.kbound.toNat 15 8) 128 * 512
  let s := s.zero (cellBase c + bankS) 4096
  let s := if long then s.zero (cellBase c + bankL) 4096 else s
  let s := s.zero (cellBase c + 0x10000 + db) (0x10000 - db)
  let s := s.zero (scratchBase c) (min 0x10000 (if long then max x.scratchS x.scratchL else x.scratchS))
  let s := s.modCell c (fun x => { x with
    halfS := {}, bnuS := none, scratchS := 0
    halfL := if long then {} else x.halfL, bnuL := if long then none else x.bnuL, scratchL := if long then 0 else x.scratchL })
  s.portsReset c (fun r => r.job == some j || r.job.isNone) true long

/-! ### Ending pipeline requests (08 R217, R219) -/

/-- A request ends: its status is written last, DONE counts it. -/
def State.endRequest (s : State) (c : Nat) (r : PReq) (st : Status) : State :=
  let s := s.wr (r.key + 56) (le 2 st.code)
  let s := s.modCell c (fun x => { x with port := { x.port with
      outstanding := x.port.outstanding.filter (fun q => q.id != r.id),
      done := x.port.done + 1 } })
  s.modGrove (groveOf c) (fun g => { g with ghash := g.ghash.filter (fun p => p.1 != r.id) })

/-- R210: both windows clear, every outstanding request ends with HALTED_BY_ALARM. -/
def State.haltPipelines (s : State) : State :=
  let s := s.each allCells (fun s c => s.each (s.cell c).port.outstanding (fun s r => s.endRequest c r .haltedByAlarm))
  { s with groveA := { s.groveA with window := [] }, groveB := { s.groveB with window := [] } }

end Sys2Proof.Machine
end

