-- ==== Sys2Proof/Machine/StdCipher.lean ====
section
/-! DEFINITION. The block ciphers and modes of the standards that 00 R9 names: AES (FIPS 197), TDES (SP 800-67), ECB, CBC and
CTR (SP 800-38A), CMAC (38B), GCM (38D), XTS (38E), FF1 (38G), and the MAC algorithms 1 and 3 of ISO/IEC 9797-1. -/

namespace Sys2Proof.Machine

/-! ### AES (FIPS 197) -/

/-- Multiplication by x in the field of 256 elements. -/
def xtime (b : Byte) : Byte := (b <<< 1) ^^^ (if b.getLsbD 7 then 0x1B else 0)

def gfMul (a b : Byte) : Byte :=
  ((List.range 8).foldl (fun (acc : Byte × Byte) i =>
    (if b.getLsbD i then acc.1 ^^^ acc.2 else acc.1, xtime acc.2)) (0, a)).1

/-- The powers of x + 1, which are all elements but 0. -/
def gfPowersFrom : Nat → Byte → Bytes
  | 0, _ => []
  | n + 1, a => a :: gfPowersFrom n (a ^^^ xtime a)
def gfPowers : Bytes := gfPowersFrom 255 1

/-- The inverse, 0 for 0. -/
def gfInv (a : Byte) : Byte := if a = 0 then 0 else gfPowers.getD ((255 - gfPowers.findIdx (· == a)) % 255) 0

/-- The table of the substitution (FIPS 197, 5.1.1), byte 0 first, and that of its inverse (5.3.2). -/
def aesBox : Bytes := be 256 0x637C777BF26B6FC53001672BFED7AB76CA82C97DFA5947F0ADD4A2AF9CA472C0B7FD9326363FF7CC34A5E5F171D8311504C723C31896059A071280E2EB27B27509832C1A1B6E5AA0523BD6B329E32F8453D100ED20FCB15B6ACBBE394A4C58CFD0EFAAFB434D338545F9027F503C9FA851A3408F929D38F5BCB6DA2110FFF3D2CD0C13EC5F974417C4A77E3D645D197360814FDC222A908846EEB814DE5E0BDBE0323A0A4906245CC2D3AC629195E479E7C8376D8DD54EA96C56F4EA657AAE08BA78252E1CA6B4C6E8DD741F4BBD8B8A703EB5664803F60E613557B986C11D9EE1F8981169D98E949B1E87E9CE5528DF8CA1890DBFE6426841992D0FB054BB16
def aesBoxInv : Bytes := be 256 0x52096AD53036A538BF40A39E81F3D7FB7CE339829B2FFF87348E4344C4DEE9CB547B9432A6C2233DEE4C950B42FAC34E082EA16628D924B2765BA2496D8BD12572F8F66486689816D4A45CCC5D65B6926C704850FDEDB9DA5E154657A78D9D8490D8AB008CBCD30AF7E45805B8B34506D02C1E8FCA3F0F02C1AFBD0301138A6B3A9111414F67DCEA97F2CFCEF0B4E67396AC7422E7AD3585E2F937E81C75DF6E47F11A711D29C5896FB7620EAA18BE1BFC563E4BC6D279209ADBC0FE78CD5AF41FDDA8338807C731B11210592780EC5F60517FA919B54A0D2DE57A9F93C99CEFA0E03B4DAE2AF5B0C8EBBB3C83539961172B047EBA77D626E169146355210C7D

def subBytes (box s : Bytes) : Bytes := s.map (fun b => box.getD b.toNat 0)

/-- Row r turns left by r columns, or right in the inverse; byte 4c + r of the string stands in row r, column c. -/
def shiftRows (back : Bool) (s : Bytes) : Bytes :=
  (List.range 16).map (fun i => s.getD ((i + (if back then 12 else 4) * (i % 4)) % 16) 0)

/-- A byte times 1, 2, 3, 9, 11, 13 or 14, by doublings (FIPS 197, 4.2.1). -/
def gfTimes (k : Nat) (b : Byte) : Byte :=
  match k with
  | 1 => b
  | 2 => xtime b
  | 3 => xtime b ^^^ b
  | 9 => xtime (xtime (xtime b)) ^^^ b
  | 11 => xtime (xtime (xtime b)) ^^^ xtime b ^^^ b
  | 13 => xtime (xtime (xtime b)) ^^^ xtime (xtime b) ^^^ b
  | _ => xtime (xtime (xtime b)) ^^^ xtime (xtime b) ^^^ xtime b

/-- Each column times the circulant of four coefficients. -/
def mixColumns (k0 k1 k2 k3 : Nat) (s : Bytes) : Bytes :=
  (List.range 16).map (fun i =>
    let at_ (j : Nat) : Byte := s.getD (i / 4 * 4 + (i + j) % 4) 0
    gfTimes k0 (at_ 0) ^^^ gfTimes k1 (at_ 1) ^^^ gfTimes k2 (at_ 2) ^^^ gfTimes k3 (at_ 3))

/-- The expanded key as 4-byte words, newest first, until `n` words stand. -/
def aesWords (nk : Nat) : Nat → List Bytes → List Bytes
  | 0, ws => ws
  | f + 1, ws =>
    let i := ws.length
    let t := ws.getD 0 []
    let t := if i % nk = 0 then
        let u := subBytes aesBox (t.drop 1 ++ t.take 1)
        xorBytes u [(List.range (i / nk - 1)).foldl (fun b _ => xtime b) 1, 0, 0, 0]
      else if 6 < nk ∧ i % nk = 4 then subBytes aesBox t else t
    aesWords nk f (xorBytes (ws.getD (nk - 1) []) t :: ws)

/-- The round keys of a key of 16, 24 or 32 bytes. -/
def aesKeys (key : Bytes) : List Bytes :=
  let nk := key.length / 4
  let ws := (aesWords nk (4 * (nk + 7) - nk) (chunks 4 key).reverse).reverse
  chunks 16 ws.flatten

def aesRound (last : Bool) (s rk : Bytes) : Bytes :=
  let t := shiftRows false (subBytes aesBox s)
  xorBytes (if last then t else mixColumns 2 3 1 1 t) rk

def aesBack (first : Bool) (s rk : Bytes) : Bytes :=
  let t := xorBytes s rk
  subBytes aesBoxInv (shiftRows true (if first then t else mixColumns 14 11 13 9 t))

def aesEnc (key block : Bytes) : Bytes :=
  match aesKeys key with
  | [] => block
  | k0 :: ks => aesRound true (ks.dropLast.foldl (aesRound false) (xorBytes block k0)) (ks.getLastD [])

def aesDec (key block : Bytes) : Bytes :=
  match aesKeys key with
  | [] => block
  | k0 :: ks => xorBytes ((ks.dropLast.reverse).foldl (aesBack false) (aesBack true block (ks.getLastD []))) k0

/-! ### DES and TDES (SP 800-67) -/

/-- The bits of a string, most significant bit of the first byte first, and back. -/
def bitsBe (bs : Bytes) : List Bool := bs.flatMap (fun b => (List.range 8).map (fun i => b.getLsbD (7 - i)))
def numBits (l : List Bool) : Nat := l.foldl (fun n b => 2 * n + b2n b) 0
def bytesOfBits (l : List Bool) : Bytes := be (l.length / 8) (numBits l)

/-- The bits at listed places, counted from 1. -/
def permute (t : List Nat) (l : List Bool) : List Bool := t.map (fun i => l.getD (i - 1) false)

/-- The initial permutation: columns of even places, then of odd ones, from the last row up. -/
def desIp : List Nat := [58, 60, 62, 64, 57, 59, 61, 63].flatMap (fun x => (List.range 8).map (fun j => x - 8 * j))
def desFp : List Nat := (List.range 64).map (fun i => desIp.findIdx (· == i + 1) + 1)
/-- Six bits for each four: the four with their neighbours. -/
def desE : List Nat := (List.range 8).flatMap (fun i => (List.range 6).map (fun j => (4 * i + j + 31) % 32 + 1))
def desP : List Nat := [16, 7, 20, 21, 29, 12, 28, 17, 1, 15, 23, 26, 5, 18, 31, 10] ++
  [2, 8, 24, 14, 32, 27, 3, 9, 19, 13, 30, 6, 22, 11, 4, 25]
/-- Key bits: columns 57, 58, 59 and half of 60 up; 63, 62, 61 and the rest of 60. -/
def desPc1 : List Nat :=
  let up (x n : Nat) : List Nat := (List.range n).map (fun j => x - 8 * j)
  up 57 8 ++ up 58 8 ++ up 59 8 ++ up 60 4 ++ up 63 8 ++ up 62 8 ++ up 61 8 ++ up 28 4
def desPc2 : List Nat := [14, 17, 11, 24, 1, 5, 3, 28, 15, 6, 21, 10, 23, 19, 12, 4, 26, 8, 16, 7, 27, 20, 13, 2] ++
  [41, 52, 31, 37, 47, 55, 30, 40, 51, 45, 33, 48, 44, 49, 39, 56, 34, 53, 46, 42, 50, 36, 29, 32]

/-- The eight substitution boxes: row by row, one hexadecimal digit an entry, the first digit first. -/
def desBoxes : List Nat :=
  [0xE4D12FB83A6C59070F74E2D1A6CB953841E8D62BFC973A50FC8249175B3EA06D,
   0xF18E6B34972DC05A3D47F28EC01A69B50E7BA4D158C6932FD8A13F42B67C05E9,
   0xA09E63F51DC7B428D709346A285ECBF1D6498F30B12C5AE71AD069874FE3B52C,
   0x7DE3069A1285BC4FD8B56F03472C1AE9A690CB7DF13E52843F06A1D8945BC72E,
   0x2C417AB6853FD0E9EB2C47D150FA3986421BAD78F9C5630EB8C71E2D6F09A453,
   0xC1AF92680D34E75BAF427C9561DE0B389EF528C3704A1DB6432C95FABE17608D,
   0x4B2EF08D3C975A61D0B7491AE35C2F8614BDC37EAF6805926BD814A7950FE23C,
   0xD2846FB1A93E50C71FD8A374C56B0E927B419CE206ADF35821E74A8DFC90356B]

def desBox (n : Nat) (six : List Bool) : List Bool :=
  let x := numBits six
  let row := x / 32 * 2 + x % 2
  let v := desBoxes.getD n 0 / 16 ^ (63 - (16 * row + x / 2 % 16)) % 16
  (List.range 4).map (fun i => bit v (3 - i))

/-- The 16 round keys. -/
def desKeys (key : Bytes) : List (List Bool) :=
  let cd := permute desPc1 (bitsBe key)
  (((List.range 16).foldl (fun (acc : Nat × List (List Bool)) i =>
    let n := acc.1 + (if i = 0 ∨ i = 1 ∨ i = 8 ∨ i = 15 then 1 else 2)
    let turn (h : List Bool) : List Bool := h.drop (n % 28) ++ h.take (n % 28)
    (n, permute desPc2 (turn (cd.take 28) ++ turn (cd.drop 28)) :: acc.2)) (0, [])).2).reverse

def desRound (lr : List Bool × List Bool) (k : List Bool) : List Bool × List Bool :=
  let x := List.zipWith xor (permute desE lr.2) k
  let f := permute desP ((List.range 8).flatMap (fun n => desBox n ((x.drop (6 * n)).take 6)))
  (lr.2, List.zipWith xor lr.1 f)

def desRun (keys : List (List Bool)) (block : Bytes) : Bytes :=
  let b := permute desIp (bitsBe block)
  let (l, r) := keys.foldl desRound (b.take 32, b.drop 32)
  bytesOfBits (permute desFp (r ++ l))

def desEnc (key block : Bytes) : Bytes := desRun (desKeys key) block
def desDec (key block : Bytes) : Bytes := desRun (desKeys key).reverse block

/-- The three keys of a key of 16 or 24 bytes. -/
def tdesKeys (key : Bytes) : Bytes × Bytes × Bytes :=
  (piece key 0 8, piece key 8 8, if key.length < 24 then piece key 0 8 else piece key 16 8)

def tdesEnc (key block : Bytes) : Bytes :=
  let (a, b, c) := tdesKeys key
  desEnc c (desDec b (desEnc a block))
def tdesDec (key block : Bytes) : Bytes :=
  let (a, b, c) := tdesKeys key
  desDec a (desEnc b (desDec c block))

/-! ### Modes (SP 800-38A) -/

/-- A block cipher under a key: block length, and the two directions. -/
structure Block where
  size : Nat
  enc : Bytes → Bytes
  dec : Bytes → Bytes

def aes (key : Bytes) : Block := { size := 16, enc := aesEnc key, dec := aesDec key }
def tdes (key : Bytes) : Block := { size := 8, enc := tdesEnc key, dec := tdesDec key }

def ecb (f : Bytes → Bytes) (size : Nat) (m : Bytes) : Bytes := (chunks size m).flatMap f

def cbcEnc (b : Block) (iv m : Bytes) : Bytes :=
  (((chunks b.size m).foldl (fun (acc : Bytes × List Bytes) x =>
    let y := b.enc (xorBytes acc.1 x)
    (y, y :: acc.2)) (iv, [])).2).reverse.flatten

def cbcDec (b : Block) (iv m : Bytes) : Bytes :=
  (((chunks b.size m).foldl (fun (acc : Bytes × List Bytes) x =>
    (x, xorBytes acc.1 (b.dec x) :: acc.2)) (iv, [])).2).reverse.flatten

/-- Counter mode over `n` blocks from a counter block; its last `low` bytes count. -/
def ctrStream (b : Block) (low : Nat) (start : Bytes) (n : Nat) : Bytes :=
  let keep := start.take (start.length - low)
  let c := numBe (start.drop (start.length - low))
  (List.range n).flatMap (fun i => b.enc (keep ++ be low (c + i)))

def ctrMode (b : Block) (low : Nat) (start m : Bytes) : Bytes :=
  xorBytes m (ctrStream b low start ((m.length + b.size - 1) / b.size))

/-! ### CMAC (SP 800-38B) and ISO/IEC 9797-1 -/

/-- Doubling of a block in its field. -/
def dbl (x : Bytes) : Bytes :=
  let n := x.length
  let v := 2 * numBe x
  if 256 ^ n ≤ v then be n ((v - 256 ^ n) ^^^ (if n = 16 then 0x87 else 0x1B)) else be n v

def cmac (b : Block) (m : Bytes) : Bytes :=
  let k1 := dbl (b.enc (List.replicate b.size 0))
  let full := if m.length = 0 then 0 else (m.length - 1) / b.size * b.size
  let last := m.drop full
  let fin := if last.length = b.size then xorBytes last k1
    else xorBytes (padTo b.size (last ++ [0x80])) (dbl k1)
  b.enc (xorBytes ((chunks b.size (m.take full)).foldl (fun c x => b.enc (xorBytes c x)) (List.replicate b.size 0)) fin)

/-- Padding methods 1, 2 and 3. -/
def pad9797 (method size : Nat) (m : Bytes) : Bytes :=
  let up (x : Bytes) : Bytes := padTo ((x.length + size - 1) / size * size) x
  if method = 2 then up (m ++ [0x80])
  else
    let z := if m = [] then List.replicate size 0 else up m
    if method = 3 then be size (8 * m.length) ++ z else z

def cbcMac (enc : Bytes → Bytes) (size : Nat) (m : Bytes) : Bytes :=
  (chunks size m).foldl (fun c x => enc (xorBytes c x)) (List.replicate size 0)

/-- MAC algorithm 1 with TDES. -/
def mac1 (key m : Bytes) (method : Nat) : Bytes := cbcMac (tdesEnc key) 8 (pad9797 method 8 m)

/-- MAC algorithm 3: single DES through the message, TDES at its end. -/
def mac3 (key m : Bytes) (method : Nat) : Bytes :=
  let (a, b, c) := tdesKeys key
  desEnc c (desDec b (cbcMac (desEnc a) 8 (pad9797 method 8 m)))

/-! ### GCM (SP 800-38D) -/

/-- Product in the field of 2^128 elements; the first bit of a block is the coefficient of x^0. -/
def ghashMul (x y : BitVec 128) : BitVec 128 :=
  ((List.range 128).foldl (fun (acc : BitVec 128 × BitVec 128) i =>
    (if x.getLsbD (127 - i) then acc.1 ^^^ acc.2 else acc.1,
     (acc.2 >>> 1) ^^^ (if acc.2.getLsbD 0 then 0xE1#128 <<< 120 else 0))) (0, y)).1

def ghash (h : BitVec 128) (m : Bytes) : BitVec 128 :=
  (chunks 16 m).foldl (fun y x => ghashMul (y ^^^ BitVec.ofNat 128 (numBe (padTo 16 x))) h) 0

def pad16 (m : Bytes) : Bytes := padTo ((m.length + 15) / 16 * 16) m

/-- The first counter block of an IV. -/
def gcmStart (key iv : Bytes) : Bytes :=
  if iv.length = 12 then iv ++ [0, 0, 0, 1]
  else be 16 (ghash (BitVec.ofNat 128 (numBe (aesEnc key (List.replicate 16 0)))) (pad16 iv ++ be 16 (8 * iv.length))).toNat

/-- The encryption or decryption of GCM: the two are one map. -/
def gcmCrypt (key iv m : Bytes) : Bytes :=
  let j := gcmStart key iv
  ctrMode (aes key) 4 (j.take 12 ++ be 4 (numBe (j.drop 12) + 1)) m

def gcmTag (key iv aad ct : Bytes) (n : Nat) : Bytes :=
  let h := BitVec.ofNat 128 (numBe (aesEnc key (List.replicate 16 0)))
  let s := ghash h (pad16 aad ++ pad16 ct ++ be 8 (8 * aad.length) ++ be 8 (8 * ct.length))
  (xorBytes (be 16 s.toNat) (aesEnc key (gcmStart key iv))).take n

/-! ### XTS (SP 800-38E) -/

/-- The tweak of the next block: doubling, little-endian. -/
def xtsNext (t : Bytes) : Bytes :=
  let v := 2 * num t
  if 256 ^ 16 ≤ v then le 16 ((v - 256 ^ 16) ^^^ 0x87) else le 16 v

def xtsBlock (f : Bytes → Bytes) (t x : Bytes) : Bytes := xorBytes (f (xorBytes x t)) t

/-- Tweaks of `n` blocks, in order. -/
def xtsTweaks : Nat → Bytes → List Bytes
  | 0, _ => []
  | n + 1, t => t :: xtsTweaks n (xtsNext t)

/-- One data unit of at least 16 bytes under a pair of keys, with ciphertext stealing. -/
def xts (key tweak m : Bytes) (decrypt : Bool) : Bytes :=
  let h := key.length / 2
  let f := if decrypt then aesDec (key.take h) else aesEnc (key.take h)
  let n := m.length / 16
  let r := m.length % 16
  let ts := xtsTweaks (n + 1) (aesEnc (key.drop h) tweak)
  let whole := if r = 0 then n else n - 1
  let head := (List.zipWith (xtsBlock f) (ts.take whole) (chunks 16 (m.take (16 * whole)))).flatten
  if r = 0 then head
  else
    let t1 := ts.getD (if decrypt then n else n - 1) []
    let t2 := ts.getD (if decrypt then n - 1 else n) []
    let c := xtsBlock f t1 (piece m (16 * whole) 16)
    head ++ xtsBlock f t2 (m.drop (16 * n) ++ c.drop r) ++ c.take r

/-! ### FF1 (SP 800-38G) -/

/-- The number that numerals spell, most significant first, and back. -/
def numeralsNum (radix : Nat) (x : List Nat) : Nat := x.foldl (fun n d => n * radix + d) 0
def numeralsOf (radix : Nat) : Nat → Nat → List Nat
  | 0, _ => []
  | n + 1, v => numeralsOf radix n (v / radix) ++ [v % radix]

/-- Bits that a number takes. -/
def bitWidth (n : Nat) : Nat := if n = 0 then 0 else Nat.log2 n + 1

/-- The round value y of one Feistel round. -/
def ff1Round (key tweak : Bytes) (radix n i : Nat) (b : List Nat) : Nat :=
  let u := n / 2
  let v := n - u
  let bl := (bitWidth (radix ^ v - 1) + 7) / 8
  let d := 4 * ((bl + 3) / 4) + 4
  let p : Bytes := [1, 2, 1] ++ be 3 radix ++ [10] ++ be 1 (u % 256) ++ be 4 n ++ be 4 tweak.length
  let q := tweak ++ List.replicate ((16 - (tweak.length + bl + 1) % 16) % 16) 0 ++ be 1 i ++ be bl (numeralsNum radix b)
  let r := cbcMac (aesEnc key) 16 (p ++ q)
  let s := r ++ (List.range ((d + 15) / 16 - 1)).flatMap (fun j => aesEnc key (xorBytes r (be 16 (j + 1))))
  numBe (s.take d)

/-- FF1 over numerals below the radix. -/
def ff1 (key tweak : Bytes) (radix : Nat) (decrypt : Bool) (x : List Nat) : List Nat :=
  let n := x.length
  let u := n / 2
  let len (i : Nat) : Nat := if i % 2 = 0 then u else n - u
  if decrypt then
    let (a, b) := (List.range 10).foldl (fun (ab : List Nat × List Nat) k =>
      let i := 9 - k
      let m := radix ^ len i
      let y := ff1Round key tweak radix n i ab.1 % m
      (numeralsOf radix (len i) ((numeralsNum radix ab.2 + m - y) % m), ab.1)) (x.take u, x.drop u)
    a ++ b
  else
    let (a, b) := (List.range 10).foldl (fun (ab : List Nat × List Nat) i =>
      let m := radix ^ len i
      let y := ff1Round key tweak radix n i ab.2
      (ab.2, numeralsOf radix (len i) ((numeralsNum radix ab.1 + y) % m))) (x.take u, x.drop u)
    a ++ b

/-! ### Check values -/

/-- The first bytes of the cipher on a block of zeros, or of its CMAC for AES (09 R259). -/
def cipherOf (tdesKey : Bool) (key : Bytes) : Block := if tdesKey then tdes key else aes key

end Sys2Proof.Machine
end

