-- ==== Sys2Proof/Machine/Control.lean ====
section
/-! DEFINITION. What the trunk does from several causes: the answer to a command (04 R102, 03 R70, R94), measurement
(13 R353 to R355), the tag's page (17 R447, R449), Seed's return to NORMAL (10 R280), the end of a session (04 R108), the
loss of the twin link (16 R414, R421, R422), zeroisation and lockout (09 R263, R264), and the alarm group (14 R368). -/

namespace Sys2Proof.Machine

/-! ### Answers -/

/-- The 256 bytes of a response (04 R102): results only with a class 0x00 status. -/
def responseBytes (code : Nat) (st : Status) (results : Bytes) : Bytes :=
  if st.cls = 0 then padTo 256 (le 2 code ++ le 2 st.code ++ le 2 (8 + results.length) ++ le 2 0 ++ results)
  else padTo 256 (le 2 code ++ le 2 st.code ++ le 2 8 ++ le 2 0)

/-- A mailbox message is done (03 R70): LASTST, SEQ and STATE in one write, and the vector's pending count. -/
def State.mailboxDone (s : State) (f m : Nat) (st : Status) (dmaErr : Bool) : State :=
  let x := (s.fn f).mailbox m
  let s := s.modFn f (fun y => y.setMailbox m { x with
    state := .done, seq := x.seq + 1, lastSt := BitVec.ofNat 16 st.code, dmaErr := x.dmaErr || dmaErr })
  if x.ie then s.vecAdd f x.vec.toNat false else s

/-- An administrative completion: no receipt, no job (03 R93, R94). -/
def State.adminDone (s : State) (f tag : Nat) (st : Status) (outLen : Nat) : State :=
  s.admPost f {
    tag, status := st, sq := 0, tick := s.nextTick, cell := 0xFF, slices := 0, outLen,
    epoch := s.trunk.epoch.toNat, receipt := 0 }

/-- The session that a request names, when its handle is not 0 (R106). -/
def State.sessionOf (s : State) (r : Req) : Option Session :=
  match s.session? r.session.toNat with
  | some x => if x.fn = r.fn.toNat then some x else none
  | none => none

/-- The end of a command counts for its session (R108). -/
def State.touchSession (s : State) (r : Req) : State :=
  match s.sessionOf r with
  | some x => s.setSession r.session.toNat { x with lastAt := s.clock.cd18 }
  | none => s

/-- Write the response of a command and report it (03 R70, R94, 04 R102); none for a function that was reset meanwhile (R99). -/
def State.respond (s : State) (r : Req) (code : Nat) (st : Status) (results : Bytes) : State :=
  let f := r.fn.toNat
  if r.io.during = .gone then s else
  match r.via with
  | .mailbox m =>
    let x := (s.fn f).mailbox m.toNat
    if r.io.responseOk then
      (s.emit (.hostWrite f x.rsp.toNat (responseBytes code st results))).mailboxDone f m.toNat st false
    else s.mailboxDone f m.toNat st true
  | .admin tag ptr => (s.emit (.hostWrite f ptr.toNat (responseBytes code st results))).adminDone f tag.toNat st 256

/-- A command of a function that is reset goes on, and has no answer (03 R99). -/
def reqGone (f : Nat) (r : Req) : Req :=
  if r.fn.toNat = f then { r with io := { r.io with during := .gone } } else r

/-- A command ends with its answer. -/
def State.answer (s : State) (r : Req) (code : Nat) (st : Status) (results : Bytes) : State :=
  (s.touchSession r).respond r code st results

/-- Answers whose changes no longer wait for the partner are written (16 R416). -/
def State.releaseReplies (s : State) : State :=
  let ready (x : Reply) : Bool := !s.twin.awaiting.any (fun a => decide (a.1 ≤ x.seq))
  let now := s.twin.replies.filter ready
  ({ s with twin := { s.twin with replies := s.twin.replies.filter (fun x => !ready x) } }).each now
    (fun s x => s.answer x.req x.code x.status x.results)

/-- Answers that wait are written with a status instead (04 R111). -/
def State.endReplies (s : State) (st : Status) : State :=
  ({ s with twin := { s.twin with replies := [] } }).each s.twin.replies (fun s x => s.answer x.req x.code st [])

/-! ### Measurement (13 R353 to R355) -/

/-- MREG_i becomes SHA-384 over MREG_i and the object's digest. -/
def State.extendNow (s : State) (i : Nat) (digest : Bytes) : State :=
  { s with trunk := { s.trunk with mregs := s.trunk.mregs.modify i (fun m => sha384 (m ++ digest)) } }

/-- Extend a register with an object: at once before t7's end, at the next boundary afterwards (R355). -/
def State.extend (s : State) (i : Nat) (object : Bytes) : State :=
  if s.log.reopened then { s with trunk := { s.trunk with extPending := s.trunk.extPending ++ [(i, sha384 object)] } }
  else s.extendNow i (sha384 object)

/-- No extension is left but the one in reserve (R354). -/
def State.extensionsFull (s : State) : Bool := decide (0xFE ≤ s.trunk.epoch.toNat % 256 + s.trunk.extPending.length)

/-- The MREG digest of the quote and the tag (R358). -/
def State.mregDigest (s : State) : Bytes := sha384 s.trunk.mregs.flatten

/-! ### The tag's page (17 R447, R449) -/

/-- The file as the trunk writes it; bytes 128 to 139 are read live (R447). -/
def State.tagFile (s : State) (generation : Nat) : Bytes :=
  let recs := s.log.waiting ++ s.log.held.map (fun p => p.2)
  let heads := (List.range 17).filterMap (fun i => recs.find? (fun r => r.seq + i + 1 == s.log.nextSeq))
  padTo 536 (le 4 0x4B5A5446 ++ le 2 538 ++ le 2 generation ++ le 8 Config.serial.toNat ++ le 1 orderCode ++ le 1 stepping ++
    le 2 s.life.code ++ le 1 s.trunk.rdp.toNat ++ le 1 s.twin.role.code ++ le 1 2 ++ le 1 0 ++ le 4 s.trunk.epoch.toNat ++
    le 4 s.image.fwver.toNat ++ sha384 s.trunk.devidCert ++ s.mregDigest ++ le 12 0 ++ le 6 s.sched.tick ++
    (heads.take 16).flatMap (fun r => (r.bytes false).take 24)) ++ le 2 generation

/-- The trunk writes the shadow page and asks for the swap; during a frame it is refused and made again after it. -/
def State.tagRefresh (s : State) : State :=
  if s.rf.frame then { s with rf := { s.rf with busyErr := true, rewrite := true } }
  else
    let g := (s.rf.generation + 1)
    let page := s.tagFile g.toNat
    { s with rf := { s.rf with shadow := page, page, generation := g, contentLost := false, rewrite := false } }

/-! ### Seed (10) -/

/-- All generators stop and every queue is emptied. -/
def State.seedEmpty (s : State) : State :=
  { s with
    seed := { s.seed with gen := {} }
    groveA := { s.groveA with gen := {} }
    groveB := { s.groveB with gen := {} } }

/-- Every waiting request ends with RANDOM_UNAVAILABLE: the cells', the kernels' and the commands' of the trunk (R269, R278). -/
def State.seedFailAll (s : State) : State :=
  let kernels (g : Bool) : List Nat := ((s.grove g).seedWait1 ++ (s.grove g).seedWait2).filterMap (fun r => r.job)
  let failed (g : Bool) (s : State) : State := s.each (kernels g) (fun s j => s.modCopy j g (fun k => { k with drawFailed := true }))
  let waits := s.trunk.held.filter (fun w => w.why == HeldFor.seed)
  let s := failed true (failed false { s with
    cells := tblMap (fun _ c => if c.seed.state = .waiting then
      { c with seed := { c.seed with state := .failed, code := 0x0704 } } else c) s.cells })
  ({ s with
    groveA := { s.groveA with seedWait1 := [], seedWait2 := [] }
    groveB := { s.groveB with seedWait1 := [], seedWait2 := [] }
    trunk := { s.trunk with held := s.trunk.held.filter (fun w => w.why != HeldFor.seed) } }).each waits
    (fun s w => s.answer w.req w.code .randomUnavailable [])

/-- The source starts: four passing blocks are needed before any generator runs (R270). -/
def State.seedStart (s : State) : State :=
  { s with seed := { s.seed with source := true, restarting := false, starting := true, startPassed := 0, run := 0 } }

/-- Seed returns to NORMAL (R280) and MREG5 is extended (13 R353). -/
def State.seedNormal (s : State) : State :=
  if s.seed.mode = .normal then s
  else
    let s := { s with seed := { s.seed with mode := .normal, session := none, patternSeed := [] } }
    (s.seedEmpty.seedStart).extend 5 [0]

/-! ### Sessions (04 R108) -/

/-- A session ends: its pending master keys return to empty (09 R260), a Seed test mode it set ends (10 R280). -/
def State.endSession (s : State) (h : Nat) : State :=
  let s := s.delSession h
  let left (m : Master) : Master :=
    if m.session.toNat = h then
      let m := if m.st = .pending then { m with st := .empty, key := [], poly := [], written := 0 } else m
      { m with shares := [], session := 0 }
    else m
  let s := { s with heart := { s.heart with masters := tblMap (fun _ m => left m) s.heart.masters } }
  match s.seed.session with
  | some x => if x.toNat = h then s.seedNormal else s
  | none => s

def State.endSessions (s : State) (which : Session → Bool) : State :=
  s.each ((s.sessions.filter (fun p => which p.2)).map (fun p => p.1)) (fun s h => s.endSession h)

/-! ### The twin link's loss (16) -/

/-- The block size b of a key (09 R250). -/
def Slot.block (x : Slot) : Nat := if x.tk48 then max 1 (min (2 ^ 16) (x.limit / 256)) else 2 ^ 24

/-- R421: what a module may charge of a TK-48 key after a split. -/
def splitRange (primary : Bool) (r : Range) (x : Slot) : Range :=
  let a := if primary then r.alloc else r.alloc + x.block
  let m := a + (x.limit - a) / 2
  if primary then { r with alloc := m, nextFirst := a + 1, nextTop := m, pending := false }
  else { r with alloc := x.limit, nextFirst := m + 1, nextTop := x.limit, pending := false }

/-- Slots that hold a TK-48 key. -/
def State.tkSlots (s : State) : List Nat :=
  (s.heart.slots.filter (fun p => p.2.occupied && !p.2.isExt && p.2.tk48)).map (fun p => p.1)

/-- Bytes 0 to 15 of a frame, in the clear (R407). -/
def frameHead (kind len counter session : Nat) : Bytes :=
  le 1 kind ++ le 1 (b2n (kind != 1)) ++ le 2 len ++ le 8 counter ++ le 4 session

/-- A payload as it travels: of a HELLO in the clear, of any other frame AES-256-GCM ciphertext and tag under the key of its direction,
or the heartbeat key (R407, R411). -/
def Twin.sealed (t : Twin) (kind counter : Nat) (payload : Bytes) : Bytes :=
  if kind = 1 then payload
  else
    let key := piece t.keys (if kind = 4 then 64 else 32 * b2n t.identity) 32
    let iv := be 4 (b2n t.identity + b2n (kind == 4) * 2 ^ 31) ++ be 8 counter
    let ct := gcmCrypt key iv payload
    ct ++ gcmTag key iv (frameHead kind payload.length counter t.session.toNat) ct 16

/-- Send a frame under the counters of the session (R407); heartbeats have their own. -/
def State.twinSend (s : State) (kind : Nat) (payload : Bytes) : State :=
  if kind = 4 then
    let s := { s with twin := { s.twin with hbSent := s.twin.hbSent + 1 } }
    s.emit (.twinFrame kind s.twin.session.toNat s.twin.hbSent (s.twin.sealed kind s.twin.hbSent payload))
  else
    let s := { s with twin := { s.twin with sent := s.twin.sent + 1 } }
    s.emit (.twinFrame kind s.twin.session.toNat s.twin.sent (s.twin.sealed kind s.twin.sent payload))

/-- The fields of a handle (09 R234). -/
def handlePart (h : Handle) : Nat := bits h.toNat 31 26
def handleSlot (h : Handle) : Nat := bits h.toNat 25 9
def handleGen (h : Handle) : Nat := bits h.toNat 8 0
/-- The handle of a partition, slot field and generation. -/
def mkHandle (p n g : Nat) : Handle := BitVec.ofNat 32 (p * 2 ^ 26 + n * 2 ^ 9 + g)

/-- The number under which a change is kept: a cache slot's, 0x2_0000 + a master slot's, 0x2_0400 + the partition of a mark. -/
def Change1.slotNo : Change1 → Nat
  | .slot n _ => n
  | .emptied n _ _ => n
  | .master n _ => 0x20000 + n
  | .ceiling n _ => n
  | .mark p => 0x20400 + p
  | .snapStart => 0x20440
  | .snapEnd => 0x20440

/-- A change that is kept under a replication sequence. -/
def Change1.kept (c : Change1) (seq : Nat) : Kept :=
  match c with
  | .slot n x => { seq, no := n, handle := (mkHandle x.partition n x.gen).toNat, change := 1 }
  | .emptied n g p => { seq, no := n, handle := (mkHandle p n g).toNat, change := 2 }
  | .master n _ => { seq, no := c.slotNo, handle := 0xFFFFFFF8 + n % 8, change := 3 }
  | c => { seq, no := c.slotNo, handle := 0, change := 0 }

/-- Sequence and chain of the journal's last entry, or the anchor's. -/
def Heart.tip (h : Heart) : Nat × Bytes :=
  match h.journal.getLast? with
  | some e => (e.seq, e.chain)
  | none => (h.bbkr.seq, h.bbkr.chain)

/-- The anchor moves to the last entry (R254 step 2). An erased BBKR stays erased (R264). -/
def Heart.anchor (h : Heart) : Heart :=
  if h.bbkr.image = [] then h else { h with bbkr := { h.bbkr with seq := h.tip.1, chain := h.tip.2 } }

/-- Held ceilings go stale at a split (R418). -/
def Twin.staleAll (t : Twin) : Twin := { t with ceilings := tblMap (fun _ c => (c.1, true)) t.ceilings }

/-- A change that the partner has not acknowledged stays unreplicated: record bit [11] (R416). -/
def State.keepUnreplicated (s : State) : State :=
  let left := s.twin.awaiting.map (fun a => a.2.kept a.1)
  let s := { s with twin := { s.twin with awaiting := [], unreplicated := s.twin.unreplicated ++ left } }
  s.each left (fun s a =>
    if (s.slot a.no).occupied then s.modSlot a.no (fun x => { x with unreplicated := true }) else s)

/-- The primary side of a session, or of a split. -/
def Twin.leads (t : Twin) : Bool := t.role == .primary || t.role == .splitPrimary

/-- What a split does to counters and changes: each module takes its half (R421), and the primary keeps what the partner has
not acknowledged as unreplicated (R416). -/
def State.twinHalves (s : State) : State :=
  let ranges := (s.tkSlots).foldl
    (fun t n => tblSet t n (splitRange s.twin.leads ((tblGet t n).getD {}) (s.slot n))) s.twin.ranges
  let s := if s.twin.leads then s.keepUnreplicated else s
  { s with twin := { s.twin with ranges } }

/-- The module declares the link lost (R414): a split of roles and counters when a session stood (R421, R422). -/
def State.twinLoss (s : State) (reason : Nat) : State :=
  if s.twin.step = .session then
    let prim := s.twin.leads
    let s := s.twinHalves
    let s := { s with twin := { s.twin.staleAll with
      step := .down, role := if prim then .splitPrimary else .splitSecondary, lossReason := reason
      lossAt := s.clock.cd18, lossTick := s.sched.tick, leaseEnded := !prim, promoted := false
      rekeyPending := false, rekeyWaits := false, rekeyIn := none, awaiting := [], unacked := [], syncing := false } }
    let s := { s with heart := s.heart.anchor }.releaseReplies
    s.notify 0x0301 0xFF (le 1 s.twin.role.code ++ le 1 reason ++ le 2 0 ++ le 4 s.twin.epoch.toNat ++ le 6 s.twin.frameTick)
  else { s with twin := { s.twin with step := .down } }

/-! ### Zeroisation (09 R263, R264) -/

/-- The highest generation that a slot has issued. -/
def Slot.highest (x : Slot) : Nat := max x.gen x.top

/-- An empty slot: the generation of its last key, and the highest one issued. -/
def Slot.cleared (x : Slot) : Slot := { gen := x.gen, top := x.highest, closed := x.closed }

/-- A slot's generation survives the deletion of its key, a zeroisation and every reset (R235, log entry 24). -/
def keepGenerations (t : Tbl Slot) : Tbl Slot := (t.filter (fun p => p.2.highest != 0)).map (fun p => (p.1, p.2.cleared))

/-- Heartwood's keys, windows, halves, prime pool and BBKR are gone; the journal's erase begins. Repeating it changes nothing
that is in progress. -/
def State.zeroise (s : State) : State :=
  let s := s.haltPipelines
  let runs (x : Job) : Bool := ([x.copyA, x.copyB].filterMap id).any (fun k => k.place == .running)
  { s with
    jobs := tblMap (fun _ x => if runs x && x.mark != some .expired then { x with mark := some .haltedByAlarm } else x) s.jobs
    heart := { s.heart with
      slots := keepGenerations s.heart.slots, masters := tblMap (fun _ m => { gen := m.gen }) s.heart.masters, rewrap := [], primes := []
      bbkr := {}, erasing := true, zeroising := true, reopens := true, serving := false }
    cells := tblMap (fun c x => if (s.grove (groveOf c)).powered then { x with halfS := {}, halfL := {} } else x) s.cells
    trunk := { s.trunk with attestCert := [] }
    twin := { s.twin with ranges := [], ceilings := [], ceilAcked := [], unreplicated := [], awaiting := []
                          unacked := [] } }

/-! ### The bark (14) -/

/-- A source of R362: default class, floors of F T B O M V X, or a class fixed in every state. -/
structure SourceRow where
  default : Cls
  floors : List Cls
  fixed : Option Cls
  deriving DecidableEq, Repr

/-- The table of R362. -/
def sourceRow (src : Nat) : SourceRow :=
  let ntf5 : List Cls := [.log, .notify, .notify, .notify, .log, .notify, .log]
  let zer : List Cls := [.log, .zeroize, .zeroize, .zeroize, .zeroize, .zeroize, .log]
  let hlt : List Cls := [.log, .notify, .halt, .halt, .halt, .halt, .log]
  let all : List Cls := [.log, .notify, .notify, .notify, .notify, .notify, .log]
  let zer2 : List Cls := [.log, .notify, .zeroize, .zeroize, .zeroize, .zeroize, .log]
  if src < 8 then ⟨.zeroize, ntf5, none⟩
  else if src < 12 then ⟨.notify, ntf5, none⟩
  else if src < 15 then ⟨.zeroize, zer, none⟩
  else match src with
    | 15 => ⟨.halt, all, none⟩
    | 16 => ⟨.zeroize, hlt, none⟩
    | 17 => ⟨.halt, [.halt, .notify, .notify, .halt, .halt, .notify, .log], none⟩
    | 18 => ⟨.zeroize, zer2, none⟩
    | 19 => ⟨.halt, hlt, none⟩
    | 20 => ⟨.zeroize, zer2, none⟩
    | 21 => ⟨.zeroize, hlt, none⟩
    | 22 => ⟨.zeroize, zer2, none⟩
    | 24 => ⟨.halt, [], some .halt⟩
    | 25 => ⟨.notify, all, none⟩
    | _ => ⟨.notify, [], some .notify⟩

/-- Column of a life-cycle state in R362. -/
def Life.column : Life → Nat
  | .factory => 0
  | .transit => 1
  | .blank => 2
  | .operational => 3
  | .maintenance => 4
  | .recovery => 5
  | .retired => 6

/-- The configured class for a source and one of BLANK, OPERATIONAL, MAINTENANCE, RECOVERY (columns 2 to 5). -/
def Bark.configured (b : Bark) (src col : Nat) : Cls := (tblGet b.cls (src * 4 + (col - 2))).getD (sourceRow src).default

/-- The class in force for a source in a life-cycle state (R362). -/
def Bark.inForce (b : Bark) (src : Nat) (l : Life) : Cls :=
  let r := sourceRow src
  match r.fixed with
  | some c => c
  | none =>
    let floor := r.floors.getD l.column .log
    if 2 ≤ l.column ∧ l.column ≤ 5 then floor.max (b.configured src l.column) else floor

/-- The state whose column ALCS selects (R367). -/
def Bark.column (b : Bark) : Life := (Life.ofCode b.alcs.toNat).getD .operational

/-- Mode of a loop or switch in LMODE (R367). -/
def Bark.mode (b : Bark) (src : Nat) : Nat :=
  if src < 8 then bits b.lmodeLoop.toNat (2 * src + 1) (2 * src) else b2n (bit b.lmodeCsw.toNat (src - 8))

/-- A source that can alarm: loops and switches only while enabled (R362); the old detector of a loop stays active while the
new one runs its 16 comparisons (R364). -/
def Bark.enabled (b : Bark) (src : Nat) : Bool :=
  if src < 12 then b.mode src != 0 || ((tblGet b.moving src).getD 0 != 0) else decide (src < 28)

/-- The strongest class in force, for flag [1] of R375: a standing TSTKY bit holds its own class in force (R368, R369; log
entry 29). -/
def State.classNow (s : State) : Option Cls :=
  let own := (List.range 28).filter (fun i => bit s.bark.tstky.toNat i)
  if s.lockout then some .lockout
  else if s.heart.zeroising then some .zeroize
  else match own with
    | [] => none
    | _ =>
      let c := own.foldl (fun c i => c.max (s.bark.inForce i s.bark.column)) .log
      some (if s.halted then c.max .halt else if s.alert then c.max .notify else c)

/-- The payload of a bark entry (R375). Its tick is 0 when the trunk was not running: before the ring log reopens, after it stops,
and in DORMANT, where it is clock-gated (18 R457). -/
def barkPayload (s : State) (src executed own flags stamp tick a b : Nat) : Bytes :=
  le 1 src ++ le 1 executed ++ le 1 own ++ le 1 flags ++ le 4 stamp ++ le 6 tick ++ le 2 0 ++ le 4 s.bark.tstky.toNat ++
    le 4 a ++ le 4 b

/-- Set bit `i` of a 32-bit register. -/
def setBit (w : BitVec 32) (i : Nat) : BitVec 32 := w ||| BitVec.ofNat 32 (2 ^ i)
/-- Clear bit `i`. -/
def clearBit (w : BitVec 32) (i : Nat) : BitVec 32 := w &&& ~~~(BitVec.ofNat 32 (2 ^ i))

/-- A member of the group: its bit, stamp, disarming and halt or ALERT# bits (R361, R367, R368, R370). -/
def Bark.mark (b : Bark) (src bsec : Nat) (own executed : Cls) (logged : Bool) (flags a d : Nat) : Bark :=
  { b with
    tstky := setBit b.tstky src
    thalt := if 2 ≤ own.code then setBit b.thalt src else b.thalt
    tntf := if 1 ≤ own.code then setBit b.tntf src else b.tntf
    tnew := if logged then b.tnew else setBit b.tnew src
    tarm := clearBit b.tarm src
    tstamp := tblSet b.tstamp src (BitVec.ofNat 32 bsec)
    executed := tblSet b.executed src executed
    fresh := if logged then b.fresh else tblSet b.fresh src (executed.code, flags, a, d) }

/-- The trunk can log: the ring log has reopened and the hold-up's writing has not ended. -/
def State.trunkLogs (s : State) : Bool := s.log.reopened && s.trunk.powerGood && !s.trunk.shutdown

/-- Commands in execution over several steps end with a status (04 R111). -/
def State.endCommands (s : State) (st : Status) : State :=
  let reqs := s.inExecution
  ({ s with
    trunk := { s.trunk with restores := [], held := [], change := s.trunk.change.filter (fun c => c.waits.isNone) }
    twin := { s.twin with unpairing := none, replies := [] } }).each reqs (fun s r => s.answer r.2 r.1 st [])

/-- Lockout (R361, R369): the mark, in TLKO and in bank 0's record; the twin hears CLOSE with reason 2. A life-cycle change whose code is not written yet is abandoned (13 R360). -/
def State.lockOut (s : State) : State :=
  let s := { s with
    bark := { s.bark with lko := true, lkoRecord := s.bark.lkoRecord || (s.trunkLogs && !s.flash.xip) }
    trunk := { s.trunk with change := none } }
  if s.twin.step = .session then (s.twinSend 0x0B [2]).twinLoss 2 else s

/-- The effects of a class beyond its marks (R361): each class also has the effects of the classes below it. A zeroisation
ends every session, LOCK is engaged again (19 R475); commands in execution end before (04 R111). -/
def State.execute (s : State) (c : Cls) : State :=
  let s := if c = .zeroize then s.endReplies .haltedByAlarm else s
  let s := if c = .lockout then s.endCommands .stateRefused else s
  let s := if 3 ≤ c.code then
      let s := s.zeroise.endSessions (fun _ => true)
      { s with elec := { s.elec with lockUntil := none } }
    else s
  let s := if 4 ≤ c.code then s.lockOut else s
  if 1 ≤ c.code && s.dormant then { s with trunk := { s.trunk with waking := true } } else s

/-- Sources that become active in one CD17 cycle (R368, R370). A disarmed source only counts its activation. -/
def State.alarmGroup (s : State) (alarms : List Alarm) : State :=
  let live := alarms.filter (fun a => s.bark.enabled a.source)
  let s := s.each live (fun s a => { s with bark := { s.bark with tact := setBit s.bark.tact a.source } })
  let group := live.filter (fun a => bit s.bark.tarm.toNat a.source)
  let dis := live.filter (fun a => !bit s.bark.tarm.toNat a.source)
  let s := s.each dis (fun s a =>
    let n := (tblGet s.bark.tcount a.source).getD 0
    { s with bark := { s.bark with tcount := tblSet s.bark.tcount a.source (if n = 0xFFFF then n else n + 1) } })
  if group = [] then s
  else
    let col := s.bark.column
    let cls := group.foldl (fun c a => c.max (s.bark.inForce a.source col)) .log
    let logged := s.trunkLogs
    let flags := b2n (!s.trunk.powerGood || s.trunk.shutdown) + 2 * b2n (s.classNow.any (fun c => decide (cls.code ≤ c.code))) + 4 * b2n (decide (1 < group.length))
    let s := s.each group (fun s a =>
      { s with
        trunk := { s.trunk with tstkySinceTransit := true }
        bark := s.bark.mark a.source s.bsec (s.bark.inForce a.source col) cls logged flags a.detailA.toNat
          a.detailB.toNat })
    let tick := if s.dormant then 0 else s.sched.tick
    let s := s.execute cls
    if logged then
      s.each group (fun s a =>
        let p := barkPayload s a.source cls.code (s.bark.inForce a.source col).code flags s.bsec tick
          a.detailA.toNat a.detailB.toNat
        let s := s.logEvent (0x0100 + a.source) a.source cls.code 0xFF p
        if 1 ≤ cls.code then s.alarmPost (0x0100 + a.source) p else s)
    else s

/-- One source alarms alone. -/
def State.alarm (s : State) (src : Nat) : State := s.alarmGroup [{ source := src, detailA := 0, detailB := 0 }]

/-! ### The fatal Seed alarm (10 R269) -/

/-- Generators stop, queues empty, waiting requests fail, SEEDFAIL is set, and source 23 alarms. -/
def State.seedFatal (s : State) : State :=
  let s := s.seedEmpty.seedFailAll
  let s := { s with seed := { s.seed with fail := true, starting := false } }
  s.alarm 23

end Sys2Proof.Machine
end

