-- ==== Sys2Proof/Machine/Operands.lean ====
section
/-! DEFINITION. The leaf processor's operands: general registers (11 R283), the status and progress words (R285, R286),
immediates (R292, R296), permitted repetition targets (R300), and exception entry, escalation and lockup (12 R319 to R325). -/

namespace Sys2Proof.Machine

/-! ### General registers (R283) -/

/-- g0 reads as zero. -/
def Core.reg (k : Core) (i : BitVec 5) : Word := if i = 0 then 0 else k.gpr[i.toNat]'i.isLt

/-- Writes to g0 are discarded. -/
def Core.setReg (k : Core) (i : BitVec 5) (v : Word) : Core := if i = 0 then k else { k with gpr := k.gpr.set i.toNat v i.isLt }

/-! ### Status and progress (R285, R286) -/

/-- The 64-bit ST. -/
def Core.status (k : Core) : Word :=
  BitVec.ofNat 64 (b2n k.en + 2 * b2n k.pl + 4 * b2n k.ie + 8 * b2n k.guard + k.prog.toNat * 2 ^ 32)

/-- Load ST from a saved status; reserved bits are not kept. -/
def Core.setStatus (k : Core) (w : Word) : Core :=
  { k with en := w.getLsbD 0, pl := w.getLsbD 1, ie := w.getLsbD 2, guard := w.getLsbD 3, prog := w.extractLsb' 32 32 }

/-- PROG.KIND. -/
def Core.kind (k : Core) : Nat := bits k.prog.toNat 31 30
/-- PROG of a repetition: U and COUNT. -/
def progRepeat (u : Bool) (n : Nat) : BitVec 32 := BitVec.ofNat 32 (2 ^ 30 + b2n u * 2 ^ 29 + n % 2 ^ 16)
/-- PROG of a stopped BNX: bank, microprogram and step. -/
def progBnx (bank : Bool) (mprog step : Nat) : BitVec 32 :=
  BitVec.ofNat 32 (2 ^ 31 + b2n bank * 2 ^ 29 + mprog % 2 ^ 7 * 2 ^ 22 + step % 2 ^ 22)
/-- The repetition in progress is uninterruptible. -/
def Core.rptu (k : Core) : Bool := k.kind == 1 && bit k.prog.toNat 29

/-- An instruction may not run under this PROG: KIND 3; KIND 1 when it is no permitted target; KIND 2 (R286, R301). -/
def Core.progBars (k : Core) (target : Bool) : Bool := k.kind == 3 || k.kind == 2 || (k.kind == 1 && !target)

/-- After an instruction or a repetition: COUNT falls, and the pc moves on when none is left (R299). -/
def Core.next (k : Core) : Core :=
  if k.kind = 1 then
    let n := bits k.prog.toNat 15 0
    if n ≤ 1 then { k with prog := 0, pc := k.pc + 4 } else { k with prog := progRepeat (bit k.prog.toNat 29) (n - 1) }
  else { k with pc := k.pc + 4 }

/-! ### Immediates -/

def sext16 (i : BitVec 16) : Word := i.signExtend 64
def zext16 (i : BitVec 16) : Word := i.setWidth 64

/-! ### Permitted repetition targets (R290, R291, R300) -/

/-- Func values of the register ALU group. -/
def aluFuncs : List Nat := [1, 2, 3, 4, 5, 6, 7, 8, 9, 10, 16, 17, 18, 19, 20, 24, 32]

/-- Special registers that MFS and MTS name (R284). -/
def sprNumbers : List Nat := [0, 1, 2, 3, 4, 5, 6, 7, 8, 9, 16, 17, 18, 19]

/-- A word that RPT and RPTU may repeat: an ALU, immediate, LD, ST, LDU, STU or MFS instruction, legally encoded. -/
def repeatTarget (w : Nat) : Bool :=
  let op := bits w 31 26
  let width := bits w 15 13
  if op = 0 then aluFuncs.contains (bits w 10 0) && (bits w 10 0 != 0x20 || bits w 15 11 == 0)
  else if op = 5 then bits w 15 8 == 0 && bits w 7 6 != 3
  else if op = 6 then bits w 20 16 == 0
  else if op ≤ 8 then true
  else if op = 0x10 then width != 7
  else if op = 0x11 ∨ op = 0x13 then decide (width ≤ 3)
  else if op = 0x12 then width != 7 && bits w 25 21 != bits w 20 16
  else if op = 0x30 then bits w 15 8 == 1 && bits w 20 16 == 0 && sprNumbers.contains (bits w 7 0)
  else false

/-! ### Exceptions (12) -/

/-- Codes of R319. -/
inductive Exc where
  | illegal | privileged | fetch | unmapped | protection | alignment | operand | databus | syscall | yield | budget
  deriving DecidableEq, Repr

def Exc.code : Exc → Nat
  | .illegal => 1
  | .privileged => 2
  | .fetch => 3
  | .unmapped => 4
  | .protection => 5
  | .alignment => 6
  | .operand => 7
  | .databus => 8
  | .syscall => 9
  | .yield => 10
  | .budget => 16

/-- Vectors of R319. -/
def Exc.vector : Exc → Word
  | .budget => 0x400
  | e => BitVec.ofNat 64 (e.code * 0x40)

def guardVector : Word := 0x800

/-- What an exception reports (R322). -/
structure Report where
  exc : Exc
  /-- 0 none, 1 read, 2 write, 3 fetch. -/
  acc : Nat := 0
  split : Bool := false
  imp : Bool := false
  /-- 0 the cell, 1 the access table, 2 the DRAM controller. -/
  chk : Nat := 0
  scnum : Nat := 0
  /-- Bytes performed. -/
  performed : Nat := 0
  faddr : Word := 0
  /-- SAVEPC is the next instruction (SYSCALL, YIELD). -/
  after : Bool := false
  /-- SAVEPC is the RPTU prefix of the target at the pc (R300, R319). -/
  atPrefix : Bool := false
  deriving DecidableEq, Repr

/-- CAUSE as entry writes it (R322). -/
def Report.cause (r : Report) (esc : Bool) : Word :=
  BitVec.ofNat 64 (r.exc.code + b2n (r.exc == .budget) * 2 ^ 5 + r.acc * 2 ^ 6 + b2n r.split * 2 ^ 8 + b2n esc * 2 ^ 9 +
    b2n r.imp * 2 ^ 10 + r.chk * 2 ^ 11 + r.scnum * 2 ^ 16 + r.performed * 2 ^ 32)

/-- R321: entry with EN = 0 and GUARD = 0. -/
def Core.enter (k : Core) (r : Report) : Core :=
  { k with
    savepc := if r.after then k.pc + 4 else if r.atPrefix then k.pc - 4 else k.pc
    savest := k.status
    cause := r.cause false
    faddr := r.faddr
    cycle := k.cycle + 4
    en := true, pl := false, ie := false, prog := 0
    pc := r.exc.vector }

/-- R324: escalation to the guard handler. -/
def Core.escalate (k : Core) (r : Report) : Core :=
  { k with
    gsavepc := if r.atPrefix then k.pc - 4 else k.pc
    gsavest := k.status
    cause := r.cause true
    faddr := r.faddr
    gpr := k.gpr.set 31 k.gstack
    gstack := k.gpr[31]
    cycle := k.cycle + 4
    guard := true, pl := false, ie := false, prog := 0
    pc := guardVector }

/-- R325: an exception in the guard handler locks the cell. -/
def Core.lock (k : Core) : Core := { k with locked := true }

/-- A synchronous exception, or a BUDGET that escalates: entry, escalation or lockup (R321, R324, R325). -/
def Core.take (k : Core) (r : Report) : Core := if k.guard then k.lock else if k.en then k.escalate r else k.enter r

/-- Exceptions whose CAUSE, FADDR and SAVEPC go into a ring-log record (R328). -/
def Exc.recorded : Exc → Bool
  | .syscall => false
  | .yield => false
  | .budget => false
  | _ => true

/-- A cell takes an exception: entry, escalation or lockup, with the records of its handler (12 R328) and of a DRAM integrity failure
(01 R13). A SYSCALL of kernel level is one of the other exceptions of R328. -/
def State.trap (s : State) (c : Nat) (r : Report) : State :=
  let k := s.core c
  let s := s.setCore c (k.take r)
  let p := (s.cell c).jpart
  let s := if r.exc = .databus then s.logEvent 0x0405 c 0 p (le 8 (r.faddr.toNat / 64 * 64)) else s
  if (r.exc.recorded || k.en || (r.exc == .syscall && !k.pl)) && !k.guard && c != trunkCore then
    let k := s.core c
    s.logEvent 0x0404 c 0 p (le 8 k.cause.toNat ++ le 8 k.faddr.toNat ++ le 8 (if k.guard then k.gsavepc else k.savepc).toNat)
  else s

/-! ### Running and retiring -/

/-- The trunk's cores run: from the first step of a start-up on (13 R347). -/
def State.trunkRuns (s : State) : Bool := s.trunk.powerGood && s.trunk.bootCode != 0 && !s.trunk.shutdown

/-- The cell executes: its grove runs, it is not locked, waiting, fenced, clock-gated or failed. -/
def State.runs (s : State) (c : Nat) : Bool :=
  let x := s.cell c
  !x.core.locked && x.core.wait == .none &&
    (if c < trunkCore then s.groveRuns (groveOf c) && [CellSt.idle, .resident, .draining, .selftest].contains x.st
      else c == trunkCore && s.trunkRuns)

/-- An instruction, or one repetition, retires: CYCLE takes its issue cycles and the open stall (11 R312, log entry 11). -/
def State.retire (s : State) (c : Nat) (k : Core) (issue : Nat) : State :=
  (s.setCore c { k with
    cycle := k.cycle + BitVec.ofNat 64 (issue + Config.stallCycles s.free)
    instret := k.instret + 1 }).drawn


end Sys2Proof.Machine
end

