-- ==== Sys2Proof/Machine/Access.lean ====
section
/-! DEFINITION. Who may reach what: KBOUND (11 R287) and the grove's access table (12 R329 to R332), and reads and writes of
bytes by cells and by engines that act for them, burst by burst (12 R332, R335). -/

namespace Sys2Proof.Machine

/-- What an access does: for TAS both read and write permission are needed (R331). -/
inductive Kind where
  | read | write | fetch | tas
  deriving DecidableEq, Repr

/-! ### The access table -/

/-- Whether an entry matches (R329, R331 step 3). `part` is the partition of the access, if it has one. -/
def entryMatches (e : AtEntry) (part : Option Nat) (cid addr : Nat) : Bool :=
  let n := e.toNat
  let size := bits n 29 24
  let base := bits n 62 32 * 512
  let sub := (addr - base) * 8 / 2 ^ size
  bit n 0 && decide (9 ≤ size) && decide (size ≤ 34) && base % 2 ^ size == 0 && decide (base ≤ addr) &&
    decide (addr < base + 2 ^ size) && !bit n (16 + sub) && (bit n 1 || part == some (bits n 8 3)) &&
    (!bit n 2 || sub == cid % 8)

/-- The entry's permission bit for a level and kind (R329). -/
def entryGrants (e : AtEntry) (pl : Bool) (kind : Kind) : Bool :=
  let n := e.toNat
  let o := if pl then 12 else 9
  match kind with
  | .read => bit n o
  | .write => bit n (o + 1)
  | .fetch => bit n (o + 2)
  | .tas => bit n o && bit n (o + 1)

/-- The lowest-numbered matching entry decides; no match refuses (R331 steps 4, 5). -/
def tableGrants (t : Tbl AtEntry) (pl : Bool) (part : Option Nat) (cid addr : Nat) (kind : Kind) : Bool :=
  match t.find? (fun p => entryMatches p.2 part cid addr) with
  | some p => entryGrants p.2 pl kind
  | none => false

/-! ### KBOUND (R287) -/

/-- Whether function level may reach an offset of the cell's local memory. -/
def kboundGrants (kb : Word) (off : Nat) (kind : Kind) : Bool :=
  let n := kb.toNat
  if off < 0x8000 then (kind == .read || kind == .fetch) && decide (min (bits n 6 0) 64 * 512 ≤ off)
  else if off < 0x20000 then kind != .fetch && decide (0x10000 + min (bits n 15 8) 128 * 512 ≤ off)
  else if off < bankS then kind != .fetch && bit n 17
  else kind != .fetch && bit n 16

/-! ### Checks -/

/-- As whom an access is made: the level and the partition with which the table matches it, and whether function level's
context is valid (R331 steps 1, 2, R332). -/
structure Who where
  pl : Bool
  part : Option Nat
  valid : Bool
  /-- Of an engine's stream: the tables that its earlier bursts were judged by, and the place of this burst (R333). -/
  seen : Verdicts := []
  place : Nat := 0
  deriving DecidableEq, Repr

/-- The table that judges a burst: the one in force when it was issued (R333, R337). -/
def Who.table (w : Who) (now : Tbl AtEntry) : Tbl AtEntry :=
  match w.seen.find? (fun p => decide (w.place < p.1)) with
  | some p => p.2
  | none => now

/-- As whom burst `i` of a range is made. -/
def Who.burst (w : Who) (i : Nat) : Who := { w with place := w.place + i }

/-- The cell itself, now. -/
def State.who (s : State) (c : Nat) : Who :=
  let x := s.cell c
  { pl := x.core.pl, part := if x.atValid then some x.atPart else none
    valid := !x.core.pl || (x.atValid && x.atPart == x.jpart) }

/-- The fault of an access at an address, with where it is found (R322, R331): `none` when it is granted. -/
def State.check (s : State) (c : Nat) (w : Who) (addr : Nat) (kind : Kind) : Option (Exc × Nat) :=
  let table : Option (Exc × Nat) :=
    if w.valid && tableGrants (w.table (s.grove (groveOf c)).access) w.pl w.part c addr kind then none else some (.protection, 1)
  match region c addr with
  | .localMem k =>
    if w.pl && c != trunkCore && !kboundGrants (s.core c).kbound (k - cellBase c) kind then some (.protection, 0) else none
  | .control _ => if w.pl then some (.protection, 0) else none
  | .fabric k =>
    match table with
    | some f => some f
    | none => if kind != .write && s.badLine k then some (.databus, 2) else none
  | .periph p _ => if p = 4 && w.pl then some (.protection, 1) else table
  | .tags => some (.unmapped, 0)
  | .none => some (.unmapped, 0)

/-- The memory key of an address that is memory. -/
def memKey (c addr : Nat) : Option Nat :=
  match region c addr with
  | .localMem k => some k
  | .fabric k => some k
  | _ => none

/-- Cut a range into bursts that do not cross a 64-byte boundary: (address, length), lowest first. -/
def bursts : Nat → Nat → Nat → List (Nat × Nat)
  | 0, _, _ => []
  | f + 1, a, n => if n = 0 then [] else
    let m := min n (64 - a % 64)
    (a, m) :: bursts f (a + m) (n - m)

def burstsOf (a n : Nat) : List (Nat × Nat) := bursts (n / 64 + 2) a n

/-- Read a range for an engine, burst by burst; `none` when a burst faults (R332). -/
def State.engineRead (s : State) (c : Nat) (w : Who) (a n : Nat) : Option Bytes :=
  (burstsOf a n).zipIdx.foldl (fun acc (b : (Nat × Nat) × Nat) =>
    match acc, s.check c (w.burst b.2) b.1.1 .read, memKey c b.1.1 with
    | some bs, none, some k => some (bs ++ s.rd k b.1.2)
    | _, _, _ => none) (some [])

/-- The line of the first burst that fails its integrity check, where that is what ends a read (01 R13). -/
def State.badBurst (s : State) (c : Nat) (w : Who) (a n : Nat) : Option Nat :=
  match (burstsOf a n).zipIdx.find? (fun b => (s.check c (w.burst b.2) b.1.1 .read).isSome) with
  | some b =>
    if (s.check c (w.burst b.2) b.1.1 .read).any (fun e => e.1 == .databus) then some (b.1.1 / 64 * 64) else none
  | none => none

/-- The one record of a failed integrity check of a DMA initiator: the line address (01 R13). -/
def State.integrityRecord (s : State) (c : Nat) (line : Option Nat) : State :=
  match line with
  | some a => s.logEvent 0x0405 0xFF 0 (s.cell c).jpart (le 8 a)
  | none => s

/-- Read a range for an engine; a line whose tag fails leaves its record. -/
def State.engineFetch (s : State) (c : Nat) (w : Who) (a n : Nat) : State × Option Bytes :=
  (s.integrityRecord c (s.badBurst c w a n), s.engineRead c w a n)

/-- Write a range for an engine: the bursts before a faulting one are written. Answers whether all were. A burst to a line whose
tag fails is discarded with its record (01 R13, 12 R336). -/
def State.engineWrite (s : State) (c : Nat) (w : Who) (a : Nat) (data : Bytes) : State × Bool :=
  let r := (burstsOf a data.length).zipIdx.foldl (fun (acc : State × Bool × Bytes) b =>
    let (t, ok, rest) := acc
    if !ok then acc
    else match t.check c (w.burst b.2) b.1.1 .write, memKey c b.1.1 with
      | none, some k =>
        if t.badLine k then (t.integrityRecord c (some (k / 64 * 64)), false, rest)
        else (t.put c k (rest.take b.1.2), true, rest.drop b.1.2)
      | _, _ => (t, false, rest)) (s, true, data)
  (r.1, r.2.1)

/-! ### The store buffer (11 R294, 12 R336) -/

/-- The oldest buffered store is performed; into a line whose tag fails it is discarded, to be reported later. A store discarded
while another's report waits leaves its DRAM_INTEGRITY record at once (01 R13). -/
def State.perform (s : State) (c : Nat) : State :=
  match (s.core c).sbuf with
  | [] => s
  | b :: rest =>
    let s := s.modCore c (fun k => { k with sbuf := rest })
    let line := b.key / 64 * 64
    if s.badLine b.key then
      match (s.core c).imprecise with
      | none => s.modCore c (fun k => { k with imprecise := some line })
      | some _ => s.logEvent 0x0405 c 0 (s.cell c).jpart (le 8 line)
    else s.put c b.key b.data

/-- Every buffered store is performed. -/
def State.drain (s : State) (c : Nat) : State := s.each (s.core c).sbuf (fun s _ => s.perform c)

/-- The imprecise report that an instruction waiting for the buffer makes. -/
def impreciseReport (line : Nat) : Report := { exc := .databus, imp := true, chk := 2, faddr := BitVec.ofNat 64 line }

/-- Wait for the buffer: what is left to report, taken off. -/
def State.fenced (s : State) (c : Nat) : State × Option Report :=
  let s := s.drain c
  match (s.core c).imprecise with
  | none => (s, none)
  | some line => (s.modCore c (fun k => { k with imprecise := none }), some (impreciseReport line))

end Sys2Proof.Machine
end

