-- ==== Sys2Proof/Machine/Drbg.lean ====
section
/-! DEFINITION. The AES-256 CTR_DRBG of SP 800-90A with the derivation function (10 R271, 00 R9), and the generators of Seed with
their queues (R271 to R273). -/

namespace Sys2Proof.Machine

/-! ### SP 800-90A, 10.2.1 and 10.3: key 32 bytes, block 16, seed 48 -/

/-- Blocks E(key, v + 1), E(key, v + 2), … of the counter. -/
def drbgBlocks (key v : Bytes) (n : Nat) : Bytes := (List.range n).flatMap (fun i => aesEnc key (be 16 (numBe v + 1 + i)))

/-- CTR_DRBG_Update: the new key and V from 48 bytes of data. -/
def drbgUpdate (key v data : Bytes) : Bytes × Bytes :=
  let t := xorBytes (drbgBlocks key v 3) data
  (t.take 32, t.drop 32)

/-- BCC: the CBC chain from zero over whole blocks. -/
def drbgBcc (key s : Bytes) : Bytes :=
  (List.range (s.length / 16)).foldl (fun c i => aesEnc key (xorBytes c (piece s (16 * i) 16))) (List.replicate 16 0)

/-- Block_Cipher_df of an input to 48 bytes. -/
def drbgDf (input : Bytes) : Bytes :=
  let s := be 4 input.length ++ be 4 48 ++ input ++ [0x80]
  let s := s ++ List.replicate ((16 - s.length % 16) % 16) 0
  let key := (List.range 32).map (BitVec.ofNat 8)
  let t := (List.range 3).flatMap (fun i => drbgBcc key (be 4 i ++ List.replicate 12 0 ++ s))
  let k := t.take 32
  let x1 := aesEnc k (t.drop 32)
  let x2 := aesEnc k x1
  x1 ++ x2 ++ aesEnc k x2

/-! ### Generators -/

/-- A block's bits as bytes, the bit sampled first lowest, as SEED_RAW_READ returns them (R278, log entry 13). -/
def sampledBytes : List Bool → Bytes
  | a :: b :: c :: d :: e :: f :: g :: h :: t =>
    BitVec.ofNat 8 ([a, b, c, d, e, f, g, h].foldr (fun x n => b2n x + 2 * n) 0) :: sampledBytes t
  | _ => []

/-- Where in a block the 128-bit nonce of an instantiation lies: open (R271, log entry 13). -/
def nonceAt : Nat := Config.stdNat .drbg [] % 113

/-- Bytes that a generator makes by one Generate at most: open, within SP 800-90A's 2^16 (log entry 13). -/
def generateMax : Nat := 1 + Config.stdNat .drbg [[0]] % 2 ^ 16

/-- A passing block instantiates a generator, or reseeds one that runs (R271). -/
def Gen.seeded (x : Gen) (block : Bytes) : Gen :=
  let entropy := block.take nonceAt ++ block.drop (nonceAt + 16)
  let kv := if x.running then drbgUpdate x.key x.v (drbgDf block)
    else drbgUpdate (List.replicate 32 0) (List.replicate 16 0) (drbgDf (entropy ++ piece block nonceAt 16))
  { x with running := true, key := kv.1, v := kv.2, made := 0 }

/-- CTR_DRBG_Generate: `n` bytes go to the queue. -/
def Gen.generate (x : Gen) (n : Nat) : Gen :=
  let blocks := (n + 15) / 16
  let kv := drbgUpdate x.key (be 16 (numBe x.v + blocks)) (List.replicate 48 0)
  { x with key := kv.1, v := kv.2, made := x.made + n, queue := x.queue ++ (drbgBlocks x.key x.v blocks).take n }

/-- `n` bytes go to the queue, by as many Generates as they take; the first argument bounds their number. -/
def Gen.make : Nat → Gen → Nat → Gen
  | 0, x, _ => x
  | f + 1, x, n => if n = 0 then x else Gen.make f (x.generate (min n generateMax)) (n - generateMax)

/-- Bytes a generator may make between two reseeds (R271). -/
def reseedLimit : Nat := 16 * 2 ^ 20

/-- Bytes that it may still make. -/
def Gen.room (x : Gen) : Nat := if x.running then reseedLimit - x.made else 0

/-- A queue of `cap` bytes is filled as far as its generator may (R271, R272). -/
def Gen.fill (x : Gen) (cap : Nat) : Gen :=
  let n := min (cap - x.queue.length) x.room
  Gen.make n x n

/-- Bytes that a consumer can have from a queue of which it leaves `reserve`, while the queue refills (R273). -/
def Gen.supply (x : Gen) (reserve : Nat) : Nat := x.queue.length + x.room - reserve

/-- A consumer takes `n` bytes, the oldest first, and the queue of `cap` bytes refills (R272, R273). -/
def Gen.give (x : Gen) (cap reserve n : Nat) : Gen × Bytes :=
  let m := n + reserve - x.queue.length
  let x := Gen.make m x m
  (({ x with queue := x.queue.drop n } : Gen).fill cap, x.queue.take n)

/-- Capacities of the grove queues and of the trunk's queue, and the reserve that class 2 leaves (R272, R273). -/
def groveCap : Nat := 4096
def trunkCap : Nat := 1024
def seedReserve : Nat := 1024

end Sys2Proof.Machine
end

