-- ==== Sys2Proof/Machine/SeedFam.lean ====
section
/-! DEFINITION. Seed (10): the queues' consumers, health tests, and the cell's Seed page. -/

namespace Sys2Proof.Machine

/-! ### Drawing random bytes (R271 to R274) -/

/-- Requests are served at all: not in RAW and not after the fatal alarm (R269, R278). -/
def State.seedAlive (s : State) : Bool := s.seed.mode != .raw && !s.seed.fail

/-- A grove's generator serves requests now. -/
def State.groveRandom (s : State) (g : Bool) : Bool := s.seedAlive && (s.grove g).gen.running

/-- The trunk's queue gives `n` bytes to a hardware consumer, or none while it cannot give all (R272, R274). -/
def State.trunkTake (s : State) (n : Nat) : Option (State × Bytes) :=
  if s.seedAlive && decide (n ≤ s.seed.gen.supply 0) then
    let r := s.seed.gen.give trunkCap 0 n
    some ({ s with seed := { s.seed with gen := r.1 } }, r.2)
  else none

/-- The trunk firmware draws `n` bytes: a command that draws after another one whose draw waits, waits too (R273). -/
def State.trunkDraw (s : State) (n : Nat) : Option (State × Bytes) :=
  if s.trunk.held.any (fun w => w.why == .seed) then none else s.trunkTake n

/-- A hardware consumer of a grove, before every request, takes `n` bytes, if its generator can give them all (R272, R273). -/
def State.groveDraw (s : State) (g : Bool) (n : Nat) : Option (State × Bytes) :=
  let x := (s.grove g).gen
  if s.seedAlive && decide (n ≤ x.supply 0) then
    let r := x.give groveCap 0 n
    some (s.modGrove g (fun y => { y with gen := r.1 }), r.2)
  else none

/-- The kernel's request `r` of a queue takes what it can have, leaving `reserve`. The job's draw is complete when its last request is. -/
def State.kernelTake (s : State) (g : Bool) (r : SeedReq) (j reserve : Nat) : State × SeedReq :=
  let x := (s.grove g).gen
  let n := min r.left (x.supply reserve)
  let d := x.give groveCap reserve n
  let s := (s.modGrove g (fun y => { y with gen := d.1 })).modCopy j g (fun k => { k with
    draws := k.draws ++ d.2, random := if n = r.left ∧ r.more = 0 then some (k.draws ++ d.2) else k.random })
  (s, { r with left := r.left - n })

/-- Bytes of one request at most (05 R138, R275). -/
def requestMax : Nat := 4096

/-- The request that follows one that is complete, of a draw that needs more than one (05 R138). -/
def SeedReq.next (r : SeedReq) : List SeedReq :=
  if r.more = 0 then [] else [{ r with left := min r.more requestMax, more := r.more - requestMax }]

/-- The kernels' requests are served in their order as far as the queue goes: class 2 only while none of class 1 waits, and down to its
reserve (R273). The first argument bounds how many. -/
def State.kernelServe (g : Bool) : Nat → State → State
  | 0, s => s
  | f + 1, s =>
    let y := s.grove g
    match y.seedWait1, y.seedWait2 with
    | r :: rest, _ =>
      match r.job with
      | none => s
      | some j =>
        let (s, r) := s.kernelTake g r j 0
        if r.left = 0 then State.kernelServe g f (s.modGrove g (fun y => { y with seedWait1 := rest ++ r.next }))
        else s.modGrove g (fun y => { y with seedWait1 := r :: rest })
    | [], r :: rest =>
      match r.job with
      | none => s
      | some j =>
        let (s, r) := s.kernelTake g r j seedReserve
        if r.left = 0 then State.kernelServe g f (s.modGrove g (fun y => { y with seedWait2 := rest ++ r.next }))
        else s.modGrove g (fun y => { y with seedWait2 := r :: rest })
    | [], [] => s

/-- Requests that the waiting ones of a list come to. -/
def requestsOf (l : List SeedReq) : Nat := (l.map (fun r => 1 + (r.more + requestMax - 1) / requestMax)).sum

/-- Every request that waits at a grove is looked at. -/
def State.kernels (s : State) (g : Bool) : State :=
  if s.seedAlive then State.kernelServe g (requestsOf (s.grove g).seedWait1 + requestsOf (s.grove g).seedWait2) s else s

/-- The kernel asks for `n` bytes for job `j` on cell `c`, unless it has asked (06 R149 step 7); RANDOM asks last (05 R138). -/
def State.seedAsk (s : State) (c j n : Nat) (low : Bool) : State :=
  let g := groveOf c
  let y := s.grove g
  if (y.seedWait1 ++ y.seedWait2).any (fun r => r.job == some j) then s
  else
    let r : SeedReq := { cell := c, job := some j, left := min n requestMax, more := n - requestMax }
    s.modGrove g (fun y => if low then { y with seedWait2 := y.seedWait2 ++ [r] } else { y with seedWait1 := y.seedWait1 ++ [r] })

/-- A job's request is given up. -/
def State.seedDrop (s : State) (g : Bool) (j : Nat) : State :=
  s.modGrove g (fun y => { y with
    seedWait1 := y.seedWait1.filter (fun r => r.job != some j), seedWait2 := y.seedWait2.filter (fun r => r.job != some j) })

/-! ### Blocks (R266 to R271) -/

/-- Longest run reached in a block, with the run and the bit that it ends in (R267). -/
def runsOf (bits : List Bool) (last : Bool) (run : Nat) : Nat × Bool × Nat :=
  bits.foldl (fun (best, b, n) x => let n := if x == b then n + 1 else 1; (max best n, x, n)) (run, last, run)

/-- The test that a block fails: 1 repetition count, 2 adaptive proportion (R267). -/
def blockTest (bits : List Bool) (last : Bool) (run : Nat) : Option Nat :=
  if 35 ≤ (runsOf bits last run).1 then some 1
  else if 750 ≤ bits.count (bits.headD false) then some 2
  else none

/-- Whether a generator is there to be fed: the trunk's always, a grove's while the grove serves. -/
def State.feeds (s : State) (i : Nat) : Bool := if i = 0 then true else s.groveServes (i == 2)

/-- Bytes of a grove's per-reset keys, of a link key, and of the DRAM's and key bus's keys: R12, R22, R219 and R230 give AES-256 keys
(log entry 13). -/
def groveKeyLen : Nat := 64
def linkKeyLen : Nat := 32
def trunkKeyLen : Nat := 128

/-- What a grove's hardware waits for: the key of its link, from the trunk, and its per-reset keys (R272, 06 R168). -/
def State.hardwareDraws (s : State) (g : Bool) : State :=
  let s := if (s.grove g).powered && (s.grove g).linkKey.isEmpty then
      match s.trunkTake linkKeyLen with
      | some (s, k) => s.modGrove g (fun y => { y with linkKey := k })
      | none => s
    else s
  if (s.grove g).serves && (s.grove g).resetKeys.isEmpty then
    match s.groveDraw g groveKeyLen with
    | some (s, k) => s.modGrove g (fun y => { y with resetKeys := k })
    | none => s
  else s

/-- A passing block instantiates or reseeds generator `i`, whose queue is filled, and what waits for it is served (R271 to R274). -/
def State.feed (s : State) (i : Nat) (block : Bytes) : State :=
  if i = 0 then
    let s := { s with seed := { s.seed with gen := (s.seed.gen.seeded block).fill trunkCap } }
    (s.hardwareDraws false).hardwareDraws true
  else
    let g := i == 2
    let s := s.modGrove g (fun y => { y with gen := (y.gen.seeded block).fill groveCap })
    (s.hardwareDraws g).kernels g

/-- A block that passed: it counts for the start (R270), or goes to the next generator in turn (R271). -/
def State.passBlock (s : State) (block : Bytes) : State :=
  let s := { s with seed := { s.seed with recent := (false :: s.seed.recent).take 1024 } }
  if s.seed.mode = .raw || s.seed.fail then s
  else if s.seed.starting then
    let n := s.seed.startPassed + 1
    { s with seed := { s.seed with startPassed := n, starting := decide (n < 4) } }
  else
    let i := ([s.seed.nextGen, s.seed.nextGen + 1, s.seed.nextGen + 2].map (· % 3)).find? (fun i => s.feeds i) |>.getD 0
    { s with seed := { s.seed with nextGen := (i + 1) % 3 } }.feed i block

/-- The four blocks of a start that have no command of their own have passed (R270): their bits, and so the run that they end in, are free
(log entry 3). -/
def State.sourceStarts (s : State) : State :=
  { s.drawn with seed := { s.seed with
    source := true, restarting := false, starting := false, startPassed := 4
    recent := (List.replicate 4 false ++ s.seed.recent).take 1024, lastBit := s.freeNat % 2 == 1, run := 1 + s.freeNat / 2 % 34 } }

/-- One more passing block of such a start goes to generator `i`. -/
def State.feedFree (s : State) (i : Nat) : State :=
  { s.drawn with seed := { s.seed with recent := (false :: s.seed.recent).take 1024, nextGen := (i + 1) % 3 } }.feed i (s.freeBytes 128)

/-- The record of a failed block: the test that it failed (R268). -/
def State.seedBlockRecord (s : State) (test : Nat) : State := s.logEvent 0x0501 0xFF 0 0xFF (le 1 test)

/-- A failed block: recorded, discarded, the source stops; the third of 1,024, or one at a start, is fatal (R268 to R270).
In RAW failed blocks are recorded and do not count (R278). -/
def State.failBlock (s : State) (test : Nat) : State :=
  let s := s.seedBlockRecord test
  let s := { s with seed := { s.seed with source := false, restarting := true, run := 0 } }
  if s.seed.mode = .raw then s
  else
    let recent := (true :: s.seed.recent).take 1024
    let s := { s with seed := { s.seed with recent } }
    if s.seed.fail then s
    else if s.seed.starting || decide (3 ≤ recent.count true) then s.seedFatal else s

/-- Block `k` of PATTERN: the AES-256 CTR keystream under the pattern seed from counter 0, each byte's lowest bit first (R279, log
entry 13). -/
def patternBlock (seed : Bytes) (k : Nat) : List Bool :=
  ((List.range 8).flatMap (fun i => aesEnc seed (be 16 (8 * k + i)))).flatMap (fun b => (List.range 8).map (b.getLsbD ·))

/-- A block has been sampled and goes through the health tests (R267 to R269). -/
def State.sample (s : State) (bits : List Bool) : State :=
  let (_, b, n) := runsOf bits s.seed.lastBit s.seed.run
  let t := blockTest bits s.seed.lastBit s.seed.run
  let s := { s with seed := { s.seed with lastBit := b, run := n } }
  match t with
  | some test => s.failBlock test
  | none => s.passBlock (sampledBytes bits)

/-- The source samples one block of 1,024 bits; in PATTERN they are the pattern's (R279). -/
def State.seedBlock (s : State) (bits : List Bool) : State :=
  if !s.seed.source then s
  else if s.seed.mode = .pattern then
    { s with seed := { s.seed with blocks := s.seed.blocks + 1 } }.sample (patternBlock s.seed.patternSeed s.seed.blocks)
  else s.sample bits


/-- SEED_SOURCE_RESTART: 10 µs after a failed block the oscillators run again (R268). -/
def execSeedSourceRestart (s : State) : Answer :=
  if s.seed.restarting then .next { s with seed := { s.seed with source := true, restarting := false, run := 0 } }
  else .next s

/-! ### The Seed page (R275, R276) -/

/-- As whom a cell's Seed request writes its bytes. -/
def SeedPort.who (p : SeedPort) : Who := { pl := p.pl, part := p.part, valid := !p.pl || p.part.isSome }

/-- The request of cell `c`'s Seed page is the one that its queue serves next (R273): no higher class waits, and it is its class's
oldest. -/
def Grove.servesNow (g : Grove) (c : Nat) : Bool :=
  let is (r : SeedReq) : Bool := r.cell == c && r.job.isNone
  match g.seedWait1 with
  | x :: _ => is x
  | [] => g.seedWait2.head?.any is

/-- Take the request of cell `c`'s Seed page off its queue; the kernels' requests behind it go on. -/
def State.seedLeave (s : State) (c : Nat) : State :=
  let keep (r : SeedReq) : Bool := r.cell != c || r.job.isSome
  (s.modGrove (groveOf c) (fun g => { g with
    seedWait1 := g.seedWait1.filter keep
    seedWait2 := g.seedWait2.filter keep })).kernels (groveOf c)

/-- What the access table or KBOUND refuses of a range: its first burst that faults is refused by one of them (R275, 12 R331). -/
def State.tableRefuses (s : State) (c : Nat) (w : Who) (a n : Nat) : Bool :=
  let faulting := (burstsOf a n).find? (fun b => (s.check c w b.1 .write).isSome || (memKey c b.1).any s.badLine || (memKey c b.1).isNone)
  faulting.any (fun b => (s.check c w b.1 .write).any (fun e => e.1 == .protection) &&
    (match region c b.1 with
    | .control _ => false
    | _ => true))

/-- Deliver bytes to the request's destination, which is 8-byte aligned. A burst that faults ends the request (R276). -/
def State.seedWrite (s : State) (c : Nat) (bs : Bytes) : State :=
  let p := (s.cell c).seed
  let at_ := p.dst.toNat / 8 * 8 + p.got
  let refused := s.tableRefuses c p.who at_ bs.length
  let (s, ok) := s.engineWrite c p.who at_ bs
  if ok then
    let got := p.got + bs.length
    let s := s.modCell c (fun x => { x with
      seed := { x.seed with got, state := if p.len ≤ got then .done else .waiting } })
    if p.len ≤ got then s.seedLeave c else s
  else (s.modCell c (fun x => { x with
    seed := { x.seed with state := .failed, addr := x.seed.addr || refused, code := 0 } })).seedLeave c

/-- The bytes that the request of cell `c` leaves in the queue: class 2 a reserve of 1,024 (R273). -/
def SeedPort.reserve (p : SeedPort) : Nat := if p.low then seedReserve else 0

/-- Serve up to `n` bytes to the request of cell `c`. -/
def State.seedServe (s : State) (c n : Nat) : State :=
  let p := (s.cell c).seed
  let g := groveOf c
  let n := min n (p.len - p.got)
  if p.state = .waiting && (s.grove g).servesNow c && s.seedAlive && n != 0 then
    let d := (s.grove g).gen.give groveCap p.reserve n
    (s.modGrove g (fun y => { y with gen := d.1 })).seedWrite c d.2
  else s

/-- A write of SRREQ; what the queue holds is served at once. A length that is not 8 to 4,096 in steps of 8 starts nothing (log entry
14). -/
def State.srreq (s : State) (c : Nat) (value : BitVec 32) : State :=
  let x := s.cell c
  let len := bits value.toNat 12 0
  let low := bit value.toNat 13 || x.core.pl
  if x.seed.state = .waiting then s.modCell c (fun x => { x with seed := { x.seed with ovr := true } })
  else if len = 0 ∨ 4096 < len ∨ len % 8 ≠ 0 then s
  else
    let w := s.who c
    let p : SeedPort := { x.seed with
      state := .waiting, code := 0, len, low, got := 0, pl := w.pl, part := if w.valid then w.part else none }
    if s.seedAlive then
      let s := s.modCell c (fun x => { x with seed := p })
      let s := s.modGrove (groveOf c) (fun g =>
        if low then { g with seedWait2 := g.seedWait2 ++ [{ cell := c }] } else { g with seedWait1 := g.seedWait1 ++ [{ cell := c }] })
      s.seedServe c ((s.grove (groveOf c)).gen.queue.length - p.reserve)
    else s.modCell c (fun x => { x with seed := { p with state := .failed, code := 0x0704 } })

/-- A write of SRCANCEL (R275). -/
def State.srcancel (s : State) (c : Nat) : State :=
  if (s.cell c).seed.state = .waiting then
    (s.seedLeave c).modCell c (fun x => { x with seed := { x.seed with state := .idle } })
  else s



/-- SEED_DELIVERY_DONE: the queue has refilled far enough for the request of cell `c`, which is served to its end as far as
the generator may produce before its next block (R271, R273, R276). -/
def execSeedDeliveryDone (c : BitVec 8) (s : State) : Answer :=
  .next (s.seedServe c.toNat ((s.grove (groveOf c.toNat)).gen.supply (s.cell c.toNat).seed.reserve))

end Sys2Proof.Machine
end

