-- ==== Sys2Proof/Machine/FnTable.lean ====
section
/-! DEFINITION. The catalogue of transaction functions (05): declared times, DUAL classes, the rules of each function's table
for parameters, input and output length (R119 to R139), and which keys each function permits (09 R240 to R242). -/

namespace Sys2Proof.Machine

/-! ### Catalogue (R121, R123, R124) -/

/-- DUAL classes (R124). -/
inductive DualClass where
  | c | d | n
  deriving DecidableEq, Repr

/-- Codes of R123. -/
def fnCodes : List Nat := [0x0101, 0x0102, 0x0201, 0x0202, 0x0301, 0x0302, 0x0303, 0x0401, 0x0501, 0x0601, 0x0602, 0x0603,
  0x0604, 0x0605, 0x0606, 0x0607, 0x0608, 0x0701, 0x0702, 0x0703, 0x0801, 0x0802, 0x0901, 0x0902, 0x0903, 0x0904, 0x0905,
  0x0906, 0x0907, 0x0A01, 0x0B01, 0x0C01]

/-- What an installed custom function's header declares (R148). -/
def State.custom? (s : State) (code : Nat) : Option Custom := s.image.customs.find? (fun x => x.code == code)

/-- The variant that a key's algorithm selects, in the codes of R133 and R135. -/
def variantOf (alg : Nat) : Nat :=
  if alg = 0x28 then 1 else if alg = 0x29 then 2 else if alg = 0x2A then 3 else if alg = 0x30 then 4 else if alg = 0x31 then 5
  else if 0x20 ≤ alg ∧ alg ≤ 0x22 then 6 else if alg = 0x40 then 7 else if alg = 0x41 then 8 else if alg = 0x42 then 9
  else if alg = 0x32 then 10 else if alg = 0x33 then 11 else 0

/-- Index of a lattice key's parameter set: 1, 2, 3. -/
def latticeOf (alg : Nat) : Nat := if 0x38 ≤ alg ∧ alg ≤ 0x3A then alg - 0x37 else 0

/-- Parts of 1,024 bytes begun. -/
def kib (n : Nat) : Nat := (n + 1023) / 1024

/-- The declared time W in µs (R121, R123). `alg` is key A's algorithm, 0 when it is not known; then the first variant. -/
def declared (code : Nat) (params : Bytes) (inLen alg : Nat) (custom : Option Custom) : Nat :=
  let p (i : Nat) : Nat := field params (i - 48) 1
  let v := let x := variantOf alg; if x = 0 then p 51 else x
  let pick (l : List Nat) (i : Nat) : Nat := l.getD (i - 1) (l.headD 0)
  let extra := 6 * kib (inLen - 4096)
  match code with
  | 0x0101 => 10
  | 0x0102 => 12
  | 0x0201 => 8 + (if 7 ≤ p 48 then 6 else 14) * kib inLen
  | 0x0202 => 8 + (if 7 ≤ p 48 then 6 else 14) * kib inLen
  | 0x0301 => 22
  | 0x0302 => 22 + 14 * kib inLen
  | 0x0303 => 22 + 14 * kib inLen
  | 0x0401 => 14
  | 0x0501 => 16
  | 0x0601 => pick [262, 520, 1050] v + extra
  | 0x0602 => pick [340, 700, 1400] v + extra
  | 0x0603 => pick [160, 520] (v - 3) + extra
  | 0x0604 => pick [330, 1000] (v - 3) + extra
  | 0x0605 => pick [1740, 5000, 11000] (alg - 0x1F) + extra
  | 0x0606 => pick [60, 130, 220] (if variantOf alg = 6 then alg - 0x1F else
      if field params 4 2 = 384 then 2 else if field params 4 2 = 512 then 3 else 1) + extra
  | 0x0607 => pick [500, 720, 1100] (v - 6) + extra
  | 0x0608 => pick [60, 90, 140] (v - 6) + extra
  | 0x0701 =>
    let x := let y := variantOf alg; if y = 0 then p 54 else y
    pick [250, 500, 1000, 130, 420] (if 10 ≤ x then x - 6 else x) + extra
  | 0x0702 => pick [25, 38, 52] (p 54) + extra
  | 0x0703 => pick [30, 45, 60] (latticeOf alg) + extra
  | 0x0801 => if inLen - p 49 - p 50 - p 51 ≤ 19 then 12 else 20
  | 0x0802 => if inLen - p 49 - p 50 - p 51 ≤ 19 then 12 else 20
  | 0x0A01 => 4 + 6 * kib inLen
  | 0x0B01 => 8 + 4 * kib (field params 0 4)
  | 0x0C01 => 40 + 150 * p 48
  | c =>
    if 0x0901 ≤ c ∧ c ≤ 0x0907 then 6 + 14 * kib inLen
    else (custom.map (·.w)).getD 0

/-- The DUAL class of a function: ECDH with an ephemeral key is N (R123). -/
def dualClass (code : Nat) (handleA : Handle) (custom : Option Custom) : DualClass :=
  match code with
  | 0x0501 => .d
  | 0x0601 => .d
  | 0x0605 => .d
  | 0x0607 => .d
  | 0x0701 => if handleA = 0 then .n else .d
  | 0x0702 => .n
  | 0x0703 => .d
  | 0x0B01 => .n
  | _ => match custom with
    | some x => if x.isC then .c else .n
    | none => .c

/-! ### Parameters, input and output (R127 to R139) -/

/-- What a function's table says of one job. -/
structure Form where
  /-- Parameters that shape the input are within their listed values (R120, order 2). -/
  shape : Bool
  /-- The input parses and its length and the capacity's rules hold (order 1). -/
  len : Bool
  /-- Every other parameter, reserved byte and handle field is as listed (order 2). -/
  par : Bool
  /-- Output length, when it is known before execution (order 8). -/
  out : Option Nat
  deriving DecidableEq, Repr

def digits (bs : Bytes) : Bool := bs.all (fun b => decide (0x30 ≤ b.toNat) && decide (b.toNat ≤ 0x39))
def hexDigits (bs : Bytes) : Bool := bs.all (fun b =>
  (decide (0x30 ≤ b.toNat) && decide (b.toNat ≤ 0x39)) || (decide (0x41 ≤ b.toNat) && decide (b.toNat ≤ 0x46)) ||
    (decide (0x61 ≤ b.toNat) && decide (b.toNat ≤ 0x66)))

def mib : Nat := 2 ^ 20

/-- Order lengths of the prime curves, in bytes. -/
def orderLen (v : Nat) : Nat := if v = 1 then 32 else if v = 2 then 48 else 66
/-- Longest DER signature of R133. -/
def derLen (v : Nat) : Nat := if v = 1 then 72 else if v = 2 then 104 else 141
/-- Modulus bytes of an RSA algorithm. -/
def modLen (alg : Nat) : Nat := if alg = 0x20 then 256 else if alg = 0x21 then 384 else 512
/-- ML-DSA signature lengths by variant 7, 8, 9. -/
def mldsaLen (v : Nat) : Nat := if v = 7 then 2420 else if v = 8 then 3309 else 4627
/-- ML-KEM ciphertext and encapsulation-key lengths by parameter set. -/
def kemCt (v : Nat) : Nat := if v = 1 then 768 else if v = 2 then 1088 else 1568
def kemEk (v : Nat) : Nat := if v = 1 then 800 else if v = 2 then 1184 else 1568

/-- Length of a public key in an input, by variant; an RSA key's modulus length is given. -/
def pubLen (v rsa : Nat) : Nat :=
  if v = 1 then 65 else if v = 2 then 97 else if v = 3 then 133 else if v = 4 then 32 else if v = 5 then 57
  else if v = 6 then rsa + 4 else if v = 7 then 1312 else if v = 8 then 1952 else if v = 9 then 2592
  else if v = 10 then 32 else if v = 11 then 56 else 0

/-- Digest lengths of the hash codes of R126. -/
def hashLen (h shake : Nat) : Nat :=
  if h = 1 ∨ h = 4 then 32 else if h = 2 ∨ h = 5 then 48 else if h = 3 ∨ h = 6 then 64 else shake

/-- The records of BATCH_VERIFY_ED25519: the bytes used by `n` records, or `none` when one does not parse (R139). -/
def batchUsed : Nat → Bytes → Nat → Option Nat
  | 0, _, used => some used
  | n + 1, input, used =>
    let l := field input (used + 96) 2
    let stop := used + 98 + l
    let padded := (stop + 7) / 8 * 8
    if 1024 < l ∨ input.length < padded then none
    else if (piece input stop (padded - stop)).any (· != 0) then none
    else batchUsed n input padded

/-- One-bits of the low four bytes given (R130). -/
def onesOf (bs : Bytes) : Nat := (List.range 32).foldl (fun n i => n + b2n (bit (num bs) i)) 0

/-- A MAC length that an algorithm permits (R129). -/
def macLenOk (alg n : Nat) : Bool :=
  if alg = 1 ∨ alg = 3 ∨ alg = 6 then decide (4 ≤ n ∧ n ≤ 8)
  else if alg = 5 then decide (4 ≤ n ∧ n ≤ 16)
  else if alg = 7 then decide (8 ≤ n ∧ n ≤ 32)
  else if alg = 8 then decide (8 ≤ n ∧ n ≤ 48)
  else if alg = 9 then decide (8 ≤ n ∧ n ≤ 64)
  else decide (4 ≤ n ∧ n ≤ 64)

/-- Two ASCII capitals or digits: an X9.143 usage code (R135, log entry 15). -/
def usageAscii (bs : Bytes) : Bool := bs.all (fun b =>
  (decide (0x30 ≤ b.toNat) && decide (b.toNat ≤ 0x39)) || (decide (0x41 ≤ b.toNat) && decide (b.toNat ≤ 0x5A)))

/-- Length of a derived key of R135. -/
def derivedLen (kdf b49 z : Nat) : Nat :=
  if kdf = 0 then z else if b49 = 1 then 16 else if b49 = 2 then 32 else if b49 = 3 then 48 else 32

/-- The rules of a function's table for a job. `alg` is the algorithm of key A where its handle names a key, else 0; a length
that rests on it is not judged then, and orders 3 to 6 refuse the job (log entry 15). -/
def formOf (j : Job) (alg : Nat) : Form :=
  let p (i : Nat) : Nat := field j.params (i - 48) 1
  let p2 (i : Nat) : Nat := field j.params (i - 48) 2
  let z (i : Nat) : Bool := (piece j.params (i - 48) (64 - i)).all (· == 0)
  let n := j.inLen
  let i := j.input
  let hA := j.handleA != 0
  let hB := j.handleB != 0
  let known := alg != 0
  let fmt (x : Nat) : Bool := [0, 1, 3, 4].contains x
  let pan := p 50
  let panOk (free : Bool) : Bool := decide (12 ≤ pan ∧ pan ≤ 19) || (pan == 0 && free)
  let v := if hA then variantOf alg else p 51
  let vPar := if hA then p 51 == 0 else true
  match j.code with
  | 0x0101 =>
    let b := if p 48 = 4 then 16 else 8
    { shape := fmt (p 48) && panOk (p 48 == 1 && p 49 == 1)
      len := n == b + pan && digits (piece i b pan)
      par := fmt (p 49) && (p 49 != 1 || p 48 == 1) && z 51
      out := some (if p 49 = 4 then 16 else 8) }
  | 0x0102 =>
    let b := if p 48 = 4 then 16 else 8
    let m1 := p 49 == 1
    { shape := fmt (p 48) && [1, 2].contains (p 49) && panOk (p 48 == 1 && m1) && decide (4 ≤ p 51 ∧ p 51 ≤ 12)
      len := n == b + pan + p 51 + (if m1 then 32 else 0) && digits (piece i b (pan + p 51 + (if m1 then 16 else 0))) &&
        (!m1 || hexDigits (piece i (n - 16) 16))
      par := (if m1 then p 52 == 0 else decide (p 52 ≤ 9)) && z 53
      out := some 0 }
  | 0x0201 =>
    { shape := (p 48 == 1 || p 48 == 3 || decide (5 ≤ p 48 ∧ p 48 ≤ 11)) && decide (p2 52 ≤ 256)
      len := decide (p2 52 ≤ n) && decide (n - p2 52 ≤ 4 * mib)
      par := (if p 48 = 1 ∨ p 48 = 3 then decide (1 ≤ p 49 ∧ p 49 ≤ 3) else p 49 == 0) && macLenOk (p 48) (p 50) &&
        p 51 == 0 && (decide (10 ≤ p 48) || p2 52 == 0) && z 54 && !hB
      out := some (p 50) }
  | 0x0202 =>
    { shape := (p 48 == 1 || p 48 == 3 || decide (5 ≤ p 48 ∧ p 48 ≤ 11)) && decide (p2 52 ≤ 256) &&
        macLenOk (p 48) (p 50)
      len := decide (p2 52 + p 50 ≤ n) && decide (n - p2 52 - p 50 ≤ 4 * mib)
      par := (if p 48 = 1 ∨ p 48 = 3 then decide (1 ≤ p 49 ∧ p 49 ≤ 3) else p 49 == 0) && p 51 == 0 &&
        (decide (10 ≤ p 48) || p2 52 == 0) && z 54 && !hB
      out := some 0 }
  | 0x0301 =>
    { shape := decide (12 ≤ pan ∧ pan ≤ 19)
      len := n == 28 + pan && digits (piece i 28 pan)
      par := decide (1 ≤ p 48 ∧ p 48 ≤ 4) && fmt (p 49) && decide (onesOf (piece i 8 4) ≤ 16) && z 51
      out := some (if p 49 = 4 then 16 else 8) }
  | 0x0302 =>
    { shape := decide (4 ≤ p 49 ∧ p 49 ≤ 16)
      len := decide (12 + p 49 ≤ n)
      par := decide (1 ≤ p 48 ∧ p 48 ≤ 4) && decide (onesOf (piece i 8 4) ≤ 16) && z 50 && !hB
      out := some 0 }
  | 0x0303 =>
    let b := if p 48 = 1 then 8 else 16
    { shape := decide (1 ≤ p 48 ∧ p 48 ≤ 4)
      len := decide (12 + b ≤ n) && (n - 12 - b) % b == 0
      par := decide (onesOf (piece i 8 4) ≤ 16) && z 49 && !hB
      out := some (n - 12 - b) }
  | 0x0401 =>
    { shape := decide (12 ≤ p 51 ∧ p 51 ≤ 19) && decide (p2 56 ≤ 256)
      len := n == p 51 + 15 + p2 56 && digits (piece i 0 (p 51))
      par := [1, 2].contains (p 48) && decide (p 49 ≤ 1) && decide (p 50 ≤ 2) && (p 50 != 0 || field j.params 4 4 == 0) &&
        (p 50 != 1 || p2 54 == 0) && z 58 && !hB
      out := some (if p 50 = 1 then 8 else if p 50 = 2 then 4 else 0) }
  | 0x0501 =>
    { shape := true
      len := decide (n ≤ 8192)
      par := (p 48 == 0x44 || p 48 == 0x42) && decide (p 49 ≤ 3) && z 50
      out := none }
  | 0x0601 =>
    { shape := decide (p 48 ≤ 8)
      len := if p 48 = 0 then !known || n == orderLen v else decide (n ≤ mib)
      par := decide (p 49 ≤ 1) && decide (p 50 ≤ 1) && z 51 && !hB
      out := if p 50 = 0 then some (2 * orderLen v) else none }
  | 0x0602 =>
    let pk := if hA then 0 else pubLen v 0
    let sl := p2 52
    { shape := decide (p 48 ≤ 8) && decide (p 50 ≤ 1) && (hA || decide (1 ≤ v ∧ v ≤ 3)) &&
        (!known && hA || (if p 50 = 0 then sl == 2 * orderLen v else decide (8 ≤ sl ∧ sl ≤ derLen v)))
      len := !known && hA || (decide (pk + sl ≤ n) &&
        (if p 48 = 0 then n - pk - sl == orderLen v else decide (n - pk - sl ≤ mib)))
      par := p 49 == 0 && vPar && z 54 && !hB
      out := some 0 }
  | 0x0603 =>
    { shape := decide (p 48 ≤ 2) && (v != 4 || (if p 48 = 0 then p 49 == 0 else p 48 == 2 || p 49 != 0))
      len := decide (p 49 ≤ n) && decide (n - p 49 ≤ mib)
      par := z 50 && !hB
      out := some (if v = 5 then 114 else 64) }
  | 0x0604 =>
    let pk := if hA then 0 else pubLen v 0
    let sl := if v = 5 then 114 else 64
    { shape := decide (p 48 ≤ 2) && (hA || v == 4 || v == 5) &&
        (v != 4 || (if p 48 = 0 then p 49 == 0 else p 48 == 2 || p 49 != 0))
      len := !known && hA || (decide (pk + p 49 + sl ≤ n) && decide (n - pk - p 49 - sl ≤ mib))
      par := p 50 == 0 && vPar && z 52 && !hB
      out := some 0 }
  | 0x0605 =>
    { shape := decide (p 48 ≤ 6)
      len := if p 48 = 0 then [32, 48, 64].contains n else decide (n ≤ mib)
      par := [1, 2].contains (p 49) && decide (p 50 ≤ 64) && (!j.dual || p 49 != 2 || p 50 == 0) && z 51 && !hB
      out := some (modLen alg) }
  | 0x0606 =>
    let m := p2 52
    let pk := if hA then 0 else m + 4
    { shape := decide (p 48 ≤ 6) && [256, 384, 512].contains m && (hA || v == 6) && (!hA || v != 6 || m == modLen alg)
      len := decide (pk + m ≤ n) &&
        (if p 48 = 0 then [32, 48, 64].contains (n - pk - m) else decide (n - pk - m ≤ mib))
      par := [1, 2].contains (p 49) && decide (p 50 ≤ 64) && vPar && z 54 && !hB
      out := some 0 }
  | 0x0607 =>
    { shape := decide (p 48 ≤ 1)
      len := decide (p 51 ≤ n) && decide (n - p 51 ≤ mib)
      par := (if p 48 = 0 then p 49 == 0 else decide (1 ≤ p 49 ∧ p 49 ≤ 8)) && decide (p 50 ≤ 1) &&
        z 52 && !hB
      out := some (mldsaLen v) }
  | 0x0608 =>
    let pk := if hA then 0 else pubLen v 0
    { shape := decide (p 48 ≤ 1) && (hA || decide (7 ≤ v ∧ v ≤ 9))
      len := !known && hA || (decide (pk + p 52 + mldsaLen v ≤ n) && decide (n - pk - p 52 - mldsaLen v ≤ mib))
      par := (if p 48 = 0 then p 49 == 0 else decide (1 ≤ p 49 ∧ p 49 ≤ 8)) && p 50 == 0 && vPar &&
        z 53 && !hB
      out := some 0 }
  | 0x0701 =>
    let v := if hA then variantOf alg else p 54
    let zl := if v = 10 then 32 else if v = 11 then 56 else orderLen v
    let d := derivedLen (p 48) (p 49) zl
    { shape := (hA || [1, 2, 3, 10, 11].contains v) && decide (p2 52 ≤ 256)
      len := !known && hA || n == pubLen v 0 + p2 52
      par := decide (p 48 ≤ 1) && (if p 48 = 0 then p 49 == 0 && !hB else decide (1 ≤ p 49 ∧ p 49 ≤ 4)) &&
        (if p 48 = 1 && hB then usageAscii (piece j.params 2 2) else p2 50 == 0) && (!hA || p 54 == 0) && z 55
      out := if hB then none else some ((if hA then 0 else pubLen v 0) + d) }
  | 0x0702 =>
    let v := p 54
    { shape := decide (1 ≤ v ∧ v ≤ 3) && decide (p2 52 ≤ 256)
      len := n == kemEk v + p2 52
      par := !hA && decide (p 48 ≤ 1) && (if p 48 = 0 then p 49 == 0 && !hB else decide (1 ≤ p 49 ∧ p 49 ≤ 4)) &&
        (if p 48 = 1 && hB then usageAscii (piece j.params 2 2) else p2 50 == 0) && z 55
      out := if hB then none else some (kemCt v + derivedLen (p 48) (p 49) 32) }
  | 0x0703 =>
    let v := latticeOf alg
    { shape := decide (p2 52 ≤ 256)
      len := !known || n == kemCt v + p2 52
      par := decide (p 48 ≤ 1) && (if p 48 = 0 then p 49 == 0 && !hB else decide (1 ≤ p 49 ∧ p 49 ≤ 4)) &&
        (if p 48 = 1 && hB then usageAscii (piece j.params 2 2) else p2 50 == 0) && z 54
      out := if hB then none else some (derivedLen (p 48) (p 49) 32) }
  | 0x0801 => ff1 p n i (z 52) hB
  | 0x0802 => ff1 p n i (z 52) hB
  | 0x0901 =>
    let a := field j.params 0 4
    { shape := true
      len := decide (a ≤ n) && decide (n ≤ 4 * mib)
      par := decide (12 ≤ p 52 ∧ p 52 ≤ 16) && z 53 && !hB
      out := some (12 + (n - a) + p 52) }
  | 0x0902 =>
    let a := field j.params 0 4
    { shape := decide (12 ≤ p 52 ∧ p 52 ≤ 16)
      len := decide (12 + a + p 52 ≤ n) && decide (n ≤ 4 * mib)
      par := z 53 && !hB
      out := some (n - 12 - a - p 52) }
  | 0x0903 =>
    { shape := decide (p 48 ≤ 1) && decide (p 49 ≤ 1)
      len := decide (16 ≤ n) && decide (n ≤ 4 * mib) && ((p 48 == 0 && p 49 == 1) || n % 16 == 0)
      par := z 50 && !hB
      out := if p 49 = 0 then some (n - 16) else if p 48 = 0 then some (n - 16 + (16 - n % 16)) else none }
  | 0x0904 =>
    { shape := decide (p 48 ≤ 1)
      len := decide (n ≤ 4 * mib) && (p 48 == 0 || decide (12 ≤ n))
      par := z 49 && !hB
      out := some (if p 48 = 0 then n + 12 else n - 12) }
  | 0x0905 =>
    { shape := true
      len := decide (32 ≤ n) && decide (n ≤ 4 * mib)
      par := decide (p 48 ≤ 1) && z 49 && !hB
      out := some (n - 16) }
  | 0x0906 =>
    { shape := true
      len := n % 16 == 0 && decide (n ≤ 4 * mib)
      par := decide (p 48 ≤ 1) && z 49 && !hB
      out := some n }
  | 0x0907 =>
    { shape := true
      len := decide (8 ≤ n) && n % 8 == 0 && decide (n ≤ 4 * mib)
      par := decide (p 48 ≤ 1) && z 49 && !hB
      out := some (n - 8) }
  | 0x0A01 =>
    { shape := true
      len := decide (n ≤ 4 * mib)
      par := decide (1 ≤ p 48 ∧ p 48 ≤ 8) && (if 7 ≤ p 48 then decide (1 ≤ p2 49 ∧ p2 49 ≤ 1024) else p2 49 == 0) && z 51 &&
        !hA && !hB
      out := some (hashLen (p 48) (p2 49)) }
  | 0x0B01 =>
    let l := field j.params 0 4
    { shape := true, len := n == 0, par := decide (1 ≤ l ∧ l ≤ 65536) && z 52 && !hA && !hB, out := some l }
  | 0x0C01 =>
    { shape := decide (1 ≤ p 48 ∧ p 48 ≤ 64)
      len := batchUsed (p 48) i 0 == some n
      par := z 49 && !hA && !hB
      out := some 0 }
  | _ => { shape := true, len := true, par := true, out := none }
where
  /-- FF1_ENCRYPT and FF1_DECRYPT (R136). -/
  ff1 (p : Nat → Nat) (n : Nat) (i : Bytes) (rest hB : Bool) : Form :=
    let kept := p 49 + p 50
    let body := i.drop (p 51)
    let m := n - p 51 - kept
    let inAlphabet (b : Byte) : Bool :=
      (decide (0x30 ≤ b.toNat) && decide (b.toNat ≤ 0x39)) ||
        (p 48 == 36 && decide (0x61 ≤ b.toNat) && decide (b.toNat ≤ 0x7A))
    { shape := (p 48 == 10 || p 48 == 36) && decide (p 49 ≤ 8) && decide (p 50 ≤ 8) && decide (p 51 ≤ 32)
      len := decide (p 51 + kept ≤ n) && decide ((if p 48 = 10 then 6 else 4) ≤ m) && decide (m ≤ 56)
      par := body.all inAlphabet && rest && !hB
      out := some (n - p 51) }

/-- Orders 1 and 2 of R120. -/
def Form.args (f : Form) : Option Status :=
  if !f.shape then some .badParameter else if !f.len then some .badLength else if !f.par then some .badParameter else none

/-! ### Keys (R240 to R242) -/

def isTdes (a : Nat) : Bool := a == 4 || a == 5
def isAes (a : Nat) : Bool := decide (1 ≤ a ∧ a ≤ 3)
/-- Algorithms of the symmetric and of the private cache. -/
def isSym (a : Nat) : Bool := decide (1 ≤ a ∧ a ≤ 0x0A)
def isPriv (a : Nat) : Bool := decide (0x20 ≤ a ∧ a ≤ 0x22) || decide (0x28 ≤ a ∧ a ≤ 0x2A) || decide (0x30 ≤ a ∧ a ≤ 0x33) ||
  decide (0x38 ≤ a ∧ a ≤ 0x3A) || decide (0x40 ≤ a ∧ a ≤ 0x42)

def Slot.code (x : Slot) : Nat := bits x.usage.toNat 7 0
def Slot.mode (x : Slot) : Nat := bits x.usage.toNat 11 8
def Slot.exportable (x : Slot) : Nat := bits x.usage.toNat 13 12
def Slot.ecb (x : Slot) : Bool := bit x.usage.toNat 14
def Slot.clear (x : Slot) : Bool := bit x.usage.toNat 15

/-- Modes of use (R241): N 0, B 1, C 2, D 3, E 4, G 5, S 6, V 7, X 8. -/
def Slot.mayEncrypt (x : Slot) : Bool := [0, 1, 4].contains x.mode
def Slot.mayDecrypt (x : Slot) : Bool := [0, 1, 3].contains x.mode
def Slot.mayGenerate (x : Slot) : Bool := [0, 2, 5].contains x.mode
def Slot.mayVerify (x : Slot) : Bool := [0, 2, 7].contains x.mode
def Slot.maySign (x : Slot) : Bool := [0, 2, 5, 6].contains x.mode
def Slot.mayDerive (x : Slot) : Bool := [0, 8].contains x.mode

/-- A key that a PIN-block format requires (R128). -/
def pinAlg (format alg : Nat) : Bool := if format = 4 then isAes alg else isTdes alg

/-- A TDES key that follows neither keying option 1 nor 2 (R204). -/
def tdesWeak (key : Bytes) (alg : Nat) : Bool :=
  let k1 := piece key 0 8
  let k2 := piece key 8 8
  let k3 := if alg = 4 then k1 else piece key 16 8
  k1 == k2 || k2 == k3

/-- Whether key A's algorithm, usage and mode permit the function with its parameters (order 6 of R120; log entry 15 for the
modes of use that the function tables do not name). -/
def permitsA (custom : Option Custom) (j : Job) (x : Slot) : Bool :=
  let p (i : Nat) : Nat := field j.params (i - 48) 1
  let v := variantOf x.alg
  match j.code with
  | 0x0101 => x.code == 0x0A && pinAlg (p 48) x.alg && x.mayDecrypt
  | 0x0102 => x.code == 0x0A && pinAlg (p 48) x.alg && x.mayDecrypt
  | 0x0201 => mac (p 48) x && x.mayGenerate
  | 0x0202 => mac (p 48) x && x.mayVerify
  | 0x0301 => x.code == 0x01 && isAes x.alg && x.mayDerive && p 48 != 1
  | 0x0302 => x.code == 0x01 && isAes x.alg && x.mayDerive
  | 0x0303 => x.code == 0x01 && isAes x.alg && x.mayDerive
  | 0x0401 => x.code == 0x03 && (isTdes x.alg || isAes x.alg) && (x.mayDerive || x.mayVerify)
  | 0x0501 => x.code == 0x05 && (isTdes x.alg || isAes x.alg) && x.mayDecrypt && (!bit (p 49) 1 || x.forms)
  | 0x0601 => x.code == 0x0B && decide (1 ≤ v ∧ v ≤ 3) && x.maySign
  | 0x0602 => x.code == 0x0B && decide (1 ≤ v ∧ v ≤ 3) && x.mayVerify
  | 0x0603 => x.code == 0x0B && decide (4 ≤ v ∧ v ≤ 5) && x.maySign
  | 0x0604 => x.code == 0x0B && decide (4 ≤ v ∧ v ≤ 5) && x.mayVerify
  | 0x0605 => x.code == 0x0B && v == 6 && x.maySign
  | 0x0606 => x.code == 0x0B && v == 6 && x.mayVerify
  | 0x0607 => x.code == 0x0B && decide (7 ≤ v ∧ v ≤ 9) && x.maySign
  | 0x0608 => x.code == 0x0B && decide (7 ≤ v ∧ v ≤ 9) && x.mayVerify
  | 0x0701 => x.code == 0x12 && (decide (1 ≤ v ∧ v ≤ 3) || v == 10 || v == 11) && x.mayDerive && (j.handleB != 0 || x.clear)
  | 0x0703 => x.code == 0x13 && latticeOf x.alg != 0 && (x.mayDerive || x.mayDecrypt) && (j.handleB != 0 || x.clear)
  | 0x0801 => x.code == 0x11 && isAes x.alg && x.mayEncrypt
  | 0x0802 => x.code == 0x11 && isAes x.alg && x.mayDecrypt
  | 0x0901 => x.code == 0x02 && isAes x.alg && x.mayEncrypt
  | 0x0902 => x.code == 0x02 && isAes x.alg && x.mayDecrypt
  | 0x0903 => x.code == 0x02 && isAes x.alg && (if p 48 = 0 then x.mayEncrypt else x.mayDecrypt)
  | 0x0904 => x.code == 0x02 && isAes x.alg && (if p 48 = 0 then x.mayEncrypt else x.mayDecrypt)
  | 0x0905 => x.code == 0x02 && (x.alg == 6 || x.alg == 7) && (if p 48 = 0 then x.mayEncrypt else x.mayDecrypt)
  | 0x0906 => x.code == 0x02 && isAes x.alg && x.ecb && (if p 48 = 0 then x.mayEncrypt else x.mayDecrypt)
  | 0x0907 => x.code == 0x02 && isTdes x.alg && (if p 48 = 0 then x.mayEncrypt else x.mayDecrypt)
  | _ => custom.any (fun h => h.algsA.contains x.alg && h.usagesA.contains x.code)
where
  /-- The MAC key that an algorithm of R129 takes. -/
  mac (alg : Nat) (x : Slot) : Bool :=
    if alg = 1 then x.code == 0x06 && isTdes x.alg
    else if alg = 3 then x.code == 0x07 && isTdes x.alg
    else if alg = 5 then x.code == 0x08 && isAes x.alg
    else if alg = 6 then x.code == 0x08 && isTdes x.alg
    else if alg ≤ 9 then x.code == 0x09 && x.alg == 0x08
    else x.code == 0x10 && x.alg == 0x09

/-- The same for key B. -/
def permitsB (custom : Option Custom) (j : Job) (x : Slot) : Bool :=
  let p (i : Nat) : Nat := field j.params (i - 48) 1
  match j.code with
  | 0x0101 => x.code == 0x0A && pinAlg (p 49) x.alg && x.mayEncrypt
  | 0x0102 => x.code == (if p 49 = 1 then 0x0C else 0x0D) && isTdes x.alg && x.mayVerify
  | 0x0301 => x.code == 0x0A && pinAlg (p 49) x.alg && x.mayEncrypt
  | 0x0501 => x.code == 0x05 && (if p 48 = 0x44 then isAes x.alg else isTdes x.alg) && x.mayEncrypt
  | 0x0701 => x.code == 0x05 && isAes x.alg && x.mayEncrypt
  | 0x0702 => x.code == 0x05 && isAes x.alg && x.mayEncrypt
  | 0x0703 => x.code == 0x05 && isAes x.alg && x.mayEncrypt
  | _ => custom.any (fun h => h.algsB.contains x.alg && h.usagesB.contains x.code)

/-- Whether the function takes a key A whatever the handle, and a key B (R119, R127 to R139). -/
def takesA (code : Nat) (handle : Handle) : Bool :=
  if [0x0602, 0x0604, 0x0606, 0x0608, 0x0701].contains code ∨ 0x8000 ≤ code then handle != 0
  else !([0x0702, 0x0A01, 0x0B01, 0x0C01].contains code)
def takesB (code : Nat) (handle : Handle) : Bool :=
  if [0x0701, 0x0702, 0x0703].contains code ∨ 0x8000 ≤ code then handle != 0
  else [0x0101, 0x0102, 0x0301, 0x0501].contains code

/-- GCM_ENCRYPT and AES_CTR encryption draw a counter value (R211). -/
def drawsValue (j : Job) : Bool := j.code == 0x0901 || (j.code == 0x0904 && field j.params 0 1 == 0)

end Sys2Proof.Machine
end

