-- ==== Sys2Proof/Machine/StdCurve.lean ====
section
/-! DEFINITION. The public-key arithmetic of the standards that 00 R9 names: the prime curves and ECDSA (FIPS 186-5), EdDSA
(RFC 8032), X25519 and X448 (RFC 7748), RSA with its paddings (RFC 8017). -/

namespace Sys2Proof.Machine

/-! ### Modular arithmetic -/

/-- Bits of a number, least significant first, `fuel` of them. -/
def bitsOf : Nat → Nat → List Bool
  | 0, _ => []
  | f + 1, n => (n % 2 == 1) :: bitsOf f (n / 2)

/-- Base to an exponent modulo `m`, over the exponent's bits from the least significant. -/
def powMod (m : Nat) : List Bool → Nat → Nat → Nat
  | [], _, acc => acc % m
  | b :: t, x, acc => powMod m t (x * x % m) (if b then acc * x % m else acc)

/-- `x ^ e` modulo `m`. -/
def expMod (x e m : Nat) : Nat := powMod m (bitsOf (bitWidth e) e) (x % m) 1

def addMod (m a b : Nat) : Nat := (a + b) % m
def subMod (m a b : Nat) : Nat := (a % m + m - b % m) % m

/-- The inverse modulo a prime, 0 for 0. -/
def invPrime (p a : Nat) : Nat := expMod a (p - 2) p

/-- Euclid's algorithm on (r, x) and (r', x'), where r = x·a modulo `m`: the inverse when the last remainder is 1. -/
def euclid (m : Nat) : Nat → Nat × Nat → Nat × Nat → Option Nat
  | 0, _, _ => none
  | f + 1, (r, x), (r', x') =>
    if r' = 0 then (if r = 1 then some (x % m) else none)
    else euclid m f (r', x') (r % r', subMod m x (r / r' * x'))

/-- The inverse of `a` modulo `m`, when they share no factor. -/
def invMod (m a : Nat) : Option Nat := if m = 1 then some 0 else euclid m (2 * bitWidth m + 2) (a % m, 1) (m, 0)

/-! ### Prime curves (FIPS 186-5) -/

/-- y² = x³ − 3x + b over p, with a base point of order n. -/
structure PrimeCurve where
  p : Nat
  n : Nat
  b : Nat
  gx : Nat
  gy : Nat

def p256 : PrimeCurve :=
  { p := 2 ^ 256 - 2 ^ 224 + 2 ^ 192 + 2 ^ 96 - 1
    n := 0xFFFFFFFF00000000FFFFFFFFFFFFFFFFBCE6FAADA7179E84F3B9CAC2FC632551
    b := 0x5AC635D8AA3A93E7B3EBBD55769886BC651D06B0CC53B0F63BCE3C3E27D2604B
    gx := 0x6B17D1F2E12C4247F8BCE6E563A440F277037D812DEB33A0F4A13945D898C296
    gy := 0x4FE342E2FE1A7F9B8EE7EB4A7C0F9E162BCE33576B315ECECBB6406837BF51F5 }

def p384 : PrimeCurve :=
  { p := 2 ^ 384 - 2 ^ 128 - 2 ^ 96 + 2 ^ 32 - 1
    n := 0xFFFFFFFFFFFFFFFFFFFFFFFFFFFFFFFFFFFFFFFFFFFFFFFFC7634D81F4372DDF581A0DB248B0A77AECEC196ACCC52973
    b := 0xB3312FA7E23EE7E4988E056BE3F82D19181D9C6EFE8141120314088F5013875AC656398D8A2ED19D2A85C8EDD3EC2AEF
    gx := 0xAA87CA22BE8B05378EB1C71EF320AD746E1D3B628BA79B9859F741E082542A385502F25DBF55296C3A545E3872760AB7
    gy := 0x3617DE4A96262C6F5D9E98BF9292DC29F8F41DBD289A147CE9DA3113B5F0B8C00A60B1CE1D7E819D7A431D7C90EA0E5F }

def p521 : PrimeCurve :=
  { p := 2 ^ 521 - 1
    n := 0x1FFFFFFFFFFFFFFFFFFFFFFFFFFFFFFFFFFFFFFFFFFFFFFFFFFFFFFFFFFFFFFFFFA51868783BF2F966B7FCC0148F709A5D03BB5C9B8899C47AEBB6FB71E91386409
    b := 0x51953EB9618E1C9A1F929A21A0B68540EEA2DA725B99B315F3B8B489918EF109E156193951EC7E937B1652C0BD3BB1BF073573DF883D2C34F1EF451FD46B503F00
    gx := 0xC6858E06B70404E9CD9E3ECB662395B4429C648139053FB521F828AF606B4D3DBAA14B5E77EFE75928FE1DC127A2FFA8DE3348B3C1856A429BF97E7E31C2E5BD66
    gy := 0x11839296A789A3BC0045C8A5FB42C7D1BD998F54449579B446817AFBD17273E662C97EE72995EF42640C550B9013FAD0761353C7086A272C24088BE94769FD16650 }

/-- The curve of variant 1, 2 or 3 (05 R133). -/
def primeCurve (v : Nat) : PrimeCurve := if v = 1 then p256 else if v = 2 then p384 else p521

/-- A point: `none` is the identity. -/
abbrev Point := Option (Nat × Nat)

def PrimeCurve.base (c : PrimeCurve) : Point := some (c.gx, c.gy)

/-- Both coordinates are below p and satisfy the equation. -/
def PrimeCurve.onCurve (c : PrimeCurve) (x y : Nat) : Bool :=
  decide (x < c.p) && decide (y < c.p) && y * y % c.p == (x * x * x + (c.p - 3) * x + c.b) % c.p

def PrimeCurve.add (c : PrimeCurve) (a b : Point) : Point :=
  match a, b with
  | none, q => q
  | q, none => q
  | some (x, y), some (u, v) =>
    if x = u ∧ (y + v) % c.p = 0 then none
    else
      let l := if x = u then (3 * x * x + (c.p - 3)) * invPrime c.p (2 * y) % c.p
        else subMod c.p v y * invPrime c.p (subMod c.p u x) % c.p
      let w := subMod c.p (l * l) (x + u)
      some (w, subMod c.p (l * subMod c.p x w) y)

/-- A point as X, Y, Z with x = X / Z² and y = Y / Z³; Z = 0 is the identity. Sums in this form take no inverse. -/
abbrev Jacobian := Nat × Nat × Nat

def PrimeCurve.double (c : PrimeCurve) : Jacobian → Jacobian
  | (x, y, z) =>
    let p := c.p
    let zz := z * z % p
    let a := 3 * (subMod p x zz * (x + zz)) % p
    let yy := y * y % p
    let s := 4 * (x * yy) % p
    let u := subMod p (a * a) (2 * s)
    (u, subMod p (a * subMod p s u) (8 * (yy * yy)), 2 * (y * z) % p)

def PrimeCurve.sum (c : PrimeCurve) : Jacobian → Jacobian → Jacobian
  | (x, y, z), (x', y', z') =>
    let p := c.p
    if z = 0 then (x', y', z')
    else if z' = 0 then (x, y, z)
    else
      let zz := z * z % p
      let ww := z' * z' % p
      let u := x * ww % p
      let s := y * (z' * ww % p) % p
      let h := subMod p (x' * zz) u
      let r := subMod p (y' * (z * zz % p)) s
      if h = 0 then (if r = 0 then c.double (x, y, z) else (1, 1, 0))
      else
        let hh := h * h % p
        let hhh := h * hh % p
        let v := u * hh % p
        let w := subMod p (r * r) (hhh + 2 * v)
        (w, subMod p (r * subMod p v w) (s * hhh), h * (z * z' % p) % p)

/-- Doubling and adding over the scalar's bits from the least significant. -/
def PrimeCurve.mulBits (c : PrimeCurve) : List Bool → Jacobian → Jacobian → Jacobian
  | [], _, acc => acc
  | b :: t, q, acc => c.mulBits t (c.double q) (if b then c.sum acc q else acc)

def PrimeCurve.mul (c : PrimeCurve) (k : Nat) (q : Point) : Point :=
  match q with
  | none => none
  | some (x, y) =>
    let (u, v, z) := c.mulBits (bitsOf (bitWidth k) k) (x, y, 1) (1, 1, 0)
    if z = 0 then none
    else
      let i := invPrime c.p z
      let ii := i * i % c.p
      some (u * ii % c.p, v * (i * ii % c.p) % c.p)

/-- Bytes of a coordinate, and of an order, in an octet string. -/
def PrimeCurve.bytes (c : PrimeCurve) : Nat := (bitWidth c.p + 7) / 8

/-- The uncompressed octet string: 0x04, x, y (05). -/
def PrimeCurve.encode (c : PrimeCurve) (q : Point) : Bytes :=
  match q with
  | some (x, y) => 4 :: (be c.bytes x ++ be c.bytes y)
  | none => []

/-- The point of an octet string, when it has the right length and lies on the curve (07 R195). -/
def PrimeCurve.decode (c : PrimeCurve) (bs : Bytes) : Point :=
  let x := numBe (piece bs 1 c.bytes)
  let y := numBe (piece bs (1 + c.bytes) c.bytes)
  if bs.length = 1 + 2 * c.bytes ∧ bs.headD 0 = 4 ∧ c.onCurve x y then some (x, y) else none

/-- The leftmost bits of a digest, as many as the order has. -/
def PrimeCurve.hashNum (c : PrimeCurve) (h : Bytes) : Nat :=
  let l := bitWidth c.n
  if l < 8 * h.length then numBe h / 2 ^ (8 * h.length - l) else numBe h

/-- A signature by scalar `d`, nonce `k` and the digest's number, or `none` when the nonce gives a zero. -/
def PrimeCurve.sign (c : PrimeCurve) (d k e : Nat) : Option (Nat × Nat) :=
  match c.mul k c.base, invMod c.n k with
  | some (x, _), some i =>
    let r := x % c.n
    let s := i * (e + r * d) % c.n
    if r = 0 ∨ s = 0 then none else some (r, s)
  | _, _ => none

def PrimeCurve.verify (c : PrimeCurve) (q : Point) (r s e : Nat) : Bool :=
  if r = 0 ∨ s = 0 ∨ c.n ≤ r ∨ c.n ≤ s then false
  else match invMod c.n s with
    | none => false
    | some w =>
      match c.add (c.mul (e * w % c.n) c.base) (c.mul (r * w % c.n) q) with
      | some (x, _) => x % c.n == r
      | none => false

/-- The deterministic nonce (FIPS 186-5, A.3.3): the generator of RFC 6979 under a hash code; tries at most `fuel` candidates. -/
def nonceFrom (c : PrimeCurve) (hash : Nat) : Nat → Bytes → Bytes → Nat
  | 0, _, _ => 1
  | f + 1, k, v =>
    let need := (bitWidth c.n + 7) / 8
    let blocks := (need + digestLen hash - 1) / digestLen hash
    let (v, t) := (List.range blocks).foldl (fun (acc : Bytes × Bytes) _ =>
      let w := hmac hash k acc.1
      (w, acc.2 ++ w)) (v, [])
    let x := c.hashNum (t.take need)
    if 0 < x ∧ x < c.n then x
    else
      let k := hmac hash k (v ++ [0])
      nonceFrom c hash f k (hmac hash k v)

/-- `extra` enters as additional data (09 R249); without it the nonce is deterministic. -/
def nonceOf (c : PrimeCurve) (hash d e : Nat) (extra : Bytes) : Nat :=
  let need := (bitWidth c.n + 7) / 8
  let seed := be need d ++ be need (e % c.n) ++ extra
  let v := List.replicate (digestLen hash) (1 : Byte)
  let k := hmac hash (List.replicate (digestLen hash) 0) (v ++ 0 :: seed)
  let v := hmac hash k v
  let k := hmac hash k (v ++ 1 :: seed)
  nonceFrom c hash 64 k (hmac hash k v)

/-- A DER INTEGER, and a SEQUENCE of two. -/
def derInt (n : Nat) : Bytes :=
  let b := be (byteLen n) n
  let b := if 0x80 ≤ (b.headD 0).toNat then 0 :: b else b
  2 :: (le 1 b.length ++ b)
def derLength (n : Nat) : Bytes := if n < 128 then le 1 n else if n < 256 then 0x81 :: le 1 n else 0x82 :: be 2 n
def derPair (r s : Nat) : Bytes :=
  let b := derInt r ++ derInt s
  0x30 :: (derLength b.length ++ b)

/-- The two numbers of a canonical SEQUENCE of two INTEGERs: the ones whose encoding it is. -/
def derParse (bs : Bytes) : Option (Nat × Nat) :=
  let skip := 1 + (if (bs.getD 1 0).toNat = 0x81 then 2 else 1)
  let l := (bs.getD (skip + 1) 0).toNat
  let r := numBe (piece bs (skip + 2) l)
  let m := (bs.getD (skip + 3 + l) 0).toNat
  let s := numBe (piece bs (skip + 4 + l) m)
  if derPair r s = bs then some (r, s) else none

/-! ### Edwards curves (RFC 8032) -/

/-- a·x² + y² = 1 + d·x²·y² over p, with base point (gx, gy) of order l, and cofactor h. -/
structure Edwards where
  p : Nat
  a : Nat
  d : Nat
  l : Nat
  h : Nat
  gx : Nat
  gy : Nat
  size : Nat

/-- A square root modulo p, if the number is a square: p is 3 modulo 4, or 5 modulo 8. -/
def sqrtMod (p n : Nat) : Option Nat :=
  let r := if p % 4 = 3 then expMod n ((p + 1) / 4) p
    else
      let c := expMod n ((p + 3) / 8) p
      if c * c % p = n % p then c else c * expMod 2 ((p - 1) / 4) p % p
  if r * r % p = n % p then some r else none

/-- The x coordinate with a given lowest bit. -/
def recoverX (p a d y sign : Nat) : Option Nat :=
  let y2 := y * y % p
  match sqrtMod p (subMod p 1 y2 * invPrime p (subMod p a (d * y2)) % p) with
  | none => none
  | some x => if x = 0 ∧ sign = 1 then none else some (if x % 2 = sign then x else p - x)

def ed25519 : Edwards :=
  let p := 2 ^ 255 - 19
  let d := (p - 121665) * invPrime p 121666 % p
  let y := 4 * invPrime p 5 % p
  { p, a := p - 1, d, l := 2 ^ 252 + 27742317777372353535851937790883648493, h := 8,
    gx := (recoverX p (p - 1) d y 0).getD 0, gy := y, size := 32 }

def ed448 : Edwards :=
  let p := 2 ^ 448 - 2 ^ 224 - 1
  { p, a := 1, d := p - 39081
    l := 2 ^ 446 - 13818066809895115352007386748515426880336692474882178609894547503885, h := 4
    gx := 224580040295924300187604334099896036246789641632564134246125461686950415467406032909029192869357953282578032075146446173674602635247710
    gy := 298819210078481492676017930443930673437544040154080242095928241372331506189835876003536878655418784733982303233503462500531545062832660
    size := 57 }

/-- The curve of variant 4 or 5. -/
def edwards (v : Nat) : Edwards := if v = 4 then ed25519 else ed448

def Edwards.onCurve (c : Edwards) (x y : Nat) : Bool :=
  decide (x < c.p) && decide (y < c.p) && (c.a * x * x + y * y) % c.p == (1 + c.d * (x * x % c.p) * (y * y % c.p)) % c.p

def Edwards.add (c : Edwards) (q r : Nat × Nat) : Nat × Nat :=
  let t := c.d * (q.1 * r.1 % c.p) * (q.2 * r.2 % c.p) % c.p
  ((q.1 * r.2 + q.2 * r.1) * invPrime c.p (1 + t) % c.p,
   subMod c.p (q.2 * r.2) (c.a * (q.1 * r.1 % c.p)) * invPrime c.p (subMod c.p 1 t) % c.p)

def Edwards.mulBits (c : Edwards) : List Bool → Nat × Nat → Nat × Nat → Nat × Nat
  | [], _, acc => acc
  | b :: t, q, acc => c.mulBits t (c.add q q) (if b then c.add acc q else acc)
def Edwards.mul (c : Edwards) (k : Nat) (q : Nat × Nat) : Nat × Nat := c.mulBits (bitsOf (bitWidth k) k) q (0, 1)

/-- y with the lowest bit of x in the top bit of the last byte. -/
def Edwards.encode (c : Edwards) (q : Nat × Nat) : Bytes := le c.size (q.2 + q.1 % 2 * 2 ^ (8 * c.size - 1))
def Edwards.decode (c : Edwards) (bs : Bytes) : Option (Nat × Nat) :=
  let v := num bs
  let y := v % 2 ^ (8 * c.size - 1)
  if bs.length ≠ c.size ∨ c.p ≤ y then none
  else (recoverX c.p c.a c.d y (v / 2 ^ (8 * c.size - 1))).map (fun x => (x, y))

/-- A public key: a point that decodes and is not the identity (07 R195). -/
def Edwards.key (c : Edwards) (bs : Bytes) : Option (Nat × Nat) := (c.decode bs).bind (fun q => if q = (0, 1) then none else some q)

/-- The hash of RFC 8032, and the prefix of a form: 0 pure, 1 context, 2 prehash. -/
def Edwards.hash (c : Edwards) (m : Bytes) : Bytes := if c.size = 32 then sha512 m else shake256 m 114
def asciiOf (s : String) : Bytes := s.toList.map (fun x => BitVec.ofNat 8 x.toNat)
def Edwards.prefix (c : Edwards) (form : Nat) (ctx : Bytes) : Bytes :=
  if c.size = 32 then
    if form = 0 then [] else asciiOf "SigEd25519 no Ed25519 collisions" ++ le 1 (b2n (form == 2)) ++ le 1 ctx.length ++ ctx
  else asciiOf "SigEd448" ++ le 1 (b2n (form == 2)) ++ le 1 ctx.length ++ ctx
def Edwards.message (c : Edwards) (form : Nat) (m : Bytes) : Bytes :=
  if form = 2 then (if c.size = 32 then sha512 m else shake256 m 64) else m

/-- The scalar s and the prefix of a private key's seed. -/
def Edwards.secret (c : Edwards) (seed : Bytes) : Nat × Bytes :=
  let h := c.hash seed
  let v := num (h.take c.size)
  (if c.size = 32 then v % 2 ^ 254 / 8 * 8 + 2 ^ 254 else v % 2 ^ 447 / 4 * 4 + 2 ^ 447, h.drop c.size)

/-- The public key of the scalar s. -/
def Edwards.public (c : Edwards) (s : Nat) : Bytes := c.encode (c.mul s (c.gx, c.gy))

/-- The value r of RFC 8032 for a message in a form under a private key's prefix. -/
def Edwards.nonce (c : Edwards) (pre : Bytes) (form : Nat) (ctx m : Bytes) : Bytes :=
  c.hash (c.prefix form ctx ++ pre ++ c.message form m)

/-- The value k: the hash of R, the public key and the message. -/
def Edwards.challenge (c : Edwards) (r pub : Bytes) (form : Nat) (ctx m : Bytes) : Nat :=
  num (c.hash (c.prefix form ctx ++ r ++ pub ++ c.message form m)) % c.l

/-- R and S from s, r and a challenge that rests on R. -/
def Edwards.finish (c : Edwards) (s r k : Nat) : Bytes := c.encode (c.mul (r % c.l) (c.gx, c.gy)) ++ le c.size ((r + k * s) % c.l)

/-- The signature by s and r of a message in a form. -/
def Edwards.sign (c : Edwards) (s r : Nat) (form : Nat) (ctx m : Bytes) : Bytes :=
  c.finish s r (c.challenge (c.encode (c.mul (r % c.l) (c.gx, c.gy))) (c.public s) form ctx m)

/-- The cofactored check of a signature's halves under a challenge (05 R134): [8][S]B = [8]R + [8][k]A. -/
def Edwards.holds (c : Edwards) (a : Nat × Nat) (sig : Bytes) (k : Nat) : Bool :=
  let s := num (sig.drop c.size)
  match c.decode (sig.take c.size) with
  | none => false
  | some r => decide (s < c.l) && sig.length == 2 * c.size &&
      c.mul (c.h * s) (c.gx, c.gy) == c.add (c.mul c.h r) (c.mul (c.h * k) a)

def Edwards.verify (c : Edwards) (pub sig : Bytes) (form : Nat) (ctx m : Bytes) : Bool :=
  match c.decode pub with
  | none => false
  | some a => c.holds a sig (c.challenge (sig.take c.size) pub form ctx m)

/-! ### Montgomery curves (RFC 7748) -/

/-- Field, (A − 2)/4, base coordinate, bits and bytes of X25519 or X448. -/
structure Montgomery where
  p : Nat
  a24 : Nat
  u0 : Nat
  size : Nat

def x25519 : Montgomery := { p := 2 ^ 255 - 19, a24 := 121665, u0 := 9, size := 32 }
def x448 : Montgomery := { p := 2 ^ 448 - 2 ^ 224 - 1, a24 := 39081, u0 := 5, size := 56 }
/-- The curve of variant 10 or 11. -/
def montgomery (v : Nat) : Montgomery := if v = 10 then x25519 else x448

def Montgomery.clamp (c : Montgomery) (k : Bytes) : Nat :=
  if c.size = 32 then num k % 2 ^ 254 / 8 * 8 + 2 ^ 254 else num k % 2 ^ 447 / 4 * 4 + 2 ^ 447

/-- One step of the ladder on (x₂ : z₂), (x₃ : z₃) for a bit. -/
def Montgomery.step (c : Montgomery) (u : Nat) (v : (Nat × Nat) × (Nat × Nat)) (bit : Bool) : (Nat × Nat) × (Nat × Nat) :=
  let p := c.p
  let (q, r) := if bit then (v.2, v.1) else v
  let a := (q.1 + q.2) % p
  let b := subMod p q.1 q.2
  let aa := a * a % p
  let bb := b * b % p
  let e := subMod p aa bb
  let da := subMod p r.1 r.2 * a % p
  let cb := (r.1 + r.2) * b % p
  let sum := (da + cb) % p
  let dif := subMod p da cb
  let q := (aa * bb % p, e * (aa + c.a24 * e) % p)
  let r := (sum * sum % p, u * (dif * dif) % p)
  if bit then (r, q) else (q, r)

def Montgomery.ladder (c : Montgomery) (k u : Nat) : Nat :=
  let (q, _) := ((bitsOf (8 * c.size) k).reverse).foldl (c.step u) ((1, 0), (u, 1))
  q.1 * invPrime c.p q.2 % c.p

/-- The u coordinate of an octet string: X25519 masks the top bit. -/
def Montgomery.coord (c : Montgomery) (u : Bytes) : Nat := (if c.size = 32 then num u % 2 ^ 255 else num u) % c.p
def Montgomery.apply (c : Montgomery) (k u : Bytes) : Bytes := le c.size (c.ladder (c.clamp k) (c.coord u))
def Montgomery.public (c : Montgomery) (k : Bytes) : Bytes := c.apply k (le c.size c.u0)
/-- The coordinate lies on the curve and not on its twist: u³ + Au² + u is a square. -/
def Montgomery.onCurve (c : Montgomery) (u : Bytes) : Bool :=
  let x := c.coord u
  (sqrtMod c.p (x * (x * x + (4 * c.a24 + 2) * x + 1))).isSome

/-! ### RSA (RFC 8017) -/

/-- The private key p, q in the order of 07 R178 as modulus and private exponent for e = 65,537. -/
structure RsaKey where
  n : Nat
  d : Nat

def rsaOf (key : Bytes) : RsaKey :=
  let h := key.length / 2
  let p := num (key.take h)
  let q := num (key.drop h)
  { n := p * q, d := (invMod ((p - 1) * (q - 1)) 65537).getD 0 }

/-- The blinded signature of a representative (07 R191) from the random operand: 16 bytes of exponent blinding, which cancel,
then r_0. `none` when r has no inverse, or when the result fails its check (07 R195). -/
def rsaSign (key : Bytes) (m : Nat) (random : Bytes) : Option Nat :=
  let k := rsaOf key
  let r := 1 + num (piece random 16 (key.length + 8)) % (k.n - 1)
  match invMod k.n r with
  | none => none
  | some i =>
    let s := expMod (m * expMod r 65537 k.n % k.n) k.d k.n * i % k.n
    if expMod s 65537 k.n = m % k.n then some s else none

/-- MGF1 with a hash code. -/
def mgf1 (hash : Nat) (seed : Bytes) (n : Nat) : Bytes :=
  ((List.range ((n + digestLen hash - 1) / digestLen hash)).flatMap (fun i =>
    hashOf hash (seed ++ be 4 i) (digestLen hash))).take n

/-- The last byte of a hash code's object identifier. -/
def hashOid (hash : Nat) : Nat := [0, 1, 2, 3, 8, 9, 10].getD hash 0

/-- EMSA-PKCS1-v1_5 of a digest in `n` bytes. -/
def pkcs1 (hash : Nat) (digest : Bytes) (n : Nat) : Bytes :=
  let l := digest.length
  let info : Bytes := [0x30] ++ le 1 (l + 17) ++ [0x30, 13, 6, 9, 0x60, 0x86, 0x48, 1, 0x65, 3, 4, 2] ++ le 1 (hashOid hash) ++
    [5, 0, 4] ++ le 1 l ++ digest
  [0, 1] ++ List.replicate (n - 3 - info.length) 0xFF ++ 0 :: info

/-- EMSA-PSS of a digest with a salt, in `bits` bits; `none` when it does not fit. -/
def pss (hash : Nat) (digest salt : Bytes) (bits : Nat) : Option Bytes :=
  let n := (bits + 7) / 8
  let l := digest.length
  if n < l + salt.length + 2 then none
  else
    let h := hashOf hash (List.replicate 8 0 ++ digest ++ salt) l
    let db := List.replicate (n - salt.length - l - 2) 0 ++ 1 :: salt
    let masked := xorBytes db (mgf1 hash h (n - l - 1))
    some (be (n - l - 1) (numBe masked % 2 ^ (bits - 8 * l - 8)) ++ h ++ [0xBC])

/-- Whether an encoded message of `bits` bits is EMSA-PSS of a digest with a salt of `saltLen` bytes. -/
def pssHolds (hash : Nat) (digest em : Bytes) (saltLen bits : Nat) : Bool :=
  let n := (bits + 7) / 8
  let l := digest.length
  let masked := em.take (n - l - 1)
  let h := piece em (n - l - 1) l
  let db := be (n - l - 1) (numBe (xorBytes masked (mgf1 hash h (n - l - 1))) % 2 ^ (bits - 8 * l - 8))
  let salt := db.drop (n - l - 1 - saltLen)
  decide (l + saltLen + 2 ≤ n) && pss hash digest salt bits == some em

end Sys2Proof.Machine
end

