-- ==== Sys2Proof/Machine/StdLattice.lean ====
section
/-! DEFINITION. ML-KEM (FIPS 203) and ML-DSA (FIPS 204), which 00 R9 names. A polynomial is a list of 256 numbers below q. -/

namespace Sys2Proof.Machine

abbrev Poly := List Nat

/-! ### The two rings -/

/-- A ring: modulus, root of unity, and layers of its transform. -/
structure Ring2 where
  q : Nat
  root : Nat
  layers : Nat

def ringK : Ring2 := { q := 3329, root := 17, layers := 7 }
def ringD : Ring2 := { q := 8380417, root := 1753, layers := 8 }

/-- The low `n` bits of a number in reverse order. -/
def bitRev : Nat → Nat → Nat
  | 0, _ => 0
  | n + 1, i => i % 2 * 2 ^ n + bitRev n (i / 2)

/-- The twiddle factor of block `i`, blocks numbered 1, 2 to 3, 4 to 7 and so on down the layers. -/
def Ring2.zeta (f : Ring2) (i : Nat) : Nat := expMod f.root (bitRev f.layers i) f.q

def Ring2.addP (f : Ring2) (a b : Poly) : Poly := List.zipWith (addMod f.q) a b
def Ring2.subP (f : Ring2) (a b : Poly) : Poly := List.zipWith (subMod f.q) a b
def Ring2.scale (f : Ring2) (k : Nat) (a : Poly) : Poly := a.map (fun x => k * x % f.q)

/-- The transform of a block, layer by layer, and its inverse. -/
def Ring2.forward (f : Ring2) : Nat → Nat → Poly → Poly
  | 0, _, l => l
  | d + 1, i, l =>
    let a := l.take (l.length / 2)
    let b := f.scale (f.zeta i) (l.drop (l.length / 2))
    f.forward d (2 * i) (f.addP a b) ++ f.forward d (2 * i + 1) (f.subP a b)
def Ring2.inverse (f : Ring2) : Nat → Nat → Poly → Poly
  | 0, _, l => l
  | d + 1, i, l =>
    let u := f.inverse d (2 * i) (l.take (l.length / 2))
    let v := f.inverse d (2 * i + 1) (l.drop (l.length / 2))
    f.scale ((f.q + 1) / 2) (f.addP u v) ++ f.scale ((f.q + 1) / 2 * invPrime f.q (f.zeta i) % f.q) (f.subP u v)

def Ring2.ntt (f : Ring2) (a : Poly) : Poly := f.forward f.layers 1 a
def Ring2.intt (f : Ring2) (a : Poly) : Poly := f.inverse f.layers 1 a

/-- The product in the transformed domain: coefficient by coefficient, or for q = 3,329 pair by pair modulo X² − γ. -/
def pairProducts (q : Nat) (g : Nat → Nat) : Nat → Poly → Poly → Poly
  | i, a :: b :: t, c :: d :: u =>
    (a * c + b * d % q * g i) % q :: (a * d + b * c) % q :: pairProducts q g (i + 1) t u
  | _, _, _ => []
def Ring2.mulP (f : Ring2) (a b : Poly) : Poly :=
  if f.layers = 8 then List.zipWith (fun x y => x * y % f.q) a b
  else pairProducts f.q (fun i => expMod f.root (2 * bitRev 7 i + 1) f.q) 0 a b

def zeroPoly : Poly := List.replicate 256 0
/-- The sum of products of two vectors. -/
def Ring2.dot (f : Ring2) (a b : List Poly) : Poly := (List.zipWith f.mulP a b).foldl f.addP zeroPoly
/-- The residue of least absolute value, and its absolute value. -/
def centred (q x : Nat) : Int := if 2 * x ≤ q then (x : Int) else (x : Int) - q
def normOf (q : Nat) (a : Poly) : Nat := a.foldl (fun m x => max m (centred q x).natAbs) 0

/-! ### Packing and sampling -/

/-- Numbers below 2^d as a little-endian string of bits, and back. -/
def packBits (d : Nat) (a : List Nat) : Bytes := le ((a.length * d + 7) / 8) (a.foldr (fun x n => x + 2 ^ d * n) 0)
def unpackBits (d n : Nat) (bs : Bytes) : List Nat :=
  let v := num bs
  (List.range n).map (fun i => v / 2 ^ (d * i) % 2 ^ d)

/-- Three bytes as two candidates of 12 bits, or one of 23; those below q are accepted. -/
def triplesK : Bytes → List Nat
  | a :: b :: c :: t =>
    let x := a.toNat + 256 * (b.toNat % 16)
    let y := b.toNat / 16 + 16 * c.toNat
    (if x < 3329 then [x] else []) ++ (if y < 3329 then [y] else []) ++ triplesK t
  | _ => []
def triplesD : Bytes → List Nat
  | a :: b :: c :: t =>
    let x := a.toNat + 256 * b.toNat + 65536 * (c.toNat % 128)
    (if x < 8380417 then [x] else []) ++ triplesD t
  | _ => []
/-- Half bytes as coefficients of size at most η. -/
def halvesD (eta : Nat) (bs : Bytes) : List Nat :=
  let one (x : Nat) : List Nat :=
    if eta = 2 then (if x < 15 then [(8380417 + 2 - x % 5) % 8380417] else [])
    else if x < 9 then [(8380417 + 4 - x) % 8380417] else []
  bs.flatMap (fun b => one (b.toNat % 16) ++ one (b.toNat / 16))

/-- Squeeze blocks until 256 numbers are accepted: the polynomial and the blocks it took. -/
def sampleFrom (rate : Nat) (accept : Bytes → List Nat) : Nat → Nat → Lanes → List Nat → Poly × Nat
  | 0, used, _, acc => (padPoly acc, used)
  | n + 1, used, a, acc =>
    if 256 ≤ acc.length then (acc.take 256, used)
    else sampleFrom rate accept n (used + 1) (keccak a) (acc ++ accept ((laneBytes a).take rate))
where
  padPoly (acc : List Nat) : Poly := (acc ++ zeroPoly).take 256

/-- The state of SHAKE after absorbing a string shorter than its rate. -/
def shakeState (rate : Nat) (m : Bytes) : Lanes :=
  let q := rate - m.length % rate
  let p : Bytes := if q = 1 then [0x9F] else 0x1F :: (List.replicate (q - 2) 0 ++ [0x80])
  (chunks rate (m ++ p)).foldl absorbBlock (List.replicate 25 0)

def sampleA (accept : Bytes → List Nat) (seed : Bytes) : Poly × Nat := sampleFrom 168 accept 64 0 (shakeState 168 seed) []
def sampleEta (eta : Nat) (seed : Bytes) : Poly × Nat := sampleFrom 136 (halvesD eta) 64 0 (shakeState 136 seed) []

/-- The centred binomial distribution over 64η bytes. -/
def cbd (eta : Nat) (bs : Bytes) : Poly :=
  let ones (n : Nat) : Nat := (List.range eta).foldl (fun k i => k + n / 2 ^ i % 2) 0
  (unpackBits (2 * eta) 256 bs).map (fun n => subMod 3329 (ones n) (ones (n / 2 ^ eta)))

/-! ### ML-KEM (FIPS 203) -/

/-- Rank, η₁, d_u, d_v of parameter set 1, 2 or 3. -/
structure KemSet where
  k : Nat
  eta1 : Nat
  du : Nat
  dv : Nat

def kemSet (v : Nat) : KemSet :=
  if v = 1 then { k := 2, eta1 := 3, du := 10, dv := 4 } else if v = 2 then { k := 3, eta1 := 2, du := 10, dv := 4 }
  else { k := 4, eta1 := 2, du := 11, dv := 5 }

def compress (d : Nat) (a : Poly) : List Nat := a.map (fun x => (x * 2 ^ (d + 1) + 3329) / 6658 % 2 ^ d)
def decompress (d : Nat) (a : List Nat) : Poly := a.map (fun y => (2 * 3329 * y + 2 ^ d) / 2 ^ (d + 1))

/-- Row i, column j of the public matrix; transposed, column i. -/
def kemRow (v : Nat) (rho : Bytes) (i : Nat) (transposed : Bool) : List Poly :=
  (List.range (kemSet v).k).map (fun j =>
    (sampleA triplesK (rho ++ (if transposed then [BitVec.ofNat 8 i, BitVec.ofNat 8 j] else [BitVec.ofNat 8 j, BitVec.ofNat 8 i]))).1)

def kemNoise (eta : Nat) (seed : Bytes) (start n : Nat) : List Poly :=
  (List.range n).map (fun i => cbd eta (shake256 (seed ++ le 1 (start + i)) (64 * eta)))

/-- The encapsulation key and the secret vector of a seed d. -/
def kemKeys (v : Nat) (d : Bytes) : Bytes × List Poly :=
  let f := ringK
  let p := kemSet v
  let g := sha3 64 (d ++ le 1 p.k)
  let rho := g.take 32
  let s := (kemNoise p.eta1 (g.drop 32) 0 p.k).map f.ntt
  let e := (kemNoise p.eta1 (g.drop 32) p.k p.k).map f.ntt
  let t := (List.range p.k).map (fun i => f.addP (f.dot (kemRow v rho i false) s) (e.getD i zeroPoly))
  (t.flatMap (packBits 12) ++ rho, s)

/-- Encryption of a 32-byte message under randomness r. -/
def kemEncrypt (v : Nat) (ek m r : Bytes) : Bytes :=
  let f := ringK
  let p := kemSet v
  let t := (List.range p.k).map (fun i => (unpackBits 12 256 (piece ek (384 * i) 384)).map (· % 3329))
  let rho := piece ek (384 * p.k) 32
  let y := (kemNoise p.eta1 r 0 p.k).map f.ntt
  let e1 := kemNoise 2 r p.k p.k
  let e2 := kemNoise 2 r (2 * p.k) 1
  let u := (List.range p.k).map (fun i => f.addP (f.intt (f.dot (kemRow v rho i true) y)) (e1.getD i zeroPoly))
  let w := f.addP (f.addP (f.intt (f.dot t y)) (e2.getD 0 zeroPoly)) (decompress 1 (unpackBits 1 256 m))
  u.flatMap (fun x => packBits p.du (compress p.du x)) ++ packBits p.dv (compress p.dv w)

def kemDecrypt (v : Nat) (s : List Poly) (ct : Bytes) : Bytes :=
  let f := ringK
  let p := kemSet v
  let u := (List.range p.k).map (fun i => decompress p.du (unpackBits p.du 256 (piece ct (32 * p.du * i) (32 * p.du))))
  let w := decompress p.dv (unpackBits p.dv 256 (ct.drop (32 * p.du * p.k)))
  packBits 1 (compress 1 (f.subP w (f.intt (f.dot s (u.map f.ntt)))))

/-- Shared secret and ciphertext from 32 random bytes. -/
def kemEncaps (v : Nat) (ek m : Bytes) : Bytes × Bytes :=
  let g := sha3 64 (m ++ sha3 32 ek)
  (g.take 32, kemEncrypt v ek m (g.drop 32))

/-- The shared secret of a ciphertext under the seeds d and z; implicit rejection when it does not re-encrypt. -/
def kemDecaps (v : Nat) (d z ct : Bytes) : Bytes :=
  let (ek, s) := kemKeys v d
  let m := kemDecrypt v s ct
  let g := sha3 64 (m ++ sha3 32 ek)
  if kemEncrypt v ek m (g.drop 32) = ct then g.take 32 else shake256 (z ++ ct) 32

/-- The check of an encapsulation key: its length, and every coefficient below q. -/
def kemKeyOk (v : Nat) (ek : Bytes) : Bool :=
  let k := (kemSet v).k
  ek.length == 384 * k + 32 && (List.range k).all (fun i => (unpackBits 12 256 (piece ek (384 * i) 384)).all (fun x => decide (x < 3329)))

/-! ### ML-DSA (FIPS 204) -/

structure DsaSet where
  k : Nat
  l : Nat
  eta : Nat
  tau : Nat
  gamma1 : Nat
  gamma2 : Nat
  omega : Nat
  /-- Bytes of the commitment hash. -/
  ctilde : Nat

/-- The parameter set of variant 7, 8 or 9. -/
def dsaSet (v : Nat) : DsaSet :=
  if v = 7 then { k := 4, l := 4, eta := 2, tau := 39, gamma1 := 2 ^ 17, gamma2 := 95232, omega := 80, ctilde := 32 }
  else if v = 8 then { k := 6, l := 5, eta := 4, tau := 49, gamma1 := 2 ^ 19, gamma2 := 261888, omega := 55, ctilde := 48 }
  else { k := 8, l := 7, eta := 2, tau := 60, gamma1 := 2 ^ 19, gamma2 := 261888, omega := 75, ctilde := 64 }

/-- Bits of a coefficient of y or z. -/
def DsaSet.zBits (p : DsaSet) : Nat := Nat.log2 p.gamma1 + 1
def DsaSet.beta (p : DsaSet) : Nat := p.tau * p.eta

def dsaMatrix (p : DsaSet) (rho : Bytes) : List (List Poly) :=
  (List.range p.k).map (fun r => (List.range p.l).map (fun s =>
    (sampleA triplesD (rho ++ [BitVec.ofNat 8 s, BitVec.ofNat 8 r])).1))

/-- Low 13 bits around zero, and the rest. -/
def power2Round (x : Nat) : Nat × Nat :=
  let lo := if 4096 < x % 8192 then subMod 8380417 (x % 8192) 8192 else x % 8192
  (subMod 8380417 x lo / 8192, lo)

/-- High and low parts with respect to 2γ₂. -/
def decompose (g x : Nat) : Nat × Nat :=
  let a := 2 * g
  let lo := if g < x % a then subMod 8380417 (x % a) a else x % a
  let d := subMod 8380417 x lo
  if d = 8380416 then (0, subMod 8380417 lo 1) else (d / a, lo)

/-- The expanded key of a seed. -/
structure DsaKey where
  pk : Bytes
  rho : Bytes
  hide : Bytes
  tr : Bytes
  s1 : List Poly
  s2 : List Poly
  t0 : List Poly

def dsaKey (v : Nat) (seed : Bytes) : DsaKey :=
  let f := ringD
  let p := dsaSet v
  let h := shake256 (seed ++ le 1 p.k ++ le 1 p.l) 128
  let rho := h.take 32
  let secret (i : Nat) : Poly := (sampleEta p.eta (piece h 32 64 ++ le 2 i)).1
  let s1 := (List.range p.l).map secret
  let s2 := (List.range p.k).map (fun i => secret (p.l + i))
  let t := List.zipWith (fun row e => f.addP (f.intt (f.dot row (s1.map f.ntt))) e) (dsaMatrix p rho) s2
  let pk := rho ++ t.flatMap (fun a => packBits 10 (a.map (fun x => (power2Round x).1)))
  { pk, rho, hide := h.drop 96, tr := shake256 pk 64, s1, s2, t0 := t.map (fun a => a.map (fun x => (power2Round x).2)) }

/-- The challenge polynomial of a hash: τ coefficients ±1. -/
def sampleBall (tau : Nat) (c : Bytes) : Poly :=
  let bs := shake256 c 2176
  let signs := num (bs.take 8)
  ((bs.drop 8).foldl (fun (acc : Nat × Poly) b =>
    let (n, a) := acc
    let i := 256 - tau + n
    if tau ≤ n ∨ i < b.toNat then acc
    else (n + 1, (a.set i (a.getD b.toNat 0)).set b.toNat (if bit signs n then 8380416 else 1))) (0, zeroPoly)).2

/-- The packed high parts of w. -/
def w1Bytes (p : DsaSet) (w1 : List Poly) : Bytes := w1.flatMap (packBits (if p.gamma2 = 95232 then 6 else 4))

/-- z with each coefficient taken from γ₁. -/
def packZ (p : DsaSet) (z : List Poly) : Bytes := z.flatMap (fun a => packBits p.zBits (a.map (subMod 8380417 p.gamma1)))
def unpackZ (p : DsaSet) (bs : Bytes) : List Poly :=
  let n := 32 * p.zBits
  (List.range p.l).map (fun i => (unpackBits p.zBits 256 (piece bs (n * i) n)).map (subMod 8380417 p.gamma1))

/-- The places of a hint's ones, row by row, with a running count for each row. -/
def packHint (p : DsaSet) (h : List (List Bool)) : Bytes :=
  let places := h.map (fun row => (List.range 256).filter (fun i => row.getD i false))
  let counts := (List.range p.k).map (fun i => (places.take (i + 1)).foldl (fun n r => n + r.length) 0)
  padTo p.omega (places.flatten.map (BitVec.ofNat 8)) ++ counts.map (BitVec.ofNat 8)

/-- The hint that a string packs: the one whose packing it is. -/
def unpackHint (p : DsaSet) (bs : Bytes) : Option (List (List Bool)) :=
  let count (i : Nat) : Nat := if i = 0 then 0 else (bs.getD (p.omega + i - 1) 0).toNat
  let h := (List.range p.k).map (fun i =>
    let here := (piece bs (count i) (count (i + 1) - count i)).map (·.toNat)
    (List.range 256).map (fun j => here.contains j))
  if (List.range p.k).all (fun i => decide (count i ≤ count (i + 1)) && decide (count (i + 1) ≤ p.omega)) ∧ packHint p h = bs
  then some h else none

/-- One turn of the signing loop at counter `kappa`: a signature, unless a bound rejects it. -/
def dsaTry (v : Nat) (k : DsaKey) (a : List (List Poly)) (mu mask : Bytes) (kappa : Nat) : Option Bytes :=
  let f := ringD
  let q := f.q
  let p := dsaSet v
  let y := (List.range p.l).map (fun r =>
    (unpackBits p.zBits 256 (shake256 (mask ++ le 2 (kappa + r)) (32 * p.zBits))).map (subMod q p.gamma1))
  let w := a.map (fun row => f.intt (f.dot row (y.map f.ntt)))
  let w1 := w.map (fun x => x.map (fun c => (decompose p.gamma2 c).1))
  let ct := shake256 (mu ++ w1Bytes p w1) p.ctilde
  let c := f.ntt (sampleBall p.tau ct)
  let times (s : Poly) : Poly := f.intt (f.mulP c (f.ntt s))
  let z := List.zipWith (fun b s => f.addP b (times s)) y k.s1
  let r := List.zipWith (fun b s => f.subP b (times s)) w k.s2
  let r0 := r.map (fun x => x.map (fun c => (decompose p.gamma2 c).2))
  let ct0 := k.t0.map times
  let hint := List.zipWith (fun x t => List.zipWith (fun b u =>
    (decompose p.gamma2 b).1 != (decompose p.gamma2 (addMod q b u)).1) x t) r ct0
  let ones := hint.foldl (fun n row => n + (row.filter id).length) 0
  if z.any (fun b => decide (p.gamma1 - p.beta ≤ normOf q b)) || r0.any (fun b => decide (p.gamma2 - p.beta ≤ normOf q b)) ||
      ct0.any (fun b => decide (p.gamma2 ≤ normOf q b)) || decide (p.omega < ones) then none
  else some (ct ++ packZ p z ++ packHint p hint)

/-- At most `n` turns of the loop: the signature, and the turns that it took. -/
def dsaLoop (turn : Nat → Option Bytes) (l : Nat) : Nat → Nat → Option (Bytes × Nat)
  | 0, _ => none
  | n + 1, done => match turn (done * l) with
    | some s => some (s, done + 1)
    | none => dsaLoop turn l n (done + 1)

/-- A signature of a formatted message with randomness `rnd`, when `n` turns suffice, and the turns that it took. -/
def dsaSign (v : Nat) (seed msg rnd : Bytes) (n : Nat) : Option (Bytes × Nat) :=
  let p := dsaSet v
  let k := dsaKey v seed
  let mu := shake256 (k.tr ++ msg) 64
  dsaLoop (dsaTry v k (dsaMatrix p k.rho) mu (shake256 (k.hide ++ rnd ++ mu) 64)) p.l n 0

def dsaVerify (v : Nat) (pk msg sig : Bytes) : Bool :=
  let f := ringD
  let q := f.q
  let p := dsaSet v
  let nz := 32 * p.zBits * p.l
  let ct := sig.take p.ctilde
  let z := unpackZ p (piece sig p.ctilde nz)
  match unpackHint p (sig.drop (p.ctilde + nz)) with
  | none => false
  | some h =>
    let t1 := (List.range p.k).map (fun i => (unpackBits 10 256 (piece pk (32 + 320 * i) 320)).map (fun x => x * 8192 % q))
    let c := f.ntt (sampleBall p.tau ct)
    let mu := shake256 (shake256 pk 64 ++ msg) 64
    let w := List.zipWith (fun row t => f.intt (f.subP (f.dot row (z.map f.ntt)) (f.mulP c (f.ntt t)))) (dsaMatrix p (pk.take 32)) t1
    let m := 8380416 / (2 * p.gamma2)
    let use (b : Bool) (x : Nat) : Nat :=
      let (r1, r0) := decompose p.gamma2 x
      if !b then r1 else if 0 < centred q r0 then (r1 + 1) % m else (r1 + m - 1) % m
    let w1 := List.zipWith (fun hr wr => List.zipWith use hr wr) h w
    sig.length == p.ctilde + nz + p.omega + p.k && z.all (fun b => decide (normOf q b < p.gamma1 - p.beta)) &&
      shake256 (mu ++ w1Bytes p w1) p.ctilde == ct

/-- The message of a form: 0 pure, or 1 with a hash code (05 R133); SHAKE gives 32 or 64 bytes. -/
def dsaMessage (form hash : Nat) (ctx m : Bytes) : Bytes :=
  le 1 form ++ le 1 ctx.length ++ ctx ++
    (if form = 0 then m else [6, 9, 0x60, 0x86, 0x48, 1, 0x65, 3, 4, 2] ++ le 1 ([0, 1, 2, 3, 8, 9, 10, 11, 12].getD hash 0) ++
      hashOf hash m (if hash = 7 then 32 else 64))

end Sys2Proof.Machine
end

