-- ==== Sys2Proof/Machine/StdPay.lean ====
section
/-! DEFINITION. The payment standards that 00 R9 names: PIN blocks (ISO 9564-1), the two PIN verification methods of 05 R127,
AES DUKPT (ANSI X9.24-3), cryptograms (EMV Book 2) and key blocks (ANSI X9.143). Log entry 62 says what of them the model
takes from outside the spec. -/

namespace Sys2Proof.Machine

/-! ### Half bytes and text -/

/-- Half bytes, the high one first, and back. -/
def nibbles (bs : Bytes) : List Nat := bs.flatMap (fun b => [b.toNat / 16, b.toNat % 16])
def ofNibbles : List Nat → Bytes
  | a :: b :: t => BitVec.ofNat 8 (16 * a + b) :: ofNibbles t
  | _ => []

/-- The numbers of ASCII digits. -/
def asciiDigits (bs : Bytes) : List Nat := bs.map (fun b => (b.toNat - 0x30) % 10)

/-- The value of an ASCII hexadecimal digit. -/
def hexVal (b : Byte) : Nat := let n := b.toNat; if n < 0x3A then n - 0x30 else if n < 0x47 then n - 0x37 else n - 0x57
def hexChar (n : Nat) : Byte := BitVec.ofNat 8 (if n < 10 then 0x30 + n else 0x37 + n)
def isHex (b : Byte) : Bool :=
  let n := b.toNat
  (decide (0x30 ≤ n) && decide (n ≤ 0x39)) || (decide (0x41 ≤ n) && decide (n ≤ 0x46)) || (decide (0x61 ≤ n) && decide (n ≤ 0x66))
def toHex (bs : Bytes) : Bytes := (nibbles bs).map hexChar
def ofHex (bs : Bytes) : Bytes := ofNibbles (bs.map hexVal)
/-- A number in `n` decimal digits, and as hexadecimal ones. -/
def decText (n v : Nat) : Bytes := (numeralsOf 10 n v).map hexChar
def hexText (n v : Nat) : Bytes := (numeralsOf 16 n v).map hexChar

/-! ### PIN blocks (ISO 9564-1) -/

/-- The PAN field of formats 0 and 3: the 12 rightmost digits but the check digit, with zeros before them where there are fewer. -/
def panField (pan : List Nat) : List Nat :=
  let d := pan.dropLast.drop (pan.length - 13)
  List.replicate (16 - d.length) 0 ++ d
/-- The PAN field of format 4: its length less 12, and the digits. -/
def panField4 (pan : List Nat) : Bytes := ofNibbles (((pan.length - 12) :: pan ++ List.replicate 32 0).take 32)

def xorNibbles (a b : List Nat) : List Nat := List.zipWith (fun x y => x ^^^ y) a b

/-- The clear block of a PIN in format 0, 1 or 3; `fill` are 14 half bytes for the formats that take random fill. -/
def pinField (format : Nat) (pin fill : List Nat) : List Nat :=
  let rest := fill.drop pin.length
  if format = 1 then ([1, pin.length] ++ pin ++ rest).take 16
  else if format = 3 then ([3, pin.length] ++ pin ++ rest.map (fun x => 10 + x % 6)).take 16
  else ([0, pin.length] ++ pin ++ List.replicate 14 15).take 16

/-- A PIN enciphered in a format. -/
def pinEncipher (format : Nat) (key : Bytes) (pin pan : List Nat) (fill : Bytes) : Bytes :=
  let f := nibbles (padTo 8 fill)
  if format = 4 then
    let plain := ofNibbles (([4, pin.length] ++ pin ++ List.replicate 14 10).take 16) ++ padTo 8 fill
    aesEnc key (xorBytes (aesEnc key plain) (panField4 pan))
  else
    let block := pinField format pin (f.take 14)
    tdesEnc key (ofNibbles (if format = 1 then block else xorNibbles block (panField pan)))

/-- The PIN of an enciphered block, when its control field, length and fill conform (05 R128). -/
def pinDecipher (format : Nat) (key block : Bytes) (pan : List Nat) : Option (List Nat) :=
  let clear :=
    if format = 4 then (nibbles (aesDec key (xorBytes (aesDec key block) (panField4 pan)))).take 16
    else
      let b := nibbles (tdesDec key block)
      if format = 1 then b else xorNibbles b (panField pan)
  let l := clear.getD 1 0
  let pin := (clear.drop 2).take l
  let fill := clear.drop (2 + l)
  let fillOk := if format = 0 then fill.all (· == 15) else if format = 4 then fill.all (· == 10)
    else if format = 3 then fill.all (fun x => decide (10 ≤ x)) else true
  if clear.getD 0 0 = format ∧ 4 ≤ l ∧ l ≤ 12 ∧ pin.all (fun x => decide (x < 10)) ∧ fillOk then some pin else none

/-! ### PIN verification (05 R127) -/

/-- Method 1: the natural PIN of the validation characters under the decimalisation table, with the offset added. The last
`offset` digits of the PIN are compared. -/
def pinOffsetHolds (key validation : Bytes) (table : List Nat) (offset pin : List Nat) : Bool :=
  let c := (nibbles (tdesEnc key (ofHex validation))).map (fun x => table.getD x 0)
  let natural := (c.take pin.length).drop (pin.length - offset.length)
  decide (offset.length ≤ pin.length) &&
    List.zipWith (fun a b => (a + b) % 10) natural offset == pin.drop (pin.length - offset.length)

/-- The digits of a verification value: decimal ones first, then A to F less 10. -/
def pvvDigits (l : List Nat) : List Nat := l.filter (fun x => decide (x < 10)) ++ (l.filter (fun x => decide (10 ≤ x))).map (· - 10)

/-- Method 2: the verification value over 11 PAN digits, the key index and the first 4 PIN digits. -/
def pinValueHolds (key : Bytes) (pan : List Nat) (index : Nat) (reference pin : List Nat) : Bool :=
  let tsp := (pan.dropLast.reverse.take 11).reverse ++ [index] ++ pin.take 4
  (pvvDigits (nibbles (tdesEnc key (ofNibbles tsp)))).take reference.length == reference

/-! ### AES DUKPT (ANSI X9.24-3) -/

/-- Algorithm indicator and length in bits of key type 1 to 4 (05 R130). -/
def dukptAlg (t : Nat) : Nat × Nat := if t = 1 then (0, 128) else if t = 2 then (2, 128) else if t = 3 then (3, 192) else (4, 256)

/-- Derived key bytes: the cipher over the derivation data with a running block count. -/
def dukptDerive (key : Bytes) (usage t : Nat) (context : Bytes) : Bytes :=
  let (alg, len) := dukptAlg t
  ((List.range ((len + 127) / 128)).flatMap (fun i =>
    aesEnc key ([1] ++ be 1 (i + 1) ++ be 2 usage ++ be 2 alg ++ be 2 len ++ context))).take (len / 8)

/-- The key type of an AES key's length. -/
def aesType (key : Bytes) : Nat := if key.length = 16 then 2 else if key.length = 24 then 3 else 4

/-- The working key of a base derivation key, key serial number and usage. -/
def dukptKey (bdk ksn : Bytes) (usage t : Nat) : Bytes :=
  let d := aesType bdk
  let counter := numBe (piece ksn 8 4)
  let id := piece ksn 4 4
  let initial := dukptDerive bdk 0x8001 d (ksn.take 8)
  let last := ((List.range 32).foldl (fun (acc : Bytes × Nat) i =>
    let m := 2 ^ (31 - i)
    if bit counter (31 - i) then (dukptDerive acc.1 0x8000 d (id ++ be 4 (acc.2 + m)), acc.2 + m) else acc) (initial, 0)).1
  dukptDerive last usage t (id ++ be 4 counter)

/-! ### Cryptograms (EMV Book 2) -/

/-- Odd parity, as a DES key's bytes have it. -/
def oddParity (b : Byte) : Byte :=
  let n := (List.range 7).foldl (fun k i => k + b2n (b.getLsbD (i + 1))) 0
  (b &&& 0xFE) ||| (if n % 2 = 0 then 1 else 0)

/-- The 16 digits Y of option A, and of option B over a PAN of more than 16 digits. -/
def emvDigits (option : Nat) (pan : List Nat) (psn : Byte) : List Nat :=
  let all := pan ++ nibbles [psn]
  if option = 2 ∧ 16 < pan.length then
    let packed := if all.length % 2 = 0 then all else 0 :: all
    (pvvDigits (nibbles (sha1 (ofNibbles packed)))).take 16
  else
    let l := List.replicate 16 0 ++ all
    l.drop (l.length - 16)

/-- The card's master key under an issuer master key of TDES or AES. Option A and B for an AES key: the 16 digits are left-padded
with 8 zero bytes to a block, which the chapter does not say (log entry 72). -/
def emvMaster (isTdesKey : Bool) (imk : Bytes) (option : Nat) (pan : List Nat) (psn : Byte) : Bytes :=
  let y := ofNibbles (emvDigits option pan psn)
  let inv (b : Bytes) : Bytes := b.map (fun x => ~~~x)
  if isTdesKey then (tdesEnc imk y ++ tdesEnc imk (inv y)).map oddParity
  else
    let z := List.replicate 8 0 ++ y
    (aesEnc imk z ++ aesEnc imk (inv z)).take imk.length

/-- The common session key of an application transaction counter. -/
def emvSession (isTdesKey : Bool) (mk atc : Bytes) : Bytes :=
  if isTdesKey then
    (tdesEnc mk (padTo 8 (atc ++ [0xF0])) ++ tdesEnc mk (padTo 8 (atc ++ [0x0F]))).map oddParity
  else if mk.length = 16 then aesEnc mk (padTo 16 atc)
  else (aesEnc mk (padTo 16 (atc ++ [0xF0])) ++ aesEnc mk (padTo 16 (atc ++ [0x0F]))).take mk.length

/-- The cryptogram over transaction data. -/
def emvMac (isTdesKey : Bool) (sk m : Bytes) : Bytes := if isTdesKey then mac3 sk m 2 else (cmac (aes sk) m).take 8

/-- The response cryptogram of method 1 (with a response code) or 2 (with a status update). -/
def emvArpc (isTdesKey : Bool) (sk arqc response : Bytes) (method : Nat) : Bytes :=
  if method = 1 then
    let y := xorBytes arqc (padTo 8 (response.take 2))
    if isTdesKey then tdesEnc sk y else (aesEnc sk (padTo 16 y)).take 8
  else (emvMac isTdesKey sk (arqc ++ response.take 4)).take 4

/-! ### Key blocks (ANSI X9.143) -/

/-- An optional block: its two characters and its data. -/
structure OptBlock where
  id : Bytes
  data : Bytes
  deriving DecidableEq, Repr

/-- What a key block says: version, usage, algorithm, mode, key version, exportability, optional blocks, and the key. -/
structure KeyBlock where
  version : Byte
  usage : Bytes
  alg : Byte
  mode : Byte
  keyVersion : Bytes
  export_ : Byte
  opts : List OptBlock
  key : Bytes
  deriving DecidableEq, Repr

/-- The 16 header characters and the optional blocks before the enciphered part; `len` is the whole length. -/
def OptBlock.bytes (o : OptBlock) : Bytes :=
  let n := o.data.length + 4
  if n < 256 then o.id ++ hexText 2 n ++ o.data else o.id ++ asciiOf "0002" ++ hexText 4 (o.data.length + 10) ++ o.data
def KeyBlock.header (b : KeyBlock) (len : Nat) : Bytes :=
  [b.version] ++ decText 4 len ++ b.usage ++ [b.alg, b.mode] ++ b.keyVersion ++ [b.export_] ++ decText 2 b.opts.length ++
    asciiOf "00" ++ b.opts.flatMap OptBlock.bytes

/-- Encryption and authentication keys of a wrapping key: CMAC over counter, purpose, algorithm and length. -/
def blockKey (isTdesKey : Bool) (key : Bytes) (purpose : Nat) : Bytes :=
  let l := key.length
  let size := if isTdesKey then 8 else 16
  let alg := if isTdesKey then (if l = 16 then 0 else 1) else if l = 16 then 2 else if l = 24 then 3 else 4
  ((List.range ((l + size - 1) / size)).flatMap (fun i =>
    cmac (cipherOf isTdesKey key) (be 1 (i + 1) ++ be 2 purpose ++ [0] ++ be 2 alg ++ be 2 (8 * l)))).take l

/-- The optional blocks with a padding block that makes their length a multiple of the cipher's. -/
def padOpts (size : Nat) (opts : List OptBlock) : List OptBlock :=
  let n := (opts.flatMap OptBlock.bytes).length
  if n % size = 0 then opts
  else
    let m := (size - n % size) + (if (size - n % size) < 4 then size else 0)
    opts ++ [{ id := asciiOf "PB", data := List.replicate (m - 4) 0x30 }]

/-- Wrap a key: length and padding, the tag over header and plaintext, then the enciphered part. `pad` are random bytes. -/
def KeyBlock.wrap (b : KeyBlock) (isTdesKey : Bool) (key pad : Bytes) : Bytes :=
  let c (k : Bytes) : Block := cipherOf isTdesKey k
  let size := (c key).size
  let b := { b with opts := padOpts size b.opts }
  let body := be 2 (8 * b.key.length) ++ b.key
  let plain := body ++ padTo ((size - body.length % size) % size) pad
  let len := (b.header 0).length + 2 * plain.length + 2 * size
  let h := b.header len
  let mac := cmac (c (blockKey isTdesKey key 1)) (h ++ plain)
  h ++ toHex (cbcEnc (c (blockKey isTdesKey key 0)) mac plain) ++ toHex mac

/-- Optional blocks from the front of a text, `n` of them: the blocks and the text after them. -/
def parseOpts : Nat → Bytes → Option (List OptBlock × Bytes)
  | 0, t => some ([], t)
  | n + 1, t =>
    let short := numBe (ofHex (piece t 2 2))
    let extended := short == 0 && (t.drop 4).take 2 == asciiOf "02"
    let l := if extended then numBe (ofHex (piece t 6 4)) else short
    let h := if extended then 10 else 4
    if t.length < l ∨ l < h ∨ !((t.drop 2).take 2).all isHex then none
    else (parseOpts n (t.drop l)).map (fun r => ({ id := t.take 2, data := (t.take l).drop h } :: r.1, r.2))

/-- Unwrap a block under a wrapping key: `none` when its format or its tag fails. -/
def KeyBlock.unwrap (isTdesKey : Bool) (key block : Bytes) : Option KeyBlock :=
  let c (k : Bytes) : Block := cipherOf isTdesKey k
  let size := (c key).size
  let version : Byte := if isTdesKey then 0x42 else 0x44
  let isDec (bs : Bytes) : Bool := bs.all (fun x => decide (0x30 ≤ x.toNat) && decide (x.toNat ≤ 0x39))
  let text (off n : Nat) : Nat := numeralsNum 10 (asciiDigits (piece block off n))
  if block.length < 16 ∨ block.headD 0 ≠ version ∨ !isDec (piece block 1 4) ∨ !isDec (piece block 12 2) ∨
      text 1 4 ≠ block.length then none
  else
    match parseOpts (text 12 2) (block.drop 16) with
    | none => none
    | some (opts, body) =>
      if body.length < 4 * size ∨ body.length % (2 * size) ≠ 0 ∨ !body.all isHex then none
      else
        let mac := ofHex (body.drop (body.length - 2 * size))
        let plain := cbcDec (c (blockKey isTdesKey key 0)) mac (ofHex (body.take (body.length - 2 * size)))
        let head := block.take (block.length - body.length)
        let bits := numBe (plain.take 2)
        if cmac (c (blockKey isTdesKey key 1)) (head ++ plain) ≠ mac ∨ bits % 8 ≠ 0 ∨ plain.length < 2 + bits / 8 then none
        else some { version, usage := piece block 5 2, alg := block.getD 7 0, mode := block.getD 8 0
                    keyVersion := piece block 9 2, export_ := block.getD 11 0, opts, key := piece plain 2 (bits / 8) }

/-- A check value: method 0 is the cipher over zeros, method 1 its CMAC over them. -/
def keyCheckValue (isTdesKey : Bool) (key : Bytes) (method n : Nat) : Bytes :=
  let c := cipherOf isTdesKey key
  let z := List.replicate c.size 0
  (if method = 0 then c.enc z else cmac c z).take n

end Sys2Proof.Machine
end

