-- ==== Sys2Proof/Machine/KeyForm.lean ====
section
/-! DEFINITION. Keys as heartwood holds them (09 R239, 07 R178): lengths, public keys, the per-signature secret (09 R249), the
generation of key material (09 R244), and the key blocks that carry a key in and out (05 R132, 09 R243, R245). -/

namespace Sys2Proof.Machine

/-! ### Lengths and public keys -/

/-- Bytes of a key in heartwood; `n` is the length of an HMAC or KMAC key (R237 to R240, 07 R178, R180). -/
def keyLen (alg n : Nat) : Nat :=
  match alg with
  | 0x01 => 16
  | 0x02 => 24
  | 0x03 => 32
  | 0x04 => 16
  | 0x05 => 24
  | 0x06 => 32
  | 0x07 => 64
  | 0x08 => n
  | 0x09 => n
  | 0x0A => 32
  | 0x20 => 256
  | 0x21 => 384
  | 0x22 => 512
  | 0x28 => 32
  | 0x29 => 48
  | 0x2A => 72
  | 0x30 => 64
  | 0x31 => 116
  | 0x32 => 32
  | 0x33 => 56
  | 0x40 => 32
  | 0x41 => 32
  | 0x42 => 32
  | _ => 64

/-- Length of the public key of a private algorithm, as verification input has it (R133, R244). -/
def publicLen (alg : Nat) : Nat := if latticeOf alg != 0 then kemEk (latticeOf alg) else pubLen (variantOf alg) (modLen alg)

/-- R179: an RSA private key is p and q of exactly n/2 bits each. -/
def rsaKeyOk (n : Nat) (key : Bytes) : Bool :=
  let h := n / 16
  key.length == n / 8 && bit (field key (h - 1) 1) 7 && bit (field key (2 * h - 1) 1) 7

/-- The scalar s and the prefix of an Edwards key: each has the octets of the curve's encoding (log entry 62). -/
def edScalar (v : Nat) (key : Bytes) : Nat := num (piece key 0 (edwards v).size)
def edPrefix (v : Nat) (key : Bytes) : Bytes := piece key (edwards v).size (edwards v).size

/-- The public key of a stored key (R239, R244), in the encodings of 05. -/
def publicOf (alg : Nat) (key : Bytes) : Bytes :=
  let v := variantOf alg
  if latticeOf alg ≠ 0 then (kemKeys (latticeOf alg) (key.take 32)).1
  else if 1 ≤ v ∧ v ≤ 3 then (primeCurve v).encode ((primeCurve v).mul (num key) (primeCurve v).base)
  else if v = 4 ∨ v = 5 then (edwards v).public (edScalar v key)
  else if v = 6 then be (modLen alg) (rsaOf key).n ++ be 4 65537
  else if 7 ≤ v ∧ v ≤ 9 then (dsaKey v key).pk
  else (montgomery v).public key

/-! ### The per-signature secret (09 R249) -/

/-- The hash of the nonce procedure: the one that byte 48 names; a digest or SHAKE takes the curve's (log entry 62). -/
def nonceHash (code v : Nat) : Nat := if 1 ≤ code ∧ code ≤ 6 then code else v

/-- The digest of a message under a hash code: code 0 is a digest already; SHAKE gives 32 or 64 bytes (log entry 62). -/
def messageDigest (code : Nat) (m : Bytes) : Bytes := if code = 0 then m else hashOf code m (if code = 7 then 32 else 64)

/-- Limb bytes of a prime curve's scalars (07 R180). -/
def scalarLen (v : Nat) : Nat := if v = 1 then 32 else if v = 2 then 48 else 72

/-- The secret from the key, parameter bytes 48 to 51, the staged input, and the additional data of hedged mode: the nonce k of
ECDSA, or the value r of RFC 8032. -/
def signSecret (alg : Nat) (key params input extra : Bytes) : Bytes :=
  let v := variantOf alg
  let p (i : Nat) : Nat := field params i 1
  if v ≤ 3 then
    let c := primeCurve v
    le (scalarLen v) (nonceOf c (nonceHash (p 0) v) (num key) (c.hashNum (messageDigest (p 0) input)) extra)
  else
    padTo (if v = 4 then 64 else 116) ((edwards v).nonce (edPrefix v key) (p 0) (input.take (p 1)) (input.drop (p 1)))

/-- Algorithms whose LOAD brings a per-signature secret (R249). -/
def signs (alg : Nat) : Bool := decide (0x28 ≤ alg ∧ alg ≤ 0x31)

/-- Bytes of additional data that a LOAD draws: 32 in hedged mode, not on a DUAL queue (R249). -/
def hedgeLen (alg : Nat) (params : Bytes) (dual : Bool) : Nat :=
  if alg ≤ 0x2A ∧ field params 1 1 = 0 ∧ !dual then 32 else 0

/-! ### Generating keys (R244) -/

/-- One Miller–Rabin round to a base. -/
def millerRabin (n base : Nat) : Bool :=
  let s := ((List.range (bitWidth n)).find? (fun i => bit (n - 1) i)).getD 0
  let x := expMod base ((n - 1) / 2 ^ s) n
  x == 1 || (List.range s).any (fun i => expMod x (2 ^ i) n == n - 1)

/-- The first prime from an odd number on, in steps of 2, that suits e = 65,537. -/
def nextPrime : Nat → Nat → Nat
  | 0, n => n
  | f + 1, n =>
    if (n - 1) % 65537 != 0 && (primes80.take 30).all (fun q => n % q != 0) && (primes80.take 20).all (millerRabin n) then n
    else nextPrime f (n + 2)

/-- A prime pair for an RSA key of `n` bytes from `n` random bytes: the two top bits of each prime are set (R179; log entry 62). -/
def primePair (n : Nat) (r : Bytes) : Bytes :=
  let h := n / 2
  let start (bs : Bytes) : Nat := let x := num bs % 2 ^ (8 * h - 2) + 3 * 2 ^ (8 * h - 2); x + (1 - x % 2)
  le h (nextPrime 16384 (start (r.take h))) ++ le h (nextPrime 16384 (start (r.drop h)))

/-- Random bytes from which a key is made. -/
def drawLen (alg n : Nat) : Nat :=
  if 0x28 ≤ alg ∧ alg ≤ 0x2A then n + 8 else if alg = 0x30 then 32 else if alg = 0x31 then 57 else n

/-- The key that drawn bytes make: a scalar is reduced to 1 up to n − 1, an Edwards seed is expanded (log entry 62). -/
def keyFrom (alg n : Nat) (r : Bytes) : Bytes :=
  let v := variantOf alg
  if 1 ≤ v ∧ v ≤ 3 then le n (1 + num r % ((primeCurve v).n - 1))
  else if v = 4 ∨ v = 5 then
    let (s, pre) := (edwards v).secret r
    padTo n (le (edwards v).size s ++ pre)
  else padTo n r

/-! ### Signatures of the module itself -/

/-- The DevID private key, derived from the device seed and the rework count in a way that is open (13 R343, R356, log entry 7). -/
def devidKey (rework : Nat) : Bytes := keyFrom 0x29 48 (stdBytes .devid [(List.range 32).map Config.deviceSeed, le 2 rework] 56)

/-- ECDSA P-384 with SHA-384 and nonce k, r followed by s, big-endian. -/
def p384SignWith (key m : Bytes) (k : Nat) : Bytes :=
  match p384.sign (num key) k (p384.hashNum (sha384 m)) with
  | some (r, s) => be 48 r ++ be 48 s
  | none => List.replicate 96 0

/-- The same with a nonce from a number, where the rules give the nonce no form. -/
def p384Sign (key m : Bytes) (nonce : Nat) : Bytes := p384SignWith key m (1 + nonce % (p384.n - 1))

/-- Its check under a public key. -/
def p384Holds (pub m sig : Bytes) : Bool :=
  (p384.decode pub).isSome && p384.verify (p384.decode pub) (numBe (sig.take 48)) (numBe ((sig.drop 48).take 48))
    (p384.hashNum (sha384 m))

/-! ### Usage words (R241, R242) -/

/-- Usage codes with their two characters. -/
def usageNames : List (Nat × String) :=
  [(0x01, "B0"), (0x02, "D0"), (0x03, "E0"), (0x05, "K1"), (0x06, "M1"), (0x07, "M3"), (0x08, "M6"), (0x09, "M7"), (0x0A, "P0"),
    (0x0B, "S0"), (0x0C, "V1"), (0x0D, "V2"), (0x10, "10"), (0x11, "11"), (0x12, "12"), (0x13, "13"), (0x14, "14")]
def usageCodes : List Nat := usageNames.map (·.1)
def usageText (code : Nat) : Bytes := asciiOf (((usageNames.find? (fun p => p.1 == code)).map (·.2)).getD "00")
def usageOf (text : Bytes) : Option Nat := (usageNames.find? (fun p => asciiOf p.2 == text)).map (·.1)

/-- Modes of use and exportability in the order of their codes. -/
def modeChars : Bytes := asciiOf "NBCDEGSVX"
def exportChars : Bytes := asciiOf "NES"
def charIndex (l : Bytes) (b : Byte) : Option Nat := if l.contains b then some (l.findIdx (· == b)) else none

/-- A usage word without a reserved encoding (R241, R242). -/
def usageOk (u : Nat) : Bool := usageCodes.contains (bits u 7 0) && decide (bits u 11 8 ≤ 8) && decide (bits u 13 12 ≤ 2)

/-! ### Key blocks -/

/-- Strength in bits of the ciphers' keys; that of the other algorithms is a standard's (log entry 62). -/
def strength (alg : Nat) : Nat :=
  match alg with
  | 0x01 => 128
  | 0x02 => 192
  | 0x03 => 256
  | 0x04 => 80
  | 0x05 => 112
  | 0x06 => 128
  | 0x07 => 256
  | _ => Config.stdNat .strength [le 1 alg]

/-- A wrapping key is weaker than a key: an AES key under a TDES key (05 R132), or a key of less strength. -/
def weaker (wrap alg : Nat) : Bool :=
  (isTdes wrap && decide (alg ≤ 0x0A) && !isTdes alg) || decide (strength wrap < strength alg)

/-- The algorithm character of a header. -/
def algChar (alg : Nat) : Byte :=
  (asciiOf (if isTdes alg then "T" else if alg ≤ 0x07 then "A" else if alg ≤ 0x0A then "H" else if alg ≤ 0x22 then "R"
    else if alg ≤ 0x33 then "E" else "Q")).headD 0

/-- The algorithm that a header's character, the key's length and its usage name where no '10' block does. -/
def algFrom (ch : Byte) (n usage : Nat) : Option Nat :=
  let of (alg : Nat) : Option Nat := if algChar alg = ch then some alg else none
  if ch = algChar 1 then (if n = 16 then of 1 else if n = 24 then of 2 else if n = 32 then of 3 else if n = 64 then of 7 else none)
  else if ch = algChar 4 then (if n = 16 then of 4 else if n = 24 then of 5 else none)
  else if ch = algChar 8 then of (if usage = 0x10 then 9 else if usage = 0x14 then 0x0A else 8)
  else if ch = algChar 0x20 then (if n = 256 then of 0x20 else if n = 384 then of 0x21 else if n = 512 then of 0x22 else none)
  else none

/-- Length that an algorithm's key may have (R239, R240). -/
def lenOk (alg n : Nat) : Bool := if alg = 8 ∨ alg = 9 then decide (16 ≤ n ∧ n ≤ 64) else n == keyLen alg 0

/-- The data of the optional block with two characters. -/
def KeyBlock.opt (b : KeyBlock) (id : String) : Option Bytes := (b.opts.find? (fun o => o.id == asciiOf id)).map (·.data)

/-- The module's algorithm code: from a '10' block, required for 'E' and 'Q', or from the header (R243). -/
def KeyBlock.code (b : KeyBlock) (usage : Nat) : Option Nat :=
  match b.opt "10" with
  | some d =>
    let a := num (ofHex d)
    if d.length = 2 ∧ d.all isHex ∧ (isSym a || isPriv a) ∧ algChar a = b.alg then some a else none
  | none => algFrom b.alg b.key.length usage

/-- The fixed field of a '11' block (R243): `none` when its eight digits are not hexadecimal. -/
def KeyBlock.fixedField (b : KeyBlock) : Option (Option Bytes) :=
  match b.opt "11" with
  | none => some none
  | some d => if d.length = 8 ∧ d.all isHex then some (some (ofHex d)) else none

/-- A 'KP' block holds: two digits of the method, then the check value of the key (R243). That of a key that is no cipher's is a
standard's verdict. -/
def KeyBlock.checkOk (b : KeyBlock) (alg : Nat) : Bool :=
  match b.opt "KP" with
  | none => true
  | some d =>
    let v := ofHex (d.drop 2)
    if isTdes alg || isAes alg then
      2 < d.length && d.all isHex && v == keyCheckValue (isTdes alg) b.key (num (ofHex (d.take 2))) v.length
    else Config.stdHolds .checkValue [b.key, d]

/-- A block as a wrapping key opens it: an X9.143 block under its own rules (R243), and one that is none where the key accepts the
TK-48 forms. Which blocks are in such a form, and what they say, is open: the spec does not describe the forms (00 R10; log entry 62). -/
def openBlock (wrapAlg : Nat) (key block : Bytes) (forms : Bool) : Option KeyBlock :=
  match KeyBlock.unwrap (isTdes wrapAlg) key block with
  | some b => some b
  | none =>
    if forms && Config.stdHolds .tkForm [key, block] then
      let get (k n : Nat) : Bytes := stdBytes .tkForm [key, block, le 1 k] n
      some { version := 0, usage := get 0 2, alg := (get 1 1).headD 0, mode := (get 2 1).headD 0, keyVersion := asciiOf "00"
             export_ := (get 3 1).headD 0, opts := [], key := get 4 (Config.stdNat .tkForm [key, block] % 513) }
    else none

/-- What an opened block says in the module's codes: algorithm, usage word and fixed field, where all are encoded (R243). The
ECB and CLEAR bits and byte 35 bit [7] stand in no field of X9.143; the block's issuer sets them in a way that the spec does not
give, so they are open functions of the block (log entry 62). -/
structure Meaning where
  alg : Nat
  usage : Nat
  fixed : Option Bytes
  forms : Bool
  deriving DecidableEq, Repr

def KeyBlock.meaning (b : KeyBlock) (block : Bytes) : Option Meaning :=
  match usageOf b.usage, charIndex modeChars b.mode, charIndex exportChars b.export_, b.fixedField with
  | some u, some m, some e, some fixed =>
    match b.code u with
    | none => none
    | some alg =>
      let flag (k : Nat) : Bool := Config.stdHolds .blockFlag [block, le 1 k]
      if lenOk alg b.key.length && b.checkOk alg then
        some { alg, usage := u + m * 2 ^ 8 + e * 2 ^ 12 + b2n (flag 0) * 2 ^ 14 + b2n (flag 1) * 2 ^ 15, fixed, forms := flag 2 }
      else none
  | _, _, _, _ => none

/-- The block that carries a stored key (R245): algorithms 0x28 to 0x42 carry a '10' block. -/
def Slot.keyBlock (x : Slot) : KeyBlock :=
  { version := 0, usage := usageText x.code, alg := algChar x.alg, mode := modeChars.getD x.mode 0, keyVersion := asciiOf "00"
    export_ := exportChars.getD x.exportable 0
    opts := if 0x28 ≤ x.alg ∧ x.alg ≤ 0x42 then [{ id := asciiOf "10", data := hexText 2 x.alg }] else []
    key := x.key }

/-- A block wrapped under a key of the module: version 'B' under TDES, 'D' under AES. -/
def wrapBlock (b : KeyBlock) (wrapAlg : Nat) (key pad : Bytes) : Bytes :=
  let b : KeyBlock := { b with version := if isTdes wrapAlg then 0x42 else 0x44 }
  b.wrap (isTdes wrapAlg) key pad

end Sys2Proof.Machine
end

