-- ==== Sys2Proof/Machine/Staging.lean ====
section
/-! DEFINITION. The DRAM staging buffers of jobs (06 R151, 01 R24, R33): where a job's entries, its input and its output lie.
Which addresses the buffers take is the model's choice (log entry 19). -/

namespace Sys2Proof.Machine

/-- DRAM that staging may use: below the integrity tags (01 R24). -/
def stageBase : Nat := 0x1000000000
def stageEnd : Nat := 0x13C0000000

/-- A length in whole lines of 64 bytes. -/
def lines (n : Nat) : Nat := (n + 63) / 64 * 64

/-- Bytes of a job's input side and of one output, and of the whole buffer: each copy of a DUAL job has its own output (06 R160). -/
def Job.inSide (x : Job) : Nat := 64 * x.entries.length + lines x.inLen
def Job.outSide (x : Job) : Nat := lines x.outCap
def Job.bufSize (x : Job) : Nat := x.inSide + 2 * x.outSide

/-- Where a job's entries, its input, and the output of its copy in a grove lie. -/
def Job.bufAt (x : Job) : Nat := x.buf.getD 0
def Job.inputAt (x : Job) : Nat := x.bufAt + 64 * x.entries.length
def Job.outputAt (x : Job) (g : Bool) : Nat := x.bufAt + x.inSide + (if g then x.outSide else 0)

/-- A released buffer that is large enough, of the partition or of another one. -/
def State.freeBuf (s : State) (own : Bool) (p n : Nat) : Option Nat :=
  (s.stage.find? (fun b => b.2.job.isNone && (b.2.partition == p) == own && decide (n ≤ b.2.size))).map (fun b => b.1)

/-- The end of the buffers made so far. -/
def State.stageTop (s : State) : Nat :=
  match s.stage.getLast? with
  | some b => b.1 + b.2.size
  | none => stageBase

/-- A job takes a buffer: one that its partition released, or new DRAM, or one of another partition, which is zero-filled first
(R151). Where none is left the job has none yet, and waits (log entry 19). -/
def State.stageJob (s : State) (j : Nat) : State :=
  match s.job? j with
  | none => s
  | some x =>
    let n := x.bufSize
    let give (s : State) (a size : Nat) : State :=
      { (s.modJob j (fun x => { x with buf := some a })) with
        stage := tblSet s.stage a { size, partition := x.partition, job := some j } }
    match s.freeBuf true x.partition n with
    | some a => give s a (((tblGet s.stage a).map (fun b => b.size)).getD n)
    | none =>
      let a := s.stageTop
      if a + n ≤ stageEnd then give s a n
      else match s.freeBuf false x.partition n with
        | some a =>
          let size := ((tblGet s.stage a).map (fun b => b.size)).getD n
          give (s.zero a size) a size
        | none => s

/-- The entries and the input of a job go into its buffer. -/
def State.stageInput (s : State) (j : Nat) : State :=
  match s.job? j with
  | some x => if x.buf.isSome then s.wr x.bufAt (x.entries.flatten ++ x.input) else s
  | none => s

/-- Jobs without a buffer take one as soon as there is one, in their order. -/
def State.restage (s : State) : State :=
  s.each ((s.jobs.filter (fun p => p.2.buf.isNone)).map (fun p => p.1)) (fun s j =>
    let s := s.stageJob j
    if ((s.job? j).any (fun x => x.staged)) then s.stageInput j else s)

/-- The output of a copy goes into the job's buffer (06 R149 step 9). -/
def State.stageOutput (s : State) (j : Nat) (g : Bool) (out : Bytes) : State :=
  match s.job? j with
  | some x => if x.buf.isSome then s.wr (x.outputAt g) out else s
  | none => s

end Sys2Proof.Machine
end

