-- ==== Sys2Proof/Machine/Install.lean ====
section
/-! DEFINITION. What the trunk writes into a grove before its cells take plans: the leaf kernel (11 R288, 13 R347), the custom-function
packages (11 R317), and the entries of the access table that go with them (12 R329). -/

namespace Sys2Proof.Machine

/-! ### The leaf kernel -/

/-- The leaf kernel, which keeps to the low 16 KiB of instruction SRAM (11 R287); its code is not given (log entry 55). -/
def kernelImage : Bytes := (List.range (Config.leafKernelLength % 0x4001)).map Config.leafKernel

/-- The trunk loads the leaf kernel into a cell's instruction SRAM (11 R288). -/
def State.loadKernel (s : State) (c : Nat) : State := s.wr (cellBase c) kernelImage

/-! ### Packages (11 R317) -/

/-- First grove-SRAM address of a package's code region of 64 KiB. -/
def Custom.base (h : Custom) : Nat := 0x0200000000 + h.page * 65536

/-- Packages of the running image that are installed in a grove. -/
def State.installed (s : State) (g : Bool) : List Custom := s.image.customs.filter (fun h => !(s.grove g).notInstalled.contains h.code)

/-- A package goes into the memory of a grove. -/
def State.installPackage (s : State) (g : Bool) (h : Custom) : State := s.wr (groveBase g + h.page * 65536) h.package

/-! ### The access table (12 R329) -/

/-- Bits of an entry that are not reserved. -/
def entryMask : BitVec 64 := 0x7FFFFFFF3FFF7FFF

/-- The write permissions of both levels. -/
def entryWrites : BitVec 64 := 0x2400

/-- The region of an entry: its base and its size. -/
def entryRegion (e : AtEntry) : Nat × Nat := (bits e.toNat 62 32 * 512, 2 ^ bits e.toNat 29 24)

/-- No entry grants write permission to a custom function's code region: one that meets such a region has none (11 R317; log entry
19). -/
def State.barWrites (s : State) (g : Bool) (e : AtEntry) : AtEntry :=
  let (a, n) := entryRegion e
  if (s.installed g).any (fun h => decide (a < h.base + 65536) && decide (h.base < a + n)) then e &&& ~~~entryWrites else e

/-- Entry of a package's code region: valid, for its partition, to be fetched and read by both levels. -/
def Custom.entryOf (h : Custom) : AtEntry :=
  BitVec.ofNat 64 (1 + h.partition % 64 * 8 + 0x5A00 + 16 * 2 ^ 24 + h.base / 512 * 2 ^ 32)

/-- Entry 0 is kernel code, 1 kernel data, 2 + p the DRAM staging region of partition p: which entry it is, and which region it names,
is open (log entry 19). -/
def kernelEntry (g : Bool) (i : Nat) : AtEntry :=
  let e := (Config.tableEntry g i &&& entryMask) ||| 1
  if i < 2 then e else BitVec.ofNat 64 (setBits (setBits (setBits e.toNat 8 1 ((i - 2) * 4)) 13 12 3) 10 9 3)

/-- The entries that the trunk writes with the leaf kernel and the installed packages. -/
def State.kernelTable (s : State) (g : Bool) : Tbl AtEntry :=
  (List.range 66).map (fun i => (i, s.barWrites g (kernelEntry g i))) ++
    (s.installed g).zipIdx.map (fun p => (66 + p.2, p.1.entryOf))

/-- The leaf kernel, the table and the packages go into a grove that has been wiped. A package whose digest differs is not installed, and
a DRAM_INTEGRITY record is made (11 R317, 01 R13). Which of its lines the record names is free (log entry 3). -/
def State.installPackages (s : State) (g : Bool) (packageBad : List Nat) : State :=
  let s := s.each (cellsOf g) (fun s c => s.loadKernel c)
  let bad := (s.image.customs.map (fun h => h.code)).filter (fun c => packageBad.contains c)
  let s := s.each bad (fun s _ => s.drawn.logEvent 0x0405 0xFF 0 0xFF (le 8 (stageBase + s.freeNat % (stageEnd - stageBase) / 64 * 64)))
  let s := s.modGrove g (fun y => { y with notInstalled := bad })
  let s := s.each (s.installed g) (fun s h => s.installPackage g h)
  s.modGrove g (fun y => { y with access := s.kernelTable g })

end Sys2Proof.Machine
end

