-- ==== Sys2Proof/Machine/FnResult.lean ====
section
/-! DEFINITION. What each transaction function computes (05 R127 to R139) from its parameters, its input, the keys that its LOADs
delivered and the randomness that it drew. -/

namespace Sys2Proof.Machine

/-- What a function is computed from. -/
structure Work where
  job : Job
  keys : Loaded
  /-- Random bytes that this copy drew (06 R149 step 7). -/
  random : Bytes
  /-- The counter value that CHECK issued (R137). -/
  value : BitVec 64
  /-- SHA-384 over the job's entries and input, which seeds the padding of a DUAL job (R124). -/
  digest : Bytes
  deriving DecidableEq, Repr

def Work.p (w : Work) (i : Nat) : Nat := field w.job.params (i - 48) 1
def Work.p2 (w : Work) (i : Nat) : Nat := field w.job.params (i - 48) 2
def Work.key (w : Work) : Bytes := w.keys.keyA.key
def Work.alg (w : Work) : Nat := w.keys.keyA.alg
def Work.input (w : Work) : Bytes := w.job.input
/-- Input bytes `off` to `off + n - 1`. -/
def Work.at (w : Work) (off n : Nat) : Bytes := piece w.input off n
def Work.cipher (w : Work) : Block := cipherOf (isTdes w.alg) w.key

/-- A status without output, and a verdict: OK or VERIFY_FAIL. -/
def stops (st : Status) : Status × Bytes := (st, [])
def verdict (b : Bool) : Status × Bytes := stops (if b then .ok else .verifyFail)
def gives (out : Bytes) : Status × Bytes := (.ok, out)

/-! ### Random bytes (R138, R139, 06 R149 step 7, 07 R194) -/

/-- Random operand of one prime-curve ladder, of an ephemeral scalar, and of an Edwards or Montgomery ladder (07 R194). -/
def ladderRandom (v : Nat) : Nat := if v = 1 then 48 else if v = 2 then 64 else if v = 3 then 88 else if v = 4 ∨ v = 10 then 48 else 72
def scalarRandom (v : Nat) : Nat := if v = 1 then 40 else if v = 2 then 56 else if v = 3 then 80 else if v = 10 then 40 else 64

/-- Padding of a block that a function emits: drawn, or on a DUAL queue from the DRBG of R124 (log entry 62). -/
def padRandom (x : Job) : Nat := if x.dual then 0 else 16

/-- Bytes of the blinding and ephemeral operand of a function, and of all that it draws; `alg` is key A's algorithm. -/
def blindRandom (x : Job) (alg : Nat) : Nat :=
  let v := variantOf alg
  match x.code with
  | 0x0601 => 2 * ladderRandom v
  | 0x0602 => if x.handleA = 0 then 0 else ladderRandom v
  | 0x0603 => 2 * ladderRandom v
  | 0x0604 => if x.handleA = 0 then 0 else ladderRandom v
  | 0x0605 => modLen alg + 24
  | 0x0701 => if x.handleA = 0 then 2 * ladderRandom (field x.params 6 1) + scalarRandom (field x.params 6 1) else ladderRandom v
  | 0x0702 => 32
  | _ => 0

/-- The random operand of the lattice transforms (07 R193, R194). How many operands a function draws is not stated: one, which its calls
share (log entry 72). -/
def transformRandom : Nat := 16

/-- MLDSA_SIGN draws its 32 bytes: not deterministic, and not on a DUAL queue (R124, R134). -/
def hedged (x : Job) : Bool := !x.dual && field x.params 2 1 != 1

def drawsRandom (x : Job) (alg : Nat) : Nat :=
  let wraps := if x.handleB = 0 then 0 else padRandom x
  match x.code with
  | 0x0501 => padRandom x
  | 0x0605 => blindRandom x alg + (if field x.params 1 1 = 2 then field x.params 2 1 else 0)
  | 0x0607 => (if hedged x then 32 else 0) + transformRandom
  | 0x0608 => transformRandom
  | 0x0701 => blindRandom x alg + wraps
  | 0x0702 => blindRandom x alg + transformRandom + wraps
  | 0x0703 => transformRandom + wraps
  | 0x0B01 => field x.params 0 4
  | 0x0C01 => 16 * field x.params 0 1
  | _ => blindRandom x alg

/-! ### Payment functions (R127 to R132) -/

/-- Random fill of a PIN block: a function of the job, so that both copies of a DUAL job form one block (log entry 62). -/
def Work.fill (w : Work) : Bytes := stdBytes .pinFill [w.digest] 8

/-- PIN_TRANSLATE, with the source key given: the block at `off`, the PAN behind it. -/
def Work.translatePin (w : Work) (src : Nat) (key : Bytes) (off : Nat) : Status × Bytes :=
  let b := if src = 4 then 16 else 8
  let pan := asciiDigits (w.at (off + b) (w.p 50))
  match pinDecipher src key (w.at off b) pan with
  | none => stops .verifyFail
  | some pin => gives (pinEncipher (w.p 49) w.keys.keyB.key pin pan w.fill)

/-- PIN_VERIFY. -/
def Work.verifyPin (w : Work) : Status × Bytes :=
  let b := if w.p 48 = 4 then 16 else 8
  let at_ := b + w.p 50
  let pan := asciiDigits (w.at b (w.p 50))
  let reference := asciiDigits (w.at at_ (w.p 51))
  match pinDecipher (w.p 48) w.key (w.at 0 b) pan with
  | none => stops .verifyFail
  | some pin =>
    if w.p 49 = 1 then
      verdict (pinOffsetHolds w.keys.keyB.key (w.at (at_ + w.p 51 + 16) 16) (asciiDigits (w.at (at_ + w.p 51) 16)) reference pin)
    else verdict (pinValueHolds w.keys.keyB.key pan (w.p 52) reference pin)

/-- The MAC of R129 over a message, with the customisation string of KMAC. -/
def macOf (alg method n : Nat) (key cust m : Bytes) : Bytes :=
  (if alg = 1 then mac1 key m method
    else if alg = 3 then mac3 key m method
    else if alg = 5 then cmac (aes key) m
    else if alg = 6 then cmac (tdes key) m
    else if alg ≤ 9 then hmac (alg - 6) key m
    else kmac (if alg = 10 then 168 else 136) key m cust n).take n

/-- The MAC of a job whose message ends before the last `tail` input bytes. -/
def Work.mac (w : Work) (tail : Nat) : Bytes :=
  let cust := w.p2 52
  macOf (w.p 48) (w.p 49) (w.p 50) w.key (w.at 0 cust) (w.at cust (w.input.length - cust - tail))

/-- Working-key usages of AES DUKPT: PIN encryption, MAC verification, data decryption (log entry 62). -/
def Work.dukpt (w : Work) (usage : Nat) : Bytes := dukptKey w.key (w.at 0 12) usage (w.p 48)
def Work.dukptCipher (w : Work) (usage : Nat) : Block := cipherOf (w.p 48 == 1) (w.dukpt usage)

/-- ARQC_VERIFY (R131). -/
def Work.arqc (w : Work) : Status × Bytes :=
  let n := w.p 51
  let t := isTdes w.alg
  let mk := emvMaster t w.key (w.p 48) (asciiDigits (w.at 0 n)) ((w.at n 1).headD 0)
  let sk := if w.p 49 = 0 then mk else emvSession t mk (w.at (n + 1) 2)
  let arqc := w.at (n + 7 + w.p2 56) 8
  if emvMac t sk (w.at (n + 7) (w.p2 56)) ≠ arqc then stops .verifyFail
  else if w.p 50 = 0 then gives []
  else gives (emvArpc t sk arqc (piece w.job.params 4 4) (w.p 50))

/-- Padding bytes of a block: the last 16 drawn, or on a DUAL queue those of the DRBG seeded with the entry digest (R124). -/
def Work.pad (w : Work) : Bytes :=
  if w.job.dual then stdBytes .blockPad [w.digest] 16 else w.random.drop (w.random.length - 16)

/-- KEYBLOCK_TRANSLATE (R132). -/
def Work.translateBlock (w : Work) : Status × Bytes :=
  match openBlock w.alg w.key w.input (bit (w.p 49) 1) with
  | none => stops .blockInvalid
  | some b =>
    let usage := (usageOf b.usage).getD 0
    if b.export_ = exportChars.getD 0 0 then stops .keyUsage
    else if weaker w.keys.keyB.alg ((b.code usage).getD (if b.alg = algChar 1 then 1 else 0)) then stops .keyUsage
    else
      let opts := if bit (w.p 49) 0 then b.opts.filter (fun o => o.id != asciiOf "PB") else []
      gives (wrapBlock { b with opts } w.keys.keyB.alg w.keys.keyB.key w.pad)

/-! ### Signatures (R133, R134) -/

/-- The public key of a verification: at the start of the input, or recomputed from key A; its length in the input. -/
def Work.variant (w : Work) : Nat := if w.job.handleA = 0 then w.p 51 else variantOf w.alg
def Work.publicIn (w : Work) : Nat := if w.job.handleA = 0 then pubLen w.variant (w.p2 52) else 0
def Work.public (w : Work) : Bytes := if w.job.handleA = 0 then w.at 0 w.publicIn else publicOf w.alg w.key

/-- ECDSA_SIGN with the nonce that the LOAD delivered. -/
def Work.ecdsaSign (w : Work) : Status × Bytes :=
  let v := variantOf w.alg
  let c := primeCurve v
  match c.sign (num w.key) (num w.keys.secret) (c.hashNum (messageDigest (w.p 48) w.input)) with
  | none => stops .cellFault
  | some (r, s) => gives (if w.p 50 = 0 then be (orderLen v) r ++ be (orderLen v) s else derPair r s)

/-- ECDSA_VERIFY. A key in the cache whose public point is the identity fails the check of EC_PUBLIC (07 R184, R195). -/
def Work.ecdsaVerify (w : Work) : Status × Bytes :=
  let c := primeCurve w.variant
  let n := orderLen w.variant
  let sig := w.at w.publicIn (w.p2 52)
  let m := w.input.drop (w.publicIn + w.p2 52)
  match c.decode w.public with
  | none => stops (if w.job.handleA = 0 then .badParameter else .cellFault)
  | some q =>
    match (if w.p 50 = 0 then some (numBe (sig.take n), numBe (sig.drop n)) else derParse sig) with
    | none => verdict false
    | some (r, s) => verdict (c.verify (some q) r s (c.hashNum (messageDigest (w.p 48) m)))

/-- EDDSA_SIGN with the value r that the LOAD delivered. -/
def Work.eddsaSign (w : Work) : Status × Bytes :=
  let v := variantOf w.alg
  gives ((edwards v).sign (edScalar v w.key) (num w.keys.secret) (w.p 48) (w.at 0 (w.p 49)) (w.input.drop (w.p 49)))

def Work.eddsaVerify (w : Work) : Status × Bytes :=
  let c := edwards w.variant
  let n := w.p 49
  let a := w.publicIn
  if (c.key w.public).isNone then stops .badParameter
  else verdict (c.verify w.public (w.at (a + n) (2 * c.size)) (w.p 48) (w.at a n) (w.input.drop (a + n + 2 * c.size)))

/-- The hash of an RSA function, and the digest: code 0 takes a digest of the length of SHA-256, 384 or 512 (R133). -/
def rsaHash (code : Nat) (m : Bytes) : Nat × Bytes :=
  if code = 0 then (if m.length = 32 then 1 else if m.length = 48 then 2 else 3, m) else (code, hashOf code m (digestLen code))

/-- RSA_SIGN: a key that breaks 07 R179 is KEY_KIND, a failed result check is CHECK_FAILED (07 R184). -/
def Work.rsaSign (w : Work) : Status × Bytes :=
  let n := modLen w.alg
  let (h, d) := rsaHash (w.p 48) w.input
  let salt := w.random.drop (n + 24)
  match (if w.p 49 = 1 then some (pkcs1 h d n) else pss h d salt (bitWidth (rsaOf w.key).n - 1)) with
  | none => stops .badParameter
  | some em =>
    if !rsaKeyOk (8 * n) w.key then stops .keyUsage
    else match Machine.rsaSign w.key (numBe em) (w.random.take (n + 24)) with
      | none => stops .cellFault
      | some s => gives (be n s)

def Work.rsaVerify (w : Work) : Status × Bytes :=
  let n := w.p2 52
  let k := numBe (w.public.take n)
  let e := numBe (w.public.drop n)
  let sig := numBe (w.at w.publicIn n)
  let (h, d) := rsaHash (w.p 48) (w.input.drop (w.publicIn + n))
  if e % 2 = 0 ∨ e < 65537 ∨ k % 2 = 0 then stops .badParameter
  else if k ≤ sig then verdict false
  else
    let x := expMod sig e k
    verdict (if w.p 49 = 1 then be n x == pkcs1 h d n
      else pssHolds h d (be ((bitWidth k + 6) / 8) x) (w.p 50) (bitWidth k - 1))

/-- Turns of the signing loop that one declared time covers (R122). -/
def loopTurns (v : Nat) : Nat := if v = 7 then 16 else if v = 8 then 13 else 12

/-- MLDSA_SIGN: the signature with the turns that it takes, within the first time and 64 extensions (R122, R124). -/
def Work.mldsaTurns (w : Work) : Option (Bytes × Nat) :=
  let v := variantOf w.alg
  let n := w.p 51
  dsaSign v w.key (dsaMessage (w.p 48) (w.p 49) (w.at 0 n) (w.input.drop n))
    (padTo 32 (if hedged w.job then w.random.take 32 else [])) (65 * loopTurns v)

def Work.mldsaVerify (w : Work) : Status × Bytes :=
  let v := w.variant
  let a := w.publicIn
  let n := w.p 52
  let m := dsaMessage (w.p 48) (w.p 49) (w.at a n) (w.input.drop (a + n + mldsaLen v))
  verdict (dsaVerify v w.public m (w.at (a + n) (mldsaLen v)))

/-! ### Agreement (R135) -/

/-- The derived key in its place in the output: raw, or wrapped in a version 'D' block under key B. The block's mode of use and
exportability are open functions of the job (log entry 62). -/
def Work.derived (w : Work) (z info : Bytes) : Bytes :=
  let k := if w.p 48 = 0 then z else kmac256 z info (asciiOf "KZ-KDF") (derivedLen 1 (w.p 49) 32)
  if w.job.handleB = 0 then k
  else
    let alg := if w.p 49 ≤ 2 then 1 else 8
    let pick (l : Bytes) (i : Nat) : Byte := l.getD (Config.stdNat .derivedMode [w.job.params, le 1 i] % l.length) 0
    wrapBlock { version := 0, usage := piece w.job.params 2 2, alg := algChar alg, mode := pick modeChars 0, keyVersion := asciiOf "00"
                export_ := pick exportChars 1, opts := [], key := k } w.keys.keyB.alg w.keys.keyB.key w.pad

/-- The ephemeral scalar of a curve of order `n`: the last random limbs reduced, 0 replaced by 1 (07 R192). -/
def ephemeral (n : Nat) (r : Bytes) : Nat := if num r % n = 0 then 1 else num r % n

/-- Order whose multiples an X microprogram's scalar is reduced by: 8ℓ and 4ℓ (07 R192). -/
def montgomeryOrder (v : Nat) : Nat := if v = 10 then 8 * ed25519.l else 4 * ed448.l

/-- Public key and shared value of an agreement by variant, scalar bytes and the peer's key; `none` when the peer's key or the
shared value is refused (07 R195). The ephemeral scalar of an X function is clamped like a key's: R192 does not say (log entry 72).
-/
def agree (v : Nat) (scalar peer : Bytes) : Option (Bytes × Bytes) :=
  if v ≤ 3 then
    let c := primeCurve v
    match c.decode peer with
    | none => none
    | some q =>
      match c.mul (num scalar) (some q) with
      | none => none
      | some (x, _) => some (c.encode (c.mul (num scalar) c.base), be c.bytes x)
  else
    let c := montgomery v
    let z := c.apply scalar peer
    if !c.onCurve peer || z.all (· == 0) then none else some (c.public scalar, z)

/-- ECDH (R135). A peer point that decodes, and a product that is the identity: the result check fails (07 R184, R195). -/
def Work.ecdh (w : Work) : Status × Bytes :=
  let v := if w.job.handleA = 0 then w.p 54 else variantOf w.alg
  let l := ladderRandom v
  let r := piece w.random (2 * l) (scalarRandom v)
  let scalar := if w.job.handleA ≠ 0 then w.key
    else if v ≤ 3 then le (scalarLen v) (ephemeral (primeCurve v).n r)
    else le (montgomery v).size (ephemeral (montgomeryOrder v) r)
  let n := pubLen v 0
  match agree v scalar (w.at 0 n) with
  | none => stops (if v ≤ 3 && ((primeCurve v).decode (w.at 0 n)).isSome then .cellFault else .badParameter)
  | some (pub, z) => gives ((if w.job.handleA = 0 then pub else []) ++ w.derived z (w.at n (w.p2 52)))

/-- MLKEM_ENCAPS and MLKEM_DECAPS (R135). -/
def Work.encaps (w : Work) : Status × Bytes :=
  let v := w.p 54
  let ek := w.at 0 (kemEk v)
  if !kemKeyOk v ek then stops .badParameter
  else
    let (z, ct) := kemEncaps v ek (w.random.take 32)
    gives (ct ++ w.derived z (w.at (kemEk v) (w.p2 52)))
def Work.decaps (w : Work) : Status × Bytes :=
  let v := latticeOf w.alg
  let z := kemDecaps v (w.key.take 32) (w.key.drop 32) (w.at 0 (kemCt v))
  gives (w.derived z (w.at (kemCt v) (w.p2 52)))

/-! ### Tokens, ciphers, hashes (R136 to R139) -/

/-- FF1 over the numerals between the kept ones, in the alphabet 0 to 9, a to z. -/
def Work.token (w : Work) (decrypt : Bool) : Bytes :=
  let body := w.input.drop (w.p 51)
  let a := w.p 49
  let n := body.length - a - w.p 50
  let digit (b : Byte) : Nat := if b.toNat < 0x3A then b.toNat - 0x30 else b.toNat - 0x57
  let char (d : Nat) : Byte := BitVec.ofNat 8 (if d < 10 then 0x30 + d else 0x57 + d)
  let x := ff1 w.key (w.at 0 (w.p 51)) (w.p 48) decrypt ((piece body a n).map digit)
  body.take a ++ x.map char ++ body.drop (a + n)

/-- Nonce of GCM_ENCRYPT and of an AES_CTR encryption: the fixed field, then the value, big-endian (R137). -/
def Work.nonce (w : Work) : Bytes := be 4 w.keys.keyA.fixed.toNat ++ be 8 w.value.toNat

def Work.gcmEncrypt (w : Work) : Bytes :=
  let a := field w.job.params 0 4
  let ct := gcmCrypt w.key w.nonce (w.input.drop a)
  w.nonce ++ ct ++ gcmTag w.key w.nonce (w.at 0 a) ct (w.p 52)
def Work.gcmDecrypt (w : Work) : Status × Bytes :=
  let iv := w.at 0 12
  let a := field w.job.params 0 4
  let n := w.input.length - 12 - a - w.p 52
  let ct := w.at (12 + a) n
  if gcmTag w.key iv (w.at 12 a) ct (w.p 52) = w.input.drop (12 + a + n) then gives (gcmCrypt w.key iv ct) else stops .verifyFail

/-- AES_CBC: padding bytes hold the pad length. -/
def Work.cbc (w : Work) : Status × Bytes :=
  let iv := w.at 0 16
  let m := w.input.drop 16
  if w.p 48 = 0 then
    let n := 16 - m.length % 16
    gives (cbcEnc w.cipher iv (if w.p 49 = 1 then m ++ List.replicate n (BitVec.ofNat 8 n) else m))
  else
    let x := cbcDec w.cipher iv m
    let n := (x.getLastD 0).toNat
    if w.p 49 = 0 then gives x
    else if 1 ≤ n ∧ n ≤ 16 ∧ n ≤ x.length ∧ (x.drop (x.length - n)).all (fun b => b.toNat == n) then gives (x.take (x.length - n))
    else stops .verifyFail

def Work.ctr (w : Work) : Bytes :=
  if w.p 48 = 0 then w.nonce ++ ctrMode w.cipher 4 (w.nonce ++ be 4 1) w.input
  else ctrMode w.cipher 4 (w.at 0 12 ++ be 4 1) (w.input.drop 12)

/-- The records of a batch: public key, signature and message of each (R139). -/
def batchRecords : Nat → Bytes → List (Bytes × Bytes × Bytes)
  | 0, _ => []
  | n + 1, bs =>
    let l := field bs 96 2
    (piece bs 0 32, piece bs 32 64, piece bs 98 l) :: batchRecords n (bs.drop ((98 + l + 7) / 8 * 8))

/-- BATCH_VERIFY_ED25519: the outcome that the rule states, all signatures valid or not; a public key that does not decode is
BAD_PARAMETER (R134, R139). The combination that a coefficient hides with a chance of 2^-128 is not modelled (log entry 62). -/
def Work.batch (w : Work) : Status × Bytes :=
  let rs := batchRecords (w.p 48) w.input
  if rs.any (fun r => (ed25519.key r.1).isNone) then stops .badParameter
  else verdict (rs.all (fun r => ed25519.verify r.1 r.2.1 0 [] r.2.2))

/-! ### The result -/

/-- The result of a function whose checks have passed (R127 to R139); `outLen` is the output length of a form that states one. A MAC
of 9 to 16 bytes under a TDES working key, for which R130 names no status, never verifies (log entry 72). -/
def Work.result (w : Work) (outLen : Nat) : Status × Bytes :=
  match w.job.code with
  | 0x0101 => w.translatePin (w.p 48) w.key 0
  | 0x0102 => w.verifyPin
  | 0x0201 => gives (w.mac 0)
  | 0x0202 => verdict (w.mac (w.p 50) == w.input.drop (w.input.length - w.p 50))
  | 0x0301 => w.translatePin 4 (w.dukpt 0x1000) 12
  | 0x0302 =>
    let m := w.input.length - w.p 49
    verdict ((cmac (w.dukptCipher 0x2001) (w.at 12 (m - 12))).take (w.p 49) == w.input.drop m)
  | 0x0303 =>
    let b := if w.p 48 = 1 then 8 else 16
    gives (cbcDec (w.dukptCipher 0x3001) (w.at 12 b) (w.input.drop (12 + b)))
  | 0x0401 => w.arqc
  | 0x0501 => w.translateBlock
  | 0x0601 => w.ecdsaSign
  | 0x0602 => w.ecdsaVerify
  | 0x0603 => w.eddsaSign
  | 0x0604 => w.eddsaVerify
  | 0x0605 => w.rsaSign
  | 0x0606 => w.rsaVerify
  | 0x0607 => match w.mldsaTurns with
    | some (sig, _) => gives sig
    | none => stops .sliceOverrun
  | 0x0608 => w.mldsaVerify
  | 0x0701 => w.ecdh
  | 0x0702 => w.encaps
  | 0x0703 => w.decaps
  | 0x0801 => gives (w.token false)
  | 0x0802 => gives (w.token true)
  | 0x0901 => gives w.gcmEncrypt
  | 0x0902 => w.gcmDecrypt
  | 0x0903 => w.cbc
  | 0x0904 => gives w.ctr
  | 0x0905 => gives (xts w.key (w.at 0 16) (w.input.drop 16) (w.p 48 == 1))
  | 0x0906 => gives (ecb (if w.p 48 = 0 then w.cipher.enc else w.cipher.dec) 16 w.input)
  | 0x0907 => gives (if w.p 48 = 0 then cbcEnc w.cipher (w.at 0 8) (w.input.drop 8) else cbcDec w.cipher (w.at 0 8) (w.input.drop 8))
  | 0x0A01 => gives (hashOf (w.p 48) w.input outLen)
  | 0x0B01 => gives w.random
  | _ => w.batch

end Sys2Proof.Machine
end

