-- ==== Sys2Proof/Machine/Heart.lean ====
section
/-! DEFINITION. Heartwood (09): handles and slots, the journal and its replication (16 R415, R416), counters, ceilings and
TK-48 ranges (08 R211 to R215, 16 R418 to R421), and the requests CHECK and LOAD. -/

namespace Sys2Proof.Machine

/-! ### What a handle names (R234) -/

/-- First slot of the private cache, the reserved slot, and the first master-key slot field. -/
def privBase : Nat := 0x10000
def attestSlot : Nat := 0x11FFF
def masterBase : Nat := 0x1FFF8

/-- What a handle names: a cache slot, or master-key slot `i` of its partition. -/
inductive Named where
  | slot (n : Nat)
  | master (i : Nat)
  deriving DecidableEq, Repr

/-- Orders 4 and 5 of R120 for one handle; after a zeroisation's start every one fails with KEY_NOT_FOUND (R264). -/
def State.findKey (s : State) (h : Handle) : Except Status Named :=
  let n := handleSlot h
  if !s.heart.serving then .error .keyNotFound
  else if n < 0x12000 then
    let x := s.slot n
    if !x.occupied || x.isExt || x.partition != handlePart h then .error .keyNotFound
    else if x.gen ≠ handleGen h then .error .keyStaleGeneration
    else .ok (.slot n)
  else if masterBase ≤ n then
    let m := s.master (handlePart h) (n - masterBase)
    if m.st = .empty || m.st = .pending then .error .keyNotFound
    else if m.gen ≠ handleGen h then .error .keyStaleGeneration
    else .ok (.master (n - masterBase))
  else .error .keyNotFound

/-- The same for a handle that a key command names: the attestation key's slot is KEY_USAGE, whatever it holds (13 R357). -/
def State.findNamed (s : State) (h : Handle) : Except Status Named :=
  if handleSlot h = attestSlot then .error .keyUsage else s.findKey h

/-- The slot that a handle names, where it names a key in a cache. -/
def State.keyOf (s : State) (h : Handle) : Option (Nat × Slot) :=
  match s.findKey h with
  | .ok (.slot n) => some (n, s.slot n)
  | _ => none

/-- The algorithm of the key that a handle names, or 0. -/
def State.algOf (s : State) (h : Handle) : Nat := ((s.keyOf h).map (fun x => x.2.alg)).getD 0

/-! ### Key windows (08 R208 to R210) -/

/-- No context of a handle serves another request; a stream that is bound to one keeps it to its end (R210). -/
def State.windowDrop (s : State) (h : Handle) : State :=
  let f (g : Grove) : Grove := { g with window := g.window.filter (fun w => w.handle != h) }
  { s with groveA := f s.groveA, groveB := f s.groveB }

/-- Handles that outstanding requests of a grove name: their contexts are bound (R208). -/
def State.boundHandles (s : State) (g : Bool) : List Handle :=
  (s.cells.filter (fun p => groveOf p.1 == g)).flatMap (fun p =>
    p.2.port.outstanding.map (fun r => BitVec.ofNat 32 (field r.desc 4 4)))

/-- Drop the least recently used context that nothing is bound to: the list is in order of use, newest first. -/
def dropOldest (bound : List Handle) (w : List WCtx) : List WCtx :=
  match (w.reverse.find? (fun x => !bound.contains x.handle)) with
  | some x => w.erase x
  | none => w

/-- A new key takes a context (R208). -/
def State.windowFill (s : State) (g : Bool) (x : WCtx) : State :=
  let w := (s.grove g).window.filter (fun y => !(y.handle == x.handle && y.partition == x.partition))
  let w := if 4096 ≤ w.length then dropOldest (s.boundHandles g) w else w
  s.modGrove g (fun y => { y with window := x :: w })

/-- The context of a handle for a partition. -/
def Grove.lookup (g : Grove) (h : Handle) (p : Nat) : Option WCtx :=
  g.window.find? (fun w => w.valid && w.handle == h && w.partition == p)

/-- A context was used: it becomes the newest. -/
def State.windowUse (s : State) (g : Bool) (x : WCtx) : State :=
  s.modGrove g (fun y => { y with window := x :: y.window.erase x })

/-! ### The journal (R252 to R255) -/

/-- The bytes of a slot's record as change items carry them; the expiry travels as the ticks that remain (16 R415, log 16). -/
def Slot.bytes (x : Slot) (now : Nat) : Bytes :=
  le 2 x.key.length ++ le 1 x.alg ++ le 2 x.usage.toNat ++ le 1 x.partition ++
    le 1 (b2n x.tk48 + 2 * b2n x.forms + 4 * b2n x.extended + 8 * b2n x.drawLocked) ++ le 2 x.gen ++ le 8 x.counter ++
    le 8 x.limit ++ le 4 x.fixed.toNat ++ le 6 (if x.expiry = 0 then 0 else x.expiry - now + 1) ++ x.key

/-- A slot read from those bytes. -/
def Slot.ofBytes (bs : Bytes) (now : Nat) : Slot :=
  let n := field bs 0 2
  let f := field bs 6 1
  let e := field bs 29 6
  { key := piece bs 35 n, alg := field bs 2 1, usage := BitVec.ofNat 16 (field bs 3 2), partition := field bs 5 1 % 64
    tk48 := bit f 0, forms := bit f 1, gen := field bs 7 2 % 512, occupied := true, persistent := true, extended := bit f 2
    drawLocked := bit f 3, counter := field bs 9 8, limit := field bs 17 8, fixed := BitVec.ofNat 32 (field bs 25 4)
    expiry := if e = 0 then 0 else now + e - 1, closed := field bs 7 2 % 512 == 511 }

def MasterSt.code : MasterSt → Nat
  | .empty => 0
  | .pending => 1
  | .loaded => 2
  | .active => 3
def MasterSt.ofCode (n : Nat) : MasterSt := if n = 3 then .active else if n = 2 then .loaded else if n = 1 then .pending else .empty

/-- The bytes of a change item (R253, log entry 16). -/
def Change1.bytes (c : Change1) (now : Nat) : Bytes :=
  match c with
  | .slot n x => le 1 1 ++ le 4 n ++ x.bytes now
  | .emptied n g _ => le 1 2 ++ le 4 n ++ le 2 g
  | .master n m => le 1 3 ++ le 4 n ++ le 1 m.st.code ++ le 2 m.gen ++ padTo 32 m.key
  | .ceiling n c => le 1 4 ++ le 4 n ++ le 8 c
  | .mark p => le 1 5 ++ le 4 p
  | .snapStart => le 1 6
  | .snapEnd => le 1 7

/-- The change item that bytes spell. -/
def Change1.ofBytes (bs : Bytes) (now : Nat) : Option Change1 :=
  let n := field bs 1 4
  match field bs 0 1 with
  | 1 => some (.slot n (Slot.ofBytes (bs.drop 5) now))
  | 2 => some (.emptied n (field bs 5 2) 0)
  | 3 => some (.master n { st := MasterSt.ofCode (field bs 5 1), gen := field bs 6 2, key := piece bs 8 32 })
  | 4 => some (.ceiling n (field bs 5 8))
  | 5 => some (.mark n)
  | _ => none

/-- A signature of the module with a P-384 key; its nonce is a free value (log entry 3). -/
def State.p384Signature (s : State) (key m : Bytes) : State × Bytes := (s.drawn, p384Sign key m s.freeNat)

/-- The active master key of a partition (R258). -/
def Heart.active (h : Heart) (p : Nat) : Option Master := ((List.range 8).filterMap (fun i => tblGet h.masters (p * 8 + i))).find?
  (fun m => m.st == .active)

/-- K_E (R253). -/
def Bbkr.entryKey (b : Bbkr) : Bytes := kmac256 b.root b.image (asciiOf "KZ-HW-IMG") 32

/-- A change item as the payload of an entry holds it: of a slot record the key stands in a version 'D' block under the
partition's active master key, before the record's other fields (R253, log entry 16). The entry key wraps the key of a partition
that has none, as the attestation key's may. -/
def Heart.itemBytes (h : Heart) (now : Nat) (pad : Bytes) (item : Change1) : Bytes :=
  match item with
  | .slot n x =>
    let key := ((h.active x.partition).map (fun m => m.key)).getD h.bbkr.entryKey
    let block := wrapBlock x.keyBlock 3 key pad
    le 1 1 ++ le 4 n ++ le 2 block.length ++ block ++ Slot.bytes { x with key := [] } now
  | c => c.bytes now

/-- Bytes 0 to 31 of an entry (R253). -/
def entryHead (seq : Nat) (image : Bytes) (len : Nat) : Bytes := le 8 seq ++ padTo 16 image ++ le 4 len ++ le 4 0

/-- The chain digest of an entry. -/
def entryChain (prev : Bytes) (seq : Nat) (image payload tag : Bytes) : Bytes := sha384 (prev ++ entryHead seq image payload.length ++ tag)

/-- Bytes of flash that an entry takes: a multiple of 512 (R253). -/
def JEntry.size (e : JEntry) : Nat := (80 + e.payload.length + 16 + 511) / 512 * 512

/-- One half of the journal area: 1,920 sectors of 64 KiB (R257). -/
def journalHalf : Nat := 1920 * 2 ^ 16

/-- One entry written to the journal and read back good (R253, R254 step 1). -/
def Heart.write (h : Heart) (now : Nat) (pad : Bytes) (items : List Change1) : Heart :=
  let b := h.bbkr
  let seq := h.tip.1 + 1
  let plain := items.flatMap (h.itemBytes now pad)
  let iv := le 8 seq ++ le 4 0
  let payload := gcmCrypt b.entryKey iv plain
  let tag := gcmTag b.entryKey iv (entryHead seq b.image payload.length) payload 16
  let chain := entryChain h.tip.2 seq b.image payload tag
  { h with journal := h.journal ++ [{ seq, image := b.image, items, payload, tag, chain, good := true }] }

/-- The item that the journal holds last of what number `no` names, ceilings apart. -/
def Heart.committed (h : Heart) (no : Nat) : Option Change1 :=
  let of (c : Change1) : Bool := match c with
    | .ceiling _ _ => false
    | c => c.slotNo == no
  h.journal.reverse.findSome? (fun e => e.items.reverse.find? of)

/-- Every item of the image, as committed (R253, R254): of a slot or master key whose change is not committed, what the journal holds of it.
The second slot of an extended key has no item. Records stand under the active master key, so that no mark is among them. -/
def Heart.items (h : Heart) : List Change1 :=
  h.masters.filterMap (fun p =>
      if p.2.st == .pending then h.committed (Change1.master p.1 p.2).slotNo else some (.master p.1 p.2)) ++
    h.slots.filterMap (fun p =>
      if p.2.isExt then none
      else if p.2.occupied && !p.2.persistent then h.committed p.1
      else if p.2.occupied then some (.slot p.1 p.2) else some (.emptied p.1 p.2.gen 0)) ++
    h.slots.filterMap (fun p => if p.2.occupied && p.2.persistent && !p.2.isExt then some (Change1.ceiling p.1 p.2.ceiling) else none)

/-- Change items in entries of at most 256. -/
def entriesOf : Nat → List Change1 → List (List Change1)
  | 0, _ => []
  | n + 1, l => if l = [] then [] else l.take 256 :: entriesOf n (l.drop 256)

/-- A snapshot of every item takes the place of a full half, and the anchor moves to its last entry (R253). -/
def Heart.snapshot (h : Heart) (now : Nat) (pad : Bytes) : Heart :=
  let items := [.snapStart] ++ h.items ++ [.snapEnd]
  let h : Heart := { h.anchor with journal := [] }
  ((entriesOf items.length items).foldl (fun (h : Heart) l => h.write now pad l) h).anchor


/-- The image is made anew when the first master key is committed: root key and identity from the trunk's Seed (R252, R264).
After a zeroisation closed slots reopen (R235). -/
def State.newImage (s : State) : State :=
  if s.heart.bbkr.image = [] then
    let (s, r) := (s.trunkDraw 48).getD (s, [])
    let h := s.heart
    { s with heart := { h with
        journal := [], reopens := false
        bbkr := { root := r.take 32, image := r.drop 32, seq := 0, chain := [] }
        slots := if h.reopens then tblMap (fun _ x => if x.closed then { x with closed := false, gen := 0, top := 0 } else x) h.slots else h.slots
        masters := if h.reopens then tblMap (fun _ m => if 511 ≤ m.gen then { m with gen := 0 } else m) h.masters else h.masters } }
  else s

/-- The role that replicates, while a session stands. -/
def State.replicates (s : State) : Bool := s.twin.step == .session && s.twin.role == .primary

/-- Send a native key's ceiling to the partner, which acknowledges it (16 R418). -/
def State.sendCeil (s : State) (n c : Nat) : State :=
  let s := s.twinSend 7 (le 4 (mkHandle (s.slot n).partition n (s.slot n).gen).toNat ++ le 8 c)
  { s with twin := { s.twin with unacked := s.twin.unacked ++ [{ counter := s.twin.sent, slot := n, value := c, grant := false }] } }

/-- A committed item goes to the partner, or is kept as unreplicated by a split primary (16 R415, R416, R422). Ceilings travel
in CEIL frames (R418); the attestation key stays (R415). -/
def State.replicate (s : State) (item : Change1) : State :=
  match item with
  | .ceiling n c => if s.twin.step = .session && !(s.slot n).tk48 then s.sendCeil n c else s
  | _ =>
    if item.slotNo = attestSlot then s else
    if s.replicates then
      let q := s.twin.replSeq + 1
      let s := { s with twin := { s.twin with replSeq := q, awaiting := s.twin.awaiting ++ [(q, item)] } }
      s.twinSend 5 (le 8 q ++ item.bytes s.sched.tick)
    else if s.twin.role = .splitPrimary then
      let q := s.twin.replSeq + 1
      let s := { s with twin := { s.twin with
        replSeq := q
        unreplicated := s.twin.unreplicated ++ [item.kept q] } }
      match item with
      | .slot n _ => s.modSlot n (fun x => { x with unreplicated := true })
      | _ => s
    else s

/-- The anchor moves to the last entry when no change waits for the partner (R254 step 2, 16 R416 step 3). A journal that fills its half
gives way to a snapshot (R253), after the entries that still wait are anchored (log entry 16). -/
def State.anchored (s : State) : State :=
  if s.twin.awaiting = [] then
    let h := s.heart.anchor
    if journalHalf < (h.journal.map JEntry.size).sum then
      { s.drawn with heart := h.snapshot s.sched.tick (s.freeBytes 16) }
    else { s with heart := h }
  else s

/-- Commit items in one entry when the write to bank 2 is read back good (R254); a program that is not costs its sector (15 R380). The padding
of key blocks is free. -/
def State.commitItems (s : State) (items : List Change1) (ok : Bool) : State :=
  if ok then
    let s := { s with heart := s.heart.write s.sched.tick (s.freeBytes 16) items }
    (s.drawn.each items State.replicate).anchored
  else s.programFails 2 0 3840

/-- Commit one item. -/
def State.commitItem (s : State) (item : Change1) (ok : Bool) : State := s.commitItems [item] ok

/-- Key changes are refused: a secondary, a split secondary, and a split primary whose lease has ended (16 R417, R422). -/
def State.keyReadOnly (s : State) : Bool :=
  s.twin.role == .secondary || s.twin.role == .splitSecondary ||
    (s.twin.role == .splitPrimary && s.twin.leaseEnded && !s.twin.promoted)

/-! ### Counters and ceilings (R250, R251, 08 R211 to R215, 16 R418 to R421) -/

/-- Bits [62:0] all ones. -/
def allOnes63 : Nat := 2 ^ 63 - 1

/-- The last number that this module may charge of a TK-48 key in its current range. -/
def State.rangeTop (s : State) (n : Nat) (x : Slot) : Nat := ((tblGet s.twin.ranges n).map (fun r => r.top)).getD x.limit

/-- Numbers of a TK-48 key that the module may still charge (R420). -/
def State.mayCharge (s : State) (n : Nat) (x : Slot) : Nat :=
  (s.rangeTop n x - x.counter) + ((tblGet s.twin.ranges n).map (fun r => if r.nextTop = 0 then 0 else r.nextTop + 1 - r.nextFirst)).getD 0

/-- A commit of a ceiling is written, or is left to be retried (R250). -/
def State.commitCeiling (s : State) (n c : Nat) (ok : Bool) : State :=
  if ok then
    (s.modSlot n (fun x => { x with ceiling := c, commitFailed := false })).commitItem (.ceiling n c) true
  else (s.modSlot n (fun x => { x with commitFailed := true })).programFails 2 0 3840

/-- The next ceiling of a key: one block on. The top of a TK-48 key's range is its ceiling too; beyond it the next ceiling lies in the
range that follows (R250, R420). -/
def State.nextCeiling (s : State) (n : Nat) (x : Slot) : Nat :=
  if x.tk48 then
    let r := (tblGet s.twin.ranges n).getD { top := x.limit }
    if r.top ≤ x.ceiling ∧ r.nextTop ≠ 0 then max x.ceiling (min (max x.ceiling (r.nextFirst - 1) + x.block) r.nextTop)
    else min (x.ceiling + x.block) (max x.ceiling r.top)
  else x.ceiling + x.block

/-- Half of the current block is used: commit the next ceiling. Whether bank 2 takes it is a free value (log entry 3). -/
def State.ceilingAfter (s : State) (n : Nat) : State :=
  let x := s.slot n
  let c := s.nextCeiling n x
  if !x.commitFailed && decide (2 * (x.ceiling - x.counter) ≤ x.block) && c != x.ceiling then
    s.drawn.commitCeiling n c (s.freeNat % 2 == 0)
  else s

def State.setRange (s : State) (n : Nat) (r : Range) : State := { s with twin := { s.twin with ranges := tblSet s.twin.ranges n r } }

/-- The primary allocates the next range of a key, to itself or to the partner (R420). -/
def State.allocate (s : State) (n : Nat) (toPartner : Bool) : State :=
  let x := s.slot n
  let r := (tblGet s.twin.ranges n).getD {}
  if r.alloc < x.limit then
    let t := min (r.alloc + x.block) x.limit
    let first := r.alloc + 1
    let r := { r with alloc := t, pending := true }
    let s := s.setRange n (if toPartner then { r with wanted := false } else { r with nextFirst := first, nextTop := t })
    let s := s.twinSend 8 (le 4 (mkHandle x.partition n x.gen).toNat ++ le 8 first ++ le 8 t ++ le 1 (b2n toPartner))
    { s with twin := { s.twin with unacked := s.twin.unacked ++ [{ counter := s.twin.sent, slot := n, value := t, grant := true }] } }
  else s

/-- Ask for, or allocate, the next range once the current one is half used (R420). -/
def State.rangeAfter (s : State) (n : Nat) : State :=
  let x := s.slot n
  match tblGet s.twin.ranges n with
  | none => s
  | some r =>
    if s.twin.step = .session && r.nextTop == 0 && !r.pending && decide (2 * (r.top - x.counter) ≤ x.block) then
      if s.twin.role = .primary then s.allocate n false
      else (s.setRange n { r with pending := true }).twinSend 9 (le 4 (mkHandle x.partition n x.gen).toNat)
    else s

/-- A TK-48 key whose range is used up goes on with the range that follows; numbers between the two count as charged (R420, R421). -/
def State.enterRange (s : State) (n : Nat) : State :=
  match tblGet s.twin.ranges n with
  | some r =>
    if r.top ≤ (s.slot n).counter ∧ r.nextTop ≠ 0 then
      (s.setRange n { r with top := r.nextTop, nextFirst := 0, nextTop := 0 }).modSlot n
        (fun x => { x with counter := max x.counter (r.nextFirst - 1) })
    else s
  | none => s

/-- Charge one use of a TK-48 key (R213, R420, R421): the number charged, or the status. -/
def State.charge (s : State) (n : Nat) : State × Except Status Nat :=
  let s := s.enterRange n
  let x := s.slot n
  let u := x.counter + 1
  if x.limit < u then (s, .error .keyLimit)
  else if s.rangeTop n x < u then
    let alloc := ((tblGet s.twin.ranges n).map (fun r => r.alloc)).getD 0
    (s, .error (if s.twin.step = .session ∧ alloc < x.limit then .counterReserving else .keyLimit))
  else if x.ceiling < u then (s.ceilingAfter n, .error .counterReserving)
  else (((s.modSlot n (fun y => { y with counter := u })).rangeAfter n).ceilingAfter n, .ok u)

/-- Issue the next value of a native key (R211, R250, R418). -/
def State.issue (s : State) (n : Nat) : State × Except Status Nat :=
  let x := s.slot n
  let v := x.counter + 1
  let top := if s.twin.step = .session then min x.ceiling ((tblGet s.twin.ceilAcked n).getD 0) else x.ceiling
  if allOnes63 ≤ v then (s, .error .nonceExhausted)
  else if top < v then (s.ceilingAfter n, .error .counterReserving)
  else ((s.modSlot n (fun y => { y with counter := v })).ceilingAfter n, .ok v)

/-- The 64-bit value with the twin identity in bit 63. -/
def State.ticketOf (s : State) (v : Nat) : BitVec 64 := BitVec.ofNat 64 (v + b2n s.twin.identity * 2 ^ 63)

/-- Order 7 of R120 for one key of a job (R213, R214, R262): the value when the job draws one from this key. -/
def State.check7 (s : State) (n : Nat) (draws : Bool) : State × Except Status (Option (BitVec 64)) :=
  let x := s.slot n
  if draws && x.drawLocked then (s, .error .nonceExhausted)
  else if x.tk48 then
    match s.charge n with
    | (s, .ok u) => (s, .ok (if draws then some (s.ticketOf u) else none))
    | (s, .error e) => (s, .error e)
  else if draws then
    match s.issue n with
    | (s, .ok v) => (s, .ok (some (s.ticketOf v)))
    | (s, .error e) => (s, .error e)
  else (s, .ok none)

/-! ### CHECK (R248) -/

/-- The handles that a job's function takes, A before B; `true` marks A. -/
def Job.handles (j : Job) : List (Bool × Handle) :=
  (if takesA j.code j.handleA then [(true, j.handleA)] else []) ++ (if takesB j.code j.handleB then [(false, j.handleB)] else [])

/-- Order 6 for a key that a job names (R120, R204, R237). -/
def State.permits (s : State) (j : Job) (isA : Bool) (k : Named) : Bool :=
  match k with
  | .slot n =>
    let x := s.slot n
    (if isA then permitsA (s.custom? j.code) j x else permitsB (s.custom? j.code) j x) && !(isTdes x.alg && tdesWeak x.key x.alg) && (x.expiry == 0 || decide (s.sched.tick ≤ x.expiry)) && n != attestSlot
  | .master _ => false

/-- Orders 3 to 6, each over handle A before handle B. -/
def State.check36 (s : State) (j : Job) : Except Status (List (Bool × Named)) :=
  let hs := j.handles
  if hs.any (fun h => handlePart h.2 != j.partition) then .error .partitionMismatch
  else
    let found := hs.map (fun h => (h.1, s.findKey h.2))
    let notFound (r : Bool × Except Status Named) : Bool := match r.2 with
      | .error .keyNotFound => true
      | _ => false
    let stale (r : Bool × Except Status Named) : Bool := match r.2 with
      | .error .keyStaleGeneration => true
      | _ => false
    if found.any notFound then .error .keyNotFound
    else if found.any stale then .error .keyStaleGeneration
    else
      let keys := found.filterMap (fun r => match r.2 with
        | .ok k => some (r.1, k)
        | .error _ => none)
      if keys.all (fun k => s.permits j k.1 k.2) then .ok keys else .error .keyUsage

/-- Order 7 over the keys of a job in turn: a key that is named twice is judged and charged once (08 R213). -/
def State.check7All (draws : Bool) : List (Bool × Named) → List Nat → State → State × Except Status (Option (BitVec 64))
  | [], _, s => (s, .ok none)
  | (isA, .slot n) :: rest, seen, s =>
    if seen.contains n then State.check7All draws rest seen s
    else
      match s.check7 n (draws && isA) with
      | (s, .error e) => (s, .error e)
      | (s, .ok v) =>
        match State.check7All draws rest (n :: seen) s with
        | (s, .ok w) => (s, .ok (v.or w))
        | (s, .error e) => (s, .error e)
  | (_, .master _) :: rest, seen, s => State.check7All draws rest seen s

/-- Order 7 of a job, atomically (08 R214): where a key fails, no other key of the job is charged and no value is issued. A
commit that the failing key asks for still happens. -/
def State.check7s (s : State) (draws : Bool) (keys : List (Bool × Named)) : State × Except Status (Option (BitVec 64)) :=
  match State.check7All draws keys [] s with
  | (t, .ok v) => (t, .ok v)
  | (_, .error e) =>
    let fails := keys.filterMap (fun k => match k.2 with
      | .slot n => match s.check7 n (draws && k.1) with
        | (t, .error _) => some t
        | _ => none
      | .master _ => none)
    (fails.headD s, .error e)

/-- CHECK of a job: once for an attempt, and once for both copies of a DUAL job (R265). A DUAL job that keeps one copy's result
is charged for the other copy's new attempt and keeps the value that the result was made with (05 R125, log entry 63). -/
def State.jobCheck (s : State) (j : Nat) : State :=
  match s.job? j with
  | none => s
  | some x =>
    match x.checked with
    | some _ => s
    | none =>
      match s.check36 x with
      | .error e => s.setJob j { x with checked := some e }
      | .ok keys =>
        match s.check7s (drawsValue x && x.issued.isNone) keys with
        | (s, .error e) => s.setJob j { x with checked := some e }
        | (s, .ok v) => s.setJob j { x with checked := some .ok, issued := x.issued.or v }

/-- A ticket goes into the slot of the job's bank, once for each copy of the job (08 R214). -/
def State.giveTicket (s : State) (c j : Nat) : State :=
  match s.job? j, s.copy? j (groveOf c) with
  | some x, some k =>
    match x.issued with
    | none => s
    | some v =>
      if k.ticketed then s
      else
        let s := s.modCopy j (groveOf c) (fun k => { k with ticketed := true })
        s.modCell c (fun y => { y with
          port := if y.longJob j then { y.port with ticketL := some (x.handleA, v) } else { y.port with ticketS := some (x.handleA, v) } })
  | _, _ => s

/-- Orders 1 and 2 of R120 for a job, from its function's table. -/
def State.argsOf (s : State) (x : Job) : Option Status := (formOf x (s.algOf x.handleA)).args

/-- HEARTWOOD_CHECK: the kernel of cell `c` has the handles of its job checked. A job that orders 1 and 2 stop makes no
request. -/
def execHeartwoodCheck (c : BitVec 8) (s : State) : Answer :=
  match (s.cell c.toNat).jobNow with
  | none => .next s
  | some j =>
    match s.job? j with
    | none => .next s
    | some x => if (s.argsOf x).isSome then .next s else .next ((s.jobCheck j).giveTicket c.toNat j)

/-! ### LOAD (R248, R249) -/

/-- Orders 3 to 6 for a LOAD in partition `p` for a job: the function is the job's where it names the handle (log entry 15). -/
def State.loadCheck (s : State) (p : Nat) (job : Option Nat) (h : Handle) (target : Nat) : Except Status (Nat × Slot) :=
  if handlePart h ≠ p then .error .partitionMismatch
  else
    match s.findKey h with
    | .error e => .error e
    | .ok (.master _) => .error .keyUsage
    | .ok (.slot n) =>
      let x := s.slot n
      let fits := if target = 2 then isSym x.alg && x.alg != 0x0A else isPriv x.alg
      let named := match job.bind (fun j => s.job? j) with
        | some j => j.handles.all (fun p => p.2 != h || s.permits j p.1 (.slot n))
        | none => true
      if fits && named && n != attestSlot && (x.expiry == 0 || decide (s.sched.tick ≤ x.expiry)) then .ok (n, x)
      else .error .keyUsage

/-- A key goes into a window context of a grove. -/
def State.windowKey (s : State) (g : Bool) (h : Handle) (x : Slot) : State :=
  s.windowFill g
    { handle := h, partition := x.partition, alg := x.alg, usage := x.usage, fixed := x.fixed, key := x.key, valid := true }

/-- Send a key into a window context of the grove of cell `c`, for partition `p` and a job. -/
def State.loadWindow (s : State) (c p : Nat) (job : Option Nat) (h : Handle) : State × Status :=
  match s.loadCheck p job h 2 with
  | .error e => (s, e)
  | .ok (_, x) => (s.windowKey (groveOf c) h x, .ok)

/-- The per-signature secret of a job (R178, R249): hedged ECDSA draws 32 bytes of the grove's Seed queue. -/
def State.signSecret (s : State) (g : Bool) (j : Option Job) (x : Slot) : Option (State × Bytes) :=
  let params := (j.map (fun y => y.params)).getD []
  let input := (j.map (fun y => y.input)).getD []
  let n := hedgeLen x.alg params (j.any (fun y => y.dual))
  if n = 0 then some (s, Machine.signSecret x.alg x.key params input [])
  else (s.groveDraw g n).map (fun p => (p.1, Machine.signSecret x.alg x.key params input p.2))

/-- Write a key into a secret half; its load count rises (07 R177, R185). -/
def Half.fill (h : Half) (x : Slot) (secret : Bytes) : Half :=
  { full := true, key := x.key ++ secret, alg := x.alg, perSig := secret != [], loads := h.loads + 1, delivering := h.delivering }

/-- A key, with any per-signature secret, goes into half S or L of a cell. -/
def State.fillHalf (s : State) (c : Nat) (long : Bool) (x : Slot) (secret : Bytes) : State :=
  s.modCell c (fun y => if long then { y with halfL := y.halfL.fill x secret } else { y with halfS := y.halfS.fill x secret })

/-- Whether a LOAD of a key brings a per-signature secret. -/
def Slot.secretive (x : Slot) : Bool := signs x.alg && x.code == 0x0B

/-- Send a key, with any per-signature secret, into half S (target 0) or L (target 1). There is no answer while the draw of a hedged
secret waits (R249, 10 R274). -/
def State.loadHalf (s : State) (c : Nat) (h : Handle) (target : Nat) : State × Option Status :=
  let job := (s.cell c).jobNow
  match s.loadCheck (s.cell c).jpart job h target with
  | .error e => (s, some e)
  | .ok (_, x) =>
    if x.secretive then
      match s.signSecret (groveOf c) (job.bind (fun j => s.job? j)) x with
      | some (s, sec) => (s.fillHalf c (target == 1) x sec, some .ok)
      | none => (s, if s.seedAlive then none else some .randomUnavailable)
    else (s.fillHalf c (target == 1) x [], some .ok)

/-- One key of step 6: a private key goes into the half of the job's bank, another into a window context. -/
def State.loadKey (s : State) (c : Nat) (long : Bool) (h : Handle) (n : Nat) : State × Option (Except Status (Slot × Bytes)) :=
  let x := s.slot n
  if isPriv x.alg then
    let (s, st) := s.loadHalf c h (b2n long)
    let half := if long then (s.cell c).halfL else (s.cell c).halfS
    (s, st.map (fun st => if st = .ok then .ok (x, half.key.drop x.key.length) else .error st))
  else (s.windowKey (groveOf c) h x, some (.ok (x, [])))

/-- Step 6 of R149 for a job on cell `c`; there is no answer while a load waits. -/
def State.loadKeys (s : State) (c j : Nat) (long : Bool) : State × Option (Except Status Loaded) :=
  match s.job? j with
  | none => (s, some (.ok {}))
  | some x =>
    match s.check36 x with
    | .error e => (s, some (.error e))
    | .ok keys =>
      keys.foldl (fun (acc : State × Option (Except Status Loaded)) k =>
        match acc, k.2 with
        | (s, some (.ok l)), .slot n =>
          match s.loadKey c long (if k.1 then x.handleA else x.handleB) n with
          | (s, some (.ok (key, secret))) => (s, some (.ok (if k.1 then { l with keyA := key, secret } else { l with keyB := key })))
          | (s, some (.error e)) => (s, some (.error e))
          | (s, none) => (s, none)
        | acc, _ => acc) (s, some (.ok {}))

/-! ### Ceilings, primes and the journal's erase -/

/-- CEILING_COMMIT_RETRY: 1 s after a ceiling's commit failed it is tried again (R250). -/
def execCeilingCommitRetry (slot : BitVec 17) (flashOk : Bool) (s : State) : Answer :=
  let n := slot.toNat
  let x := s.slot n
  if x.occupied && x.commitFailed && s.heart.serving then .next (s.commitCeiling n (s.nextCeiling n x) flashOk)
  else .next s

/-- The bytes of a prime pair of RSA size 0 to 2. -/
def pairBytes (k : Nat) : Nat := 256 + 128 * k

/-- PRIME_POOL_REFILL: internal cell jobs of partition 0 found a prime pair for RSA size 0 to 2; a pool holds 8 (R244). The random
bytes that the cells searched from are free. -/
def execPrimePoolRefill (size : BitVec 2) (s : State) : Answer :=
  let k := size.toNat
  let pool := (tblGet s.heart.primes k).getD []
  if k < 3 ∧ pool.length < 8 ∧ s.trunk.ready ∧ s.heart.serving ∧ !s.halted ∧ !s.noneServes then
    let n := pairBytes k
    .next { s.drawn with heart := { s.heart with primes := tblSet s.heart.primes k (pool ++ [primePair n (s.freeBytes n)]) } }
  else .next s

/-- JOURNAL_ERASE_DONE: the journal area is erased and the zeroisation has ended; heartwood answers again, with empty caches
(R264 t5). -/
def execJournalEraseDone (s : State) : Answer :=
  if s.heart.erasing then
    .next { s with heart := { s.heart with journal := [], erasing := false, zeroising := false, serving := true } }
  else .next s

/-! ### Installing and emptying slots (R235 to R238, R246) -/

/-- A slot that can take a key. -/
def Slot.free (x : Slot) : Bool := !x.occupied && !x.closed

/-- The lowest free slot from `k` within `fuel` slots, with a free neighbour for a pair. -/
def State.findFree (s : State) (pair : Bool) : Nat → Nat → Option Nat
  | 0, _ => none
  | n + 1, k =>
    if (s.slot k).free && (!pair || (n != 0 && (s.slot (k + 1)).free)) then some k else State.findFree s pair n (k + 1)

/-- Any free slot of the cache that an algorithm uses (R236). -/
def State.anyFree (s : State) (priv pair : Bool) : Option Nat :=
  if priv then s.findFree false 8191 privBase else s.findFree pair 65536 0

/-- The slot for a target of KEY_IMPORT or KEY_GENERATE (R236, R238, R357). -/
def State.target (s : State) (t : Nat) (priv pair : Bool) : Except Status Nat :=
  if t = 0xFFFFFFFF then
    match s.anyFree priv pair with
    | some n => .ok n
    | none => .error .noResource
  else if t = attestSlot then .error .keyUsage
  else if 0x12000 ≤ t ∨ (t < privBase) = priv ∨ (pair ∧ t + 1 = privBase) then .error .badParameter
  else if (s.slot t).occupied ∨ (pair ∧ (s.slot (t + 1)).occupied) then .error .slotOccupied
  else if (s.slot t).closed ∨ (pair ∧ (s.slot (t + 1)).closed) then .error .noResource
  else .ok t

/-- Install a key in slot `n` with the next generation (R235, R250): its ceiling is one block. -/
def State.install (s : State) (n : Nat) (x : Slot) (persistent : Bool) : State :=
  let g := (s.slot n).highest + 1
  let old := mkHandle (s.slot n).partition n (s.slot n).gen
  let x := { x with
    gen := g, top := g, occupied := true, persistent, isExt := false, closed := g == 511, ceiling := x.block
    extended := decide (32 < x.key.length) && decide (n < privBase) }
  let s := (s.windowDrop old).setSlot n x
  let s := if x.extended then s.modSlot (n + 1) (fun y => { y with occupied := true, isExt := true }) else s
  { s with twin := { s.twin with
    ranges := tblDel s.twin.ranges n, ceilings := tblDel s.twin.ceilings n, ceilAcked := tblDel s.twin.ceilAcked n } }

/-- A key is new in a session: its first ceiling goes to the partner, or its use numbers are in ranges from now on
(16 R418, R420). -/
def State.announce (s : State) (n : Nat) : State :=
  if s.twin.step ≠ .session then s
  else if (s.slot n).tk48 then (s.setRange n { alloc := (s.slot n).counter, top := (s.slot n).counter }).rangeAfter n
  else s.sendCeil n (s.slot n).ceiling

/-- Empty slot `n` and its extension; the generation stays (R246). -/
def State.emptySlot (s : State) (n : Nat) : State :=
  let x := s.slot n
  let s := s.windowDrop (mkHandle x.partition n x.gen)
  let s := if x.extended then s.modSlot (n + 1) Slot.cleared else s
  s.setSlot n x.cleared

/-- Slot `n` takes record `x` that carries its own generation: no generation issued before is issued again (R235). -/
def State.takeRecord (s : State) (n : Nat) (x : Slot) : State :=
  let top := max (s.slot n).highest x.gen
  let s := s.setSlot n { x with top, closed := top == 511 }
  if x.extended then s.modSlot (n + 1) (fun y => { y with occupied := true, isExt := true }) else s

/-- Slot `n` is empty and its last generation is `g`. -/
def State.takeEmpty (s : State) (n g : Nat) : State :=
  let top := max (s.slot n).highest g
  (s.emptySlot n).modSlot n (fun x => { x with gen := g, top, closed := top == 511 })

/-- The active master key of a partition (R258). -/
def State.activeMaster (s : State) (p : Nat) : Option Nat := (List.range 8).find? (fun i => (s.master p i).st == .active)

end Sys2Proof.Machine
end

