-- ==== Sys2Proof/Machine/Engines.lean ====
section
/-! DEFINITION. The grove cipher pipelines and the branch digest engines as cells use them (08). -/

namespace Sys2Proof.Machine

/-! ### Request descriptors (R217, R218) -/

def dOp (d : Bytes) : Nat := field d 0 2
def dDec (d : Bytes) : Bool := bit (field d 2 1) 0
def dTicket (d : Bytes) : Bool := bit (field d 2 1) 1
def dCont (d : Bytes) : Bool := bit (field d 2 1) 2
def dMore (d : Bytes) : Bool := bit (field d 2 1) 3
def dBankL (d : Bytes) : Bool := bit (field d 3 1) 0
def dHandle (d : Bytes) : Handle := BitVec.ofNat 32 (field d 4 4)
def dSrc (d : Bytes) : Nat := field d 8 8
def dDst (d : Bytes) : Nat := field d 16 8
def dLen (d : Bytes) : Nat := field d 24 4
def dAad (d : Bytes) : Nat := field d 28 4
def dIv (d : Bytes) : Bytes := piece d 32 16
def dState (d : Bytes) : Nat := field d 48 8
def dTag (d : Bytes) : Nat := field d 58 1

/-- Operations of R218. -/
def pipeOps : List Nat := [1, 2, 3, 4, 5, 6, 7, 8, 0x11, 0x12, 0x13, 0x14, 0x15]
/-- TDES operations, and the MAC operations. -/
def opTdes (op : Nat) : Bool := decide (0x11 ≤ op)
def opMac (op : Nat) : Bool := [5, 0x13, 0x14, 0x15].contains op

/-- A branch or grove SRAM address. -/
def sramAddr (c a : Nat) : Bool :=
  match region c a with
  | .fabric k => decide (2 ^ 40 ≤ k)
  | _ => false

/-- The limits of R204 and R217: reserved bytes, lengths, and the state block's place. `start` is the low word of the counter block
that a CTR request begins with, and `before` the data bytes of its earlier segments. -/
def descOk (c : Nat) (d : Bytes) (start before : Nat) : Bool :=
  let op := dOp d
  let n := dLen d
  let b := if opTdes op then 8 else 16
  pipeOps.contains op && decide (field d 2 1 < 16) && decide (field d 3 1 < 2) && field d 59 5 == 0 &&
    decide (n ≤ 16 * mib) && (if op = 4 then decide (12 ≤ dTag d ∧ dTag d ≤ 16) else dTag d == 0 && dAad d == 0) &&
    (if op = 1 ∨ op = 2 ∨ op = 8 ∨ op = 0x11 ∨ op = 0x12 ∨ op = 0x13 ∨ op = 0x14 then n % b == 0 else true) &&
    (if op = 6 then decide (16 ≤ n) else true) &&
    (if op = 3 then decide ((start + before / 16) % 2 ^ 32 + (before % 16 + n + 15) / 16 ≤ 2 ^ 32) else true) &&
    (if op = 7 then decide (6 ≤ field d 32 1 ∧ field d 32 1 ≤ 56) && decide (field d 33 1 ≤ 32) else true) &&
    (if dCont d || dMore d then dState d % 64 == 0 && sramAddr c (dState d) else dState d == 0)

/-- Operations that a key's algorithm, usage and mode of use permit (R209; log entry 15 for the usages whose operations the
spec does not list). -/
def permitsOp (x : WCtx) (d : Bytes) : Bool :=
  let op := dOp d
  let k : Slot := { alg := x.alg, usage := x.usage }
  let u := k.code
  let algOk := if opTdes op then isTdes x.alg else if op = 6 then x.alg == 6 || x.alg == 7 else isAes x.alg
  let usageOk :=
    if op = 1 ∨ op = 0x11 then (u == 0x02 && k.ecb) || [0x01, 0x03, 0x05, 0x0A, 0x0C, 0x0D].contains u
    else if op = 2 ∨ op = 0x12 then [0x01, 0x02, 0x05, 0x0A].contains u
    else if op = 3 ∨ op = 4 ∨ op = 6 then u == 0x02
    else if op = 5 ∨ op = 0x15 then [0x01, 0x03, 0x05, 0x08].contains u
    else if op = 0x13 then u == 0x06
    else if op = 0x14 then u == 0x07 || u == 0x03
    else u == 0x11
  let modeOk :=
    if [0x01, 0x03].contains u then k.mayDerive || k.mayVerify
    else if u = 0x05 then (if opMac op then k.mayEncrypt || k.mayDecrypt else if dDec d then k.mayDecrypt else k.mayEncrypt)
    else if [0x0C, 0x0D].contains u then k.mayVerify
    else if opMac op then (if dDec d then k.mayVerify else k.mayGenerate)
    else if dDec d then k.mayDecrypt
    else k.mayEncrypt
  algOk && usageOk && modeOk

/-! ### The request port (R206 to R208, R216) -/

/-- Change one outstanding request of a cell. -/
def State.modReq (s : State) (c id : Nat) (f : PReq → PReq) : State :=
  s.modCell c (fun x => { x with port := { x.port with
    outstanding := x.port.outstanding.map (fun q => if q.id = id then f q else q) } })

/-- Streams active in a grove. -/
def State.streams (s : State) (g : Bool) : Nat :=
  ((s.cells.filter (fun p => groveOf p.1 == g)).flatMap (fun p => p.2.port.outstanding.filter (fun r => r.streaming))).length

/-- 4 KiB segments of a GCM request's data (R206). -/
def segments (d : Bytes) : Nat := max 1 ((dLen d + 4095) / 4096)

/-- The next request that may take a slot: cells in turn after the one served last, each cell's requests in posting order (R207). -/
def State.nextReq (s : State) (g : Bool) : Option (Nat × PReq) :=
  let base := if g then 128 else 0
  let from_ := (s.grove g).pipeLast % 128 + 1
  ((List.range 128).filterMap (fun i =>
    let c := base + (from_ + i) % 128
    ((s.cell c).port.outstanding.find? (fun r => !r.streaming && !r.missing)).map (fun r => (c, r)))).head?

/-- Free stream slots go to posted requests whose key is resident; a request whose context is gone misses (R207, R208). -/
def State.pipeFillFrom : Nat → Bool → State → State
  | 0, _, s => s
  | n + 1, g, s =>
    if 64 ≤ s.streams g then s
    else match s.nextReq g with
      | none => s
      | some (c, r) =>
        match (s.grove g).lookup (dHandle r.desc) r.jpart with
        | none => State.pipeFillFrom n g (s.modReq c r.id (fun q => { q with missing := true }))
        | some x =>
          let s := s.modReq c r.id (fun q => { q with streaming := true, bound := some x })
          let s := (s.windowUse g x).modGrove g (fun y => { y with
            pipeLast := c, ghash := if dOp r.desc = 4 then y.ghash ++ [(r.id, segments r.desc)] else y.ghash })
          State.pipeFillFrom n g s
def State.pipeFill (s : State) (g : Bool) : State := State.pipeFillFrom 512 g s

/-- A write of PQPOST: the descriptor is read, its status becomes 0xFFFF, and its key is looked up. -/
def State.pqpost (s : State) (c : Nat) (value : BitVec 32) : State :=
  let v := value.toNat
  let off := bits v 22 6 * 64
  let addr := if bit v 0 then 0x0200000000 + off else 0x0100000000 + off
  let x := s.cell c
  if 4 ≤ x.port.outstanding.length then s.modCell c (fun x => { x with port := { x.port with ovf := true } })
  else
    let w := s.who c
    match memKey c addr, s.check c w addr .read with
    | some k, none =>
      let d := s.rd k 64
      let s := s.put c (k + 56) (le 2 0xFFFF)
      let g := groveOf c
      let hit := (s.grove g).lookup (dHandle d) x.jpart
      let r : PReq := { id := c + 256 * x.port.posts, key := k, desc := d, pl := w.pl, part := if w.valid then w.part else none
                        jpart := x.jpart, streaming := false, missing := hit.isNone, job := x.jobNow }
      (s.modCell c (fun x => { x with port := { x.port with
        outstanding := x.port.outstanding ++ [r], posts := x.port.posts + 1 } })).pipeFill g
    | _, _ => s.modCell c (fun x => { x with port := { x.port with addr := true } })


/-- At the end of a segment a holder's GHASH unit passes to the stream that waits longest, and the holder waits again (R206): the
passes by which the stream of request `id` comes to hold one of the 4 units for its last segment, or with none waiting. -/
def ghashTurn : Nat → Nat → List (Nat × Nat) → List (Nat × Nat)
  | 0, _, l => l
  | n + 1, id, l =>
    if l.length ≤ 4 then l
    else match (l.take 4).find? (fun p => p.1 == id) with
      | some p => if p.2 ≤ 1 then l else ghashTurn n id (l.erase p ++ [(p.1, p.2 - 1)])
      | none =>
        match (l.take 4).find? (fun p => decide (2 ≤ p.2)) with
        | some p => ghashTurn n id (l.erase p ++ [(p.1, p.2 - 1)])
        | none => l

/-- A stream may issue its last blocks: a GCM stream holds a GHASH unit for its last segment, if need be after it and others passed
theirs on. -/
def State.takesUnit (s : State) (c : Nat) (r : PReq) : Option State :=
  if dOp r.desc = 4 then
    let l := (s.grove (groveOf c)).ghash
    let l := ghashTurn (l.map (fun p => p.2)).sum r.id l
    if (l.take 4).any (fun p => p.1 == r.id && (p.2 ≤ 1 || l.length ≤ 4)) then some (s.modGrove (groveOf c) (fun g => { g with ghash := l }))
    else none
  else some s

/-! ### What a request does (R214, R217 to R219) -/

/-- The bytes of a range before its first faulting burst. -/
def State.enginePrefix (s : State) (c : Nat) (w : Who) (a n : Nat) : Bytes :=
  ((burstsOf a n).zipIdx.foldl (fun (acc : Bytes × Bool) b =>
    if acc.2 then
      match s.check c (w.burst b.2) b.1.1 .read, memKey c b.1.1 with
      | none, some k => (acc.1 ++ s.rd k b.1.2, true)
      | _, _ => (acc.1, false)
    else acc) ([], true)).1

/-- As whom a request accesses memory. -/
def PReq.who (r : PReq) : Who := { pl := r.pl, part := r.part, valid := !r.pl || r.part.isSome, seen := r.seen }

/-- The source of a request: the bytes before its first failing burst. `cut` is where a line's tag is found failing. A line that
fails leaves its record (01 R13). -/
def State.source (s : State) (c : Nat) (r : PReq) (n : Nat) (cut : Option Nat) : State × Bytes :=
  let a := dSrc r.desc
  let src := s.enginePrefix c r.who a n
  match cut with
  | some k =>
    let line := (a + k) / 64 * 64
    if k < src.length then (s.integrityRecord c (some line), src.take (line - a))
    else (s.integrityRecord c (s.badBurst c r.who a n), src)
  | none => (s.integrityRecord c (s.badBurst c r.who a n), src)

/-- The output of a cipher operation on a segment, behind the data of the segments before it. FF1 takes its tweak and then the
numerals as ASCII digits (log entry 51). -/
def pipeOut (op : Nat) (dec : Bool) (key iv prior data : Bytes) (digits tweak : Nat) : Bytes :=
  let b := cipherOf (opTdes op) key
  let all := prior ++ data
  (if op = 1 ∨ op = 0x11 then ecb (if dec then b.dec else b.enc) b.size all
    else if op = 2 ∨ op = 0x12 then (if dec then cbcDec b (iv.take b.size) all else cbcEnc b (iv.take b.size) all)
    else if op = 3 then ctrMode b 4 iv all
    else if op = 4 then gcmCrypt key (iv.take 12) all
    else if op = 6 then xts key iv all dec
    else if op = 7 then
      prior ++ decText digits (numeralsNum 10 (ff1 key (piece data 0 tweak) 10 dec (asciiDigits (piece data tweak digits))))
    else prior ++ cbcMac b.enc 16 data).drop prior.length

/-- The tag of a MAC operation. -/
def pipeMac (op : Nat) (key m : Bytes) : Bytes :=
  if op = 5 then cmac (aes key) m
  else if op = 0x15 then cmac (tdes key) m
  else if op = 0x13 then mac1 key m 1
  else mac3 key m 1

/-- The ticket of a request (R214): its IV and the ticket's use, or the status that ends the request. -/
def ticketIv (p : PPort) (x : WCtx) (d : Bytes) : Except Status (Option Bytes) :=
  let enc := (dOp d == 3 || dOp d == 4) && !dDec d && !dCont d
  if dTicket d then
    match (if dBankL d then p.ticketL else p.ticketS) with
    | none => .error .badParameter
    | some (h, v) =>
      if h ≠ dHandle d then .error .keyUsage
      else .ok (some (be 4 x.fixed.toNat ++ be 8 v.toNat ++ [0, 0, 0, 1]))
  else if enc then .error .keyUsage
  else .ok none

/-- The saved state that a CONT request continues, when its block passes its check (R219). -/
def State.contOf (s : State) (c : Nat) (r : PReq) : Option PSaved :=
  match s.engineRead c r.who (dState r.desc) 64 with
  | some b => (s.grove (groveOf c)).psaved.find? (fun p =>
      p.block == b && p.partition == r.jpart && p.handle == dHandle r.desc && p.op == dOp r.desc)
  | none => none

/-- Under MORE the request's state goes to its state block. -/
def State.saveMore (s : State) (c : Nat) (r : PReq) (iv aad prior : Bytes) : State × Bool :=
  if dMore r.desc then
    let b := s.freeBytes 64
    let s := s.drawn
    let (s, ok) := s.engineWrite c r.who (dState r.desc) b
    (s.modGrove (groveOf c) (fun g => { g with psaved :=
      { block := b, partition := r.jpart, handle := dHandle r.desc, op := dOp r.desc, iv, aad, prior } :: g.psaved }), ok)
  else (s, true)

/-- Consume the ticket of the request's bank. -/
def State.takeTicket (s : State) (c : Nat) (d : Bytes) : State :=
  s.modCell c (fun x =>
    { x with port := if dBankL d then { x.port with ticketL := none } else { x.port with ticketS := none } })

/-- OK, or CELL_FAULT where a burst faulted. -/
def faultIf (ok : Bool) : Status := if ok then .ok else .cellFault

/-- A MAC operation over all its data. -/
def State.pipeTag (s : State) (c : Nat) (r : PReq) (x : WCtx) (iv all : Bytes) : State × Status :=
  let d := r.desc
  let op := dOp d
  let m := if opTdes op then 8 else 16
  if dMore d then
    let (s, ok) := s.saveMore c r iv [] all
    (s, faultIf ok)
  else if dDec d then
    match s.engineFetch c r.who (dDst d) m with
    | (s, some t) => (s, if t = pipeMac op x.key all then .ok else .verifyFail)
    | (s, none) => (s, .cellFault)
  else
    let (s, ok) := s.engineWrite c r.who (dDst d) (pipeMac op x.key all)
    (s, faultIf ok)

/-- The data work of a request whose checks have passed, behind what earlier segments left. -/
def State.pipeWork (s : State) (c : Nat) (r : PReq) (x : WCtx) (iv aad prior : Bytes) (cut : Option Nat) : State × Status :=
  let d := r.desc
  let op := dOp d
  let n := dLen d
  let w := r.who
  let tagIn := if op = 4 && dDec d && !dMore d then dTag d else 0
  let want := dAad d + n + tagIn
  let (s, src) := s.source c r want cut
  let aad := aad ++ src.take (dAad d)
  let data := (src.drop (dAad d)).take n
  let whole := decide (src.length = want)
  if opMac op then (if whole then s.pipeTag c r x iv (prior ++ data) else (s, .cellFault))
  else
    let b := if opTdes op then 8 else 16
    let data := if whole ∨ op = 3 ∨ op = 4 then data else if op = 7 then [] else data.take (data.length / b * b)
    let out := if op = 7 ∧ !whole then [] else pipeOut op (dDec d) x.key iv prior data (field d 32 1) (field d 33 1)
    let (s, ok) := s.engineWrite c w (dDst d) out
    if !ok || !whole then (s, .cellFault)
    else if op = 4 then
      let ct := prior ++ (if dDec d then data else out)
      let tag := gcmTag x.key (iv.take 12) aad ct (dTag d)
      if dMore d then
        let (s, ok) := s.saveMore c r iv aad ct
        (s, faultIf ok)
      else if dDec d then
        if tag = src.drop (dAad d + n) then (s, .ok)
        else ((s.engineWrite c w (dDst d) (List.replicate n 0)).1, .verifyFail)
      else
        let (s, ok) := s.engineWrite c w (dDst d + n) tag
        (s, faultIf ok)
    else
      let (s, ok) := s.saveMore c r iv [] (prior ++ data)
      (s, faultIf ok)

/-- A request runs to its end with the context that its stream is bound to: parameters, the context's permission, the ticket, the
data (R209, R210, R214, R219). -/
def State.pipeRun (s : State) (c : Nat) (r : PReq) (x : WCtx) (cut : Option Nat) : State × Status :=
  let d := r.desc
  let cont := if dCont d then s.contOf c r else none
  let start := if dCont d then ((cont.map (fun p => p.iv)).getD []) else if dTicket d then [0, 0, 0, 1] else dIv d
  let before := ((cont.map (fun p => p.prior.length)).getD 0)
  if !descOk c d (numBe start % 2 ^ 32) before || (dCont d && cont.isNone) then (s, .badParameter)
  else if !permitsOp x d || (opTdes (dOp d) && tdesWeak x.key x.alg) then (s, .keyUsage)
  else
    match ticketIv (s.cell c).port x d, cont with
    | .error e, _ => (s, e)
    | .ok _, some p => s.pipeWork c r x p.iv p.aad p.prior cut
    | .ok (some iv), none => ((s.takeTicket c d).put c (r.key + 32) iv).pipeWork c r x iv [] [] cut
    | .ok none, none => s.pipeWork c r x (dIv d) [] [] cut

/-- PIPELINE_REQUEST_END: the request of cell `c` at place `descriptor` in posting order has run. A request without a stream, and a
GCM stream that cannot have had a GHASH unit for its last block, has not. -/
def execPipelineRequestEnd (c : BitVec 8) (descriptor : Nat) (faultAfter : Option Nat) (s : State) : Answer :=
  let c := c.toNat
  match (s.cell c).port.outstanding[descriptor]? with
  | none => .next s
  | some r =>
    match r.bound, s.takesUnit c r with
    | some x, some t =>
      let (t, st) := t.pipeRun c r x faultAfter
      .next ((t.endRequest c r st).pipeFill (groveOf c))
    | _, _ => .next s

/-! ### Answers of heartwood (R208, 09 R248, 11 R309) -/

/-- Heartwood's answer reaches the KEYLD that waits. -/
def State.answered (s : State) (c : Nat) (st : Status) : State := s.modCell c (fun x => { x with answer := some st })

/-- HEARTWOOD_LOAD_WINDOW: the key of a KEYLD with target 2, or of the oldest request that missed, arrives or is refused. -/
def execHeartwoodLoadWindow (c : BitVec 8) (s : State) : Answer :=
  let c := c.toNat
  let x := s.cell c
  match x.core.wait, x.answer with
  | .keyld _ h 2, none =>
    let (s, st) := s.loadWindow c x.jpart x.jobNow h
    .next ((s.answered c st).pipeFill (groveOf c))
  | _, _ =>
    match x.port.outstanding.find? (fun r => r.missing) with
    | none => .next s
    | some r =>
      match s.loadWindow c r.jpart r.job (dHandle r.desc) with
      | (s, .ok) => .next ((s.modReq c r.id (fun q => { q with missing := false })).pipeFill (groveOf c))
      | (s, st) => .next (s.endRequest c r st)

/-- Deliveries in flight into a half (`bank` true for half L). -/
def Cell.delivering (x : Cell) (bank : Bool) : List Handle := if bank then x.halfL.delivering else x.halfS.delivering
def Cell.setDelivering (x : Cell) (bank : Bool) (l : List Handle) : Cell :=
  if bank then { x with halfL := { x.halfL with delivering := l } } else { x with halfS := { x.halfS with delivering := l } }

/-- The oldest delivery into a half ends, if its load does not wait. The KEYLD that waits is answered by the last one, its own (11
R309). -/
def State.deliver (s : State) (c : Nat) (bank : Bool) : State :=
  match (s.cell c).delivering bank with
  | [] => s
  | h :: rest =>
    match s.loadHalf c h (b2n bank) with
    | (s, none) => s
    | (s, some st) =>
      let s := s.modCell c (fun x => x.setDelivering bank rest)
      match (s.cell c).core.wait with
      | .keyld _ _ t => if t = b2n bank && rest == [] then s.answered c st else s
      | _ => s

/-- The deliveries into a half end, as far as they can: BNX and WIPE on the half wait for them (11 R308, R310). -/
def State.deliverAll (s : State) (c : Nat) (bank : Bool) : State :=
  s.each ((s.cell c).delivering bank) (fun s _ => s.deliver c bank)

/-- HEARTWOOD_LOAD_HALF: the key of a KEYLD with target 0 or 1 arrives in its half, or is refused. -/
def execHeartwoodLoadHalf (c : BitVec 8) (s : State) : Answer :=
  let c := c.toNat
  .next (s.deliver c (((s.cell c).delivering false) == []))

/-! ### Digest engines (R221 to R231) -/

def Cell.dctx (x : Cell) (i : Bool) : DCtx := if i then x.dctx1 else x.dctx0
def State.setDctx (s : State) (c : Nat) (i : Bool) (d : DCtx) : State :=
  s.modCell c (fun x => if i then { x with dctx1 := d } else { x with dctx0 := d })
def State.modDctx (s : State) (c : Nat) (i : Bool) (f : DCtx → DCtx) : State := s.setDctx c i (f ((s.cell c).dctx i))

/-- As whom the engine reads and writes for a context; a partition of 64 stands for an invalid ATCTX (12 R332). -/
def DCtx.who (d : DCtx) : Who :=
  { pl := d.goPl, part := if d.goPart < 64 then some d.goPart else none, valid := !d.goPl || decide (d.goPart < 64), seen := d.seen }

/-- The digest of what a context absorbed (R222). -/
def DCtx.digest (d : DCtx) : Bytes :=
  let n := hashLen d.curAlg d.curOut
  let rate := if d.curAlg = 7 then 168 else 136
  if d.curAlg < 7 then (if d.curKeyed then hmac d.curAlg d.keyHeld d.absorbed else hashOf d.curAlg d.absorbed n)
  else if d.curKeyed then kmac rate d.keyHeld d.absorbed d.cust n
  else cshake rate d.absorbed [] d.cust n

/-- A context ends with an error (R226). -/
def DCtx.fail (d : DCtx) (st : Status) : DCtx := { d with state := .error, code := BitVec.ofNat 16 st.code }

/-- The registers in force are taken for a digest that starts (R226, R228). -/
def DCtx.latch (d : DCtx) : DCtx :=
  { d with curAlg := d.alg.toNat, curKeyed := d.keyed, curKey := d.key, curOut := d.outLen.toNat, curPair := d.pair }

/-- A new digest starts over fresh state (R228). -/
def DCtx.start (d : DCtx) : DCtx :=
  let d := if d.latched then d else d.latch
  { d with
    gen := d.gen + 1, res := [], bytes := 0, absorbed := [], keyHeld := [], keyGiven := false, cust := [], latched := false
    state := .open }

/-- HMAC block lengths. -/
def hmacBlock (alg : Nat) : Nat := if alg = 1 then 64 else 128

/-- The handle's key over the key lane (R227): the grove's window, filled from heartwood on a miss. -/
def State.laneKey (s : State) (c : Nat) (d : DCtx) : State × Except Status Bytes :=
  let g := groveOf c
  let use (s : State) (x : WCtx) : State × Except Status Bytes :=
    let k : Slot := { alg := x.alg, usage := x.usage }
    let ok := if 7 ≤ d.curAlg then x.alg == 0x09 && k.code == 0x10 else x.alg == 0x08 && k.code == 0x09
    if ok && (k.mayGenerate || k.mayVerify) then (s.windowUse g x, .ok x.key) else (s, .error .keyUsage)
  match (s.grove g).lookup d.curKey d.partition with
  | some x => use s x
  | none =>
    match s.loadWindow c d.partition (s.cell c).jobNow d.curKey with
    | (s, .ok) => match (s.grove g).lookup d.curKey d.partition with
      | some x => use s x
      | none => (s, .error .keyNotFound)
    | (s, st) => (s, .error st)

/-- The key of a keyed digest that names a handle. -/
def State.keyIn (s : State) (c : Nat) (d : DCtx) : State × DCtx :=
  if d.curKeyed && d.curKey != 0 && d.keyHeld == [] then
    match s.laneKey c d with
    | (s, .ok k) => (s, { d with keyHeld := k })
    | (s, .error e) => (s, d.fail e)
  else (s, d)

/-- A digest may run under the registers taken: a code 1 to 8, keyed only for codes 1 to 3, 7 and 8, an output length (R224). -/
def DCtx.mayRun (d : DCtx) : Bool :=
  decide (1 ≤ d.curAlg ∧ d.curAlg ≤ 8) && (!d.curKeyed || [1, 2, 3, 7, 8].contains d.curAlg) &&
    (decide (d.curAlg < 7) || decide (1 ≤ d.curOut ∧ d.curOut ≤ 1024))

/-- A fragment's flags and place that end a list with BAD_PARAMETER (R222, R225, R226). -/
def DCtx.refuses (d : DCtx) (flags n : Nat) : Bool :=
  let key := bit flags 1
  let cust := bit flags 2
  decide (8 ≤ flags) || (key && (!d.curKeyed || d.curKey != 0)) || (cust && decide (d.curAlg < 7)) || (key && cust) ||
    ((key || cust) && d.absorbed != []) || (key && decide (d.curAlg ≤ 3) && decide (hmacBlock d.curAlg < n))

/-- Absorb one fragment, whose bytes have been read, into a context (R225 to R228): the first KEYFRAG is the key. -/
def State.absorb (s : State) (c : Nat) (d : DCtx) (flags : Nat) (data : Bytes) : State × DCtx :=
  if d.state = .error then (s, d)
  else if d.state = .done && data == [] then (s, if d.refuses flags 0 then d.fail .badParameter else d)
  else
    let (s, d) :=
      if d.state = .open then (s, d)
      else
        let d := d.start
        if d.mayRun then s.keyIn c d else (s, d.fail .badParameter)
    if d.state = .error then (s, d)
    else if d.refuses flags data.length then (s, d.fail .badParameter)
    else
      let d := if bit flags 1 then (if d.keyGiven then d else { d with keyHeld := data, keyGiven := true })
        else if bit flags 2 then { d with cust := data }
        else { d with absorbed := d.absorbed ++ data, bytes := d.bytes + BitVec.ofNat 64 data.length }
      if bit flags 0 then
        let out := d.digest
        let d := { d with res := out.take 64, state := .done, keyHeld := [] }
        if 64 < out.length then
          let (s, ok) := s.engineWrite c d.who d.out.toNat out
          (s, if ok then d else d.fail .cellFault)
        else (s, d)
      else (s, d)

/-- Process a descriptor list from descriptor `i` on for a context, and for context 1 beside context 0 (R229). -/
def State.digestList : Nat → State → Nat → DCtx → Option DCtx → Nat → State × DCtx × Option DCtx
  | 0, s, _, d, e, _ => (s, d, e)
  | n + 1, s, c, d, e, i =>
    let w := d.who.burst (i * 2 ^ 20)
    match s.engineFetch c w (d.list.toNat + 16 * i) 16 with
    | (s, none) => (s, d.fail .cellFault, e)
    | (s, some x) =>
      if field x 13 3 ≠ 0 ∨ 16 * mib < field x 8 4 then (s, d.fail .badParameter, e)
      else
        match s.engineFetch c w (field x 0 8) (field x 8 4) with
        | (s, none) => (s, d.fail .cellFault, e)
        | (s, some data) =>
          let (s, d) := s.absorb c d (field x 12 1) data
          if d.state = .error then (s, d, e)
          else
            let (s, e) := match e with
              | some y =>
                if d.curPair then
                  let (s, y) := s.absorb c y (field x 12 1) data
                  (s, some y)
                else (s, some y)
              | none => (s, none)
            State.digestList n s c d e (i + 1)

/-- Context 0 feeds context 1: PAIR as its digest in progress has it, or as the next one will (R226, R229). -/
def DCtx.feeds (d : DCtx) : Bool := if d.state = .open ∨ d.state = .busy then d.curPair else d.pair

/-- A context becomes BUSY for a list. -/
def DCtx.go (d : DCtx) (w : Who) (jpart : Nat) (paired : Bool) : DCtx :=
  let e := if d.state = .open then d else { d.latch with latched := true }
  { e with
    goPl := w.pl
    goPart := if w.valid then w.part.getD 64 else 64
    partition := jpart, seen := [], wasOpen := d.state == .open, wasDone := d.state == .done, state := .busy, code := 0, paired }

/-- A context may not take the job's list: it holds another partition's work (R223). -/
def DCtx.foreign (d : DCtx) (jpart : Nat) : Bool := d.state != .idle && d.partition != jpart

/-- DGO.GO (R223, R226, R229). While BUSY the write does nothing (log entry 14). -/
def State.dgo (s : State) (c : Nat) (i : Bool) : State :=
  let x := s.cell c
  let d := x.dctx i
  let w := s.who c
  if i && x.dctx0.feeds then s.setDctx c i (d.fail .badParameter)
  else if d.state = .busy then s
  else if d.foreign x.jpart then s.setDctx c i (d.fail .partitionMismatch)
  else
    let s := s.setDctx c i (d.go w x.jpart false)
    let e := x.dctx1
    if !i && d.feeds && e.state != .busy then
      s.setDctx c true (if e.foreign x.jpart then e.fail .partitionMismatch else e.go w x.jpart true)
    else s

/-- A BUSY context as its list is processed: in the state that it was in when GO was written. -/
def DCtx.resume (d : DCtx) : DCtx := { d with
  state := if d.wasOpen then .open else if d.wasDone then .done else .idle, wasOpen := false, wasDone := false }

/-- A context after its list: no longer fed. -/
def DCtx.rest (d : DCtx) : DCtx := { d with paired := false, latched := false }

/-- A handle-keyed digest that goes on without its key fetches it again (R230). -/
def State.keyAgain (s : State) (c : Nat) (d : DCtx) : State × DCtx := if d.state = .open then s.keyIn c d else (s, d)

/-- The lists of a context and of one that it feeds. -/
def State.digestRun (s : State) (c : Nat) (d : DCtx) (e : Option DCtx) : State × DCtx × Option DCtx :=
  let n := d.count.toNat
  if d.state = .error then (s, d, e)
  else if n = 0 ∨ 4096 < n then (s, d.fail .badParameter, e)
  else s.digestList n c d e 0

/-- Context 1 as context 0's list may take it: it is BUSY with that list, or the list's next digest takes PAIR as it stands (R226,
R229). -/
def State.digestPartner (s : State) (c : Nat) (d : DCtx) : Option DCtx :=
  let e := (s.cell c).dctx1
  if e.state = .busy then (if e.paired then some e else none)
  else if d.pair && !e.foreign d.partition then
    some (e.go { pl := d.goPl, part := some d.goPart, valid := decide (d.goPart < 64) } d.partition true)
  else none

/-- DIGEST_LIST_END: the list of a busy context has been processed, for context 1 too when PAIR is set. -/
def State.digestEnd (s : State) (c : Nat) (i : Bool) : State :=
  let x := s.cell c
  let d := x.dctx i
  if d.state = .busy && !d.paired then
    let (s, d) := s.keyAgain c d.resume
    match (if i then none else s.digestPartner c d) with
    | some e =>
      let (s, e) := s.keyAgain c e.resume
      let (s, d, e2) := s.digestRun c d (some e)
      let s := s.setDctx c false d.rest
      if x.dctx1.paired ∨ e2 ≠ some e then s.setDctx c true (e2.getD {}).rest else s
    | none =>
      let (s, d, _) := s.digestRun c d none
      let s := s.setDctx c i d.rest
      if !i && d.curPair && x.dctx1.foreign d.partition then s.modDctx c true (fun e => e.fail .partitionMismatch) else s
  else s

/-- DGO.ABORT (R224). Context 1 is no longer fed when context 0 stops. -/
def State.dabort (s : State) (c : Nat) (i : Bool) : State :=
  let s := if !i && (s.cell c).dctx1.paired then s.modDctx c true (fun d => d.resume.rest) else s
  s.modDctx c i (fun d => { d.rest with
    state := .idle, res := [], absorbed := [], keyHeld := [], keyGiven := false, cust := [], wasOpen := false, wasDone := false })

/-- DSAVE.SAVE (R230): 512 bytes under the grove's per-reset key, bound to the partition. -/
def State.dsave (s : State) (c : Nat) (i : Bool) : State :=
  let d := (s.cell c).dctx i
  let w := s.who c
  let refuse := s.modDctx c i (fun d => { d with saveSt := .refused })
  if d.state = .busy || d.foreign (s.cell c).jpart || d.save.toNat % 64 != 0 || !sramAddr c d.save.toNat then refuse
  else
    let b := s.freeBytes 512
    let (t, ok) := s.drawn.engineWrite c w d.save.toNat b
    if ok then
      let kept := { d with keyHeld := if d.curKey = 0 then d.keyHeld else [], saveSt := .none }
      (t.modGrove (groveOf c) (fun g => { g with
        dsaved := { area := b, partition := (s.cell c).jpart, ctx := kept } :: g.dsaved })).modDctx c i
        (fun d => { d with saveSt := .done })
    else t.modDctx c i (fun d => { d with saveSt := .refused })

/-- DSAVE.RESTORE (R230). -/
def State.drestore (s : State) (c : Nat) (i : Bool) : State :=
  let d := (s.cell c).dctx i
  if d.state = .busy then s.modDctx c i (fun d => { d with saveSt := .refused })
  else
    let found : Option DSaved := match s.engineRead c (s.who c) d.save.toNat 512 with
      | some b => (s.grove (groveOf c)).dsaved.find? (fun x => x.area == b && x.partition == (s.cell c).jpart)
      | none => none
    match found with
    | some x => s.setDctx c i { x.ctx with
        saveSt := .done, partition := x.partition, list := d.list, count := d.count, save := d.save, out := d.out, cmp := d.cmp
        cmpLen := d.cmpLen }
    | none => s.modDctx c i (fun d => { d with saveSt := .failed })

/-- DCMPGO (R231). -/
def State.dcmpgo (s : State) (c : Nat) (i : Bool) : State :=
  s.modDctx c i (fun d => { d with cmpBusy := true, cmpValid := false, cmpMatch := false })

/-- DCMP_END: the comparison ends, once the context is not BUSY (R231). A read that faults is no match, nor is a context that
holds another partition's digest. -/
def State.dcmpEnd (s : State) (c : Nat) (i : Bool) : State :=
  let d := (s.cell c).dctx i
  if d.cmpBusy && d.state != .busy then
    let (s, value) := s.engineFetch c (s.who c) d.cmp.toNat d.cmpLen.toNat
    let same := value.any (fun b => b == (padTo 64 d.res).take d.cmpLen.toNat)
    s.setDctx c i { d with
      cmpBusy := false, cmpValid := true, cmpMatch := same && d.state == .done && !d.foreign (s.cell c).jpart }
  else s

def execDigestListEnd (c : BitVec 8) (ctx : Bool) (s : State) : Answer := .next (s.digestEnd c.toNat ctx)
def execDcmpEnd (c : BitVec 8) (ctx : Bool) (s : State) : Answer := .next (s.dcmpEnd c.toNat ctx)
/-- DBYTESL_READ: the low word is read and the high word latched (R224). -/
def execDbyteslRead (c : BitVec 8) (ctx : Bool) (s : State) : Answer :=
  .next (s.modDctx c.toNat ctx (fun d => { d with bytesH := d.bytes.extractLsb' 32 32 }))

end Sys2Proof.Machine
end

