-- ==== Sys2Proof/Machine/JobFlow.lean ====
section
/-! DEFINITION. A job's way between the dispatchers and the trunk: copies in the groves, completion records, DUAL comparison,
restarts, fences and the loss of a grove (02 R44 to R57, 06 R149 to R174). -/

namespace Sys2Proof.Machine

/-! ### Copies -/

/-- The budget b of a tick, in µs (02 R41). -/
def State.budget (s : State) : Nat := s.sched.period - 8

/-- Slices of a declared time: 1 when it fits the budget, else ⌈W / b⌉ (02 R43). -/
def slicesOf (w b : Nat) : Nat := if w ≤ b then 1 else (w + b - 1) / b

/-- Take a job's item off a cell, and the cell's resident mark and its kernel's Seed request with it. -/
def State.offCell (s : State) (c j : Nat) : State :=
  (s.modCell c (fun x => { x with
    plan := x.plan.filter (fun i => i.job != j)
    resident := if x.resident = some j then none else x.resident })).seedDrop (groveOf c) j

/-- The state that a cell is in once its resident job has gone (06 R153). -/
def Cell.settle (x : Cell) : Cell :=
  if x.resident.isSome || x.intern.any (fun i => i.long) then x
  else match x.st with
    | .resident => { x with st := .idle }
    | .draining => { x with st := .drained }
    | _ => x

/-- Internal jobs of a cell that stops for good go back, to restart from the beginning (02 R49, R57; log entry 18). -/
def State.internBack (s : State) (c : Nat) : State :=
  let back := (s.cell c).intern.map (fun i => { i with left := i.w, long := false, allowance := 0 })
  { (s.modCell c (fun x => { x with intern := [] })) with sched := { s.sched with unplaced := back ++ s.sched.unplaced } }

/-- JPART and JTIME show the job that the cell has in hand (06 R154). -/
def State.refreshJob (s : State) (c : Nat) : State :=
  match (s.cell c).jobNow with
  | some j =>
    match s.job? j with
    | some x => s.modCell c (fun y => { y with
        jpart := x.partition, jtime := min 0xFFFFFFFF (((x.copy (groveOf c)).map (fun k => k.used)).getD 0) })
    | none => s
  | none => s

/-- A copy that has not started goes back to its place in the intake (02 R54); one that restarts loses what it had run and
keeps its stamp (06 R165). Its requests are cancelled and its ticket is discarded (08 R220). Another attempt checks afresh (05 R125), and
has a fresh value where one had been delivered; it keeps the value of a DUAL pair while the other copy has a use for it (log entry
63). -/
def State.copyBack (s : State) (j : Nat) (g : Bool) (restart : Bool) : State :=
  match s.copy? j g with
  | none => s
  | some k =>
    let s := (s.portsCancel k.cell (fun r => r.job == some j) (k.ticketed && !k.long) (k.ticketed && k.long)).pipeFill g
    let s := s.offCell k.cell j
    let s := s.modCell k.cell Cell.settle
    let s := s.modCopy j g (fun k => { k with
      place := .waiting, cell := 0xFF, ran := 0, lastRan := none, overran := false, ext := 0, restarted := k.restarted || restart
      result := none, random := none, draws := [], drawFailed := false, loaded := none, ticketed := false, entered := false })
    if restart || k.ticketed then
      s.modJob j (fun x => { x with
        checked := none, issued := if (x.copy (!g)).any (fun k => k.loaded.isSome || k.result.isSome) then x.issued else none })
    else s

/-- KBOUND as the shipped kernel sets it: it keeps the low 16 KiB of each SRAM, and grants the bank of the running job (11 R287). -/
def kernelBound (long : Option Bool) : Word :=
  0x2020 + (match long with
    | none => 0
    | some false => 0x10000
    | some true => 0x20000)

/-- The kernel has done with a job and is at step 1 of R149: out of the exception window and of the guard handler, whose stack pointer
GSTACK has again (12 R323, R324, R328). The other general registers are left as they stood (log entry 55). -/
def Core.atLoop (k : Core) : Core :=
  let k := if k.guard then { k with gstack := k.gpr[31], gpr := k.gpr.set 31 Config.kernelStack } else k
  { k with
    en := false, guard := false, pl := false, ie := false, prog := 0, kbound := kernelBound none
    pc := 4 * Config.kernelLoop.setWidth 64, wait := .none }

/-- Wipe what a job had on a cell: its banks, the secret halves, data SRAM above KBOUND, the scratch area, the ports; ATCTX is no longer
valid, and where the cell ran the job the kernel has it (06 R149 step 11, R150, 12 R330). -/
def State.wipeCopy (s : State) (c j : Nat) (long mine : Bool) : State :=
  ((s.wipeJob c j long).modCell c (fun x => { x with
    atValid := false
    savedCore := if long then none else x.savedCore
    core := if mine then x.core.atLoop else x.core })).pipeFill (groveOf c)

/-- The completion record of a copy (06 R155). -/
def Job.record (x : Job) (j : Nat) (g : Bool) (k : Copy) (epoch : Nat) (st : Status) (out : Bytes) (outLen : Nat) : Posted :=
  { job := j, grove := g, status := st, out, outLen, entryDigest := entryDigest x.entries x.input (k.ran != 0)
    outDigest := outputDigest out st, epoch, cell := if k.ran = 0 then 0xFF else k.cell, tick := k.tick, ran := k.ran }

/-- A copy leaves its cell: the cell's counters move and the wipe is made (06 R149 step 11, R154, R175). -/
def State.leaveCell (s : State) (j : Nat) (g : Bool) (st : Status) : State :=
  match s.copy? j g with
  | none => s
  | some k =>
    let c := k.cell
    let mine := s.inHand c == some j
    let s := s.modCopy j g (fun k => { k with place := .ended, loaded := none, draws := [] })
    let s := (s.offCell c j).wipeCopy c j k.long mine
    let s := s.modCell c (fun y => Cell.settle { y with
      cntJob := y.cntJob + 1, wJobs := y.wJobs + 1
      wOverruns := if st = .sliceOverrun then min 255 (y.wOverruns + 1) else y.wOverruns })
    s.refreshJob c

/-- The FENCE of the kernel's WIPE waits for the stores of the job that the cell ran; one that a failed line discarded raises DATABUS
there, with its records (11 R310, 12 R328, R336). Answers whether it did. -/
def State.fenceJob (s : State) (c j : Nat) : State × Bool :=
  if s.inHand c == some j then
    match s.fenced c with
    | (s, none) => (s, false)
    | (s, some r) => ((s.modCore c (fun k => { k with en := false, guard := false, pl := false })).trap c r, true)
  else (s, false)

/-- A record is handed to the dispatcher (06 R155). -/
def State.post (s : State) (r : Posted) : State :=
  ({ s with posted := s.posted ++ [r] }).modGrove r.grove (fun y => { y with dpBusy := true })

/-- A copy ends on its cell: its output is staged, the wipe is made, the completion record is posted (06 R149 steps 9 to 12). A store
that was discarded ends it with CELL_FAULT. -/
def State.postCopy (s : State) (j : Nat) (g : Bool) (st : Status) (out : Bytes) (outLen : Nat) : State :=
  match s.job? j, s.copy? j g with
  | some x, some k =>
    match s.fenceJob k.cell j with
    | (s, true) => (s.leaveCell j g .cellFault).post (x.record j g k s.trunk.epoch.toNat .cellFault [] 0)
    | (s, false) => ((s.stageOutput j g out).leaveCell j g st).post (x.record j g k s.trunk.epoch.toNat st out outLen)
  | _, _ => s

/-- A copy of a fenced cell ends: its record is posted at step t5 of the tick (06 R156), and after that step in the guard at t5 of
the next tick, which the rule leaves open (log entry 72). -/
def State.postLate (s : State) (j : Nat) (g : Bool) (st : Status) : State :=
  match s.job? j, s.copy? j g with
  | some x, some k =>
    let s := s.leaveCell j g st
    { s with sched := { s.sched with t5 := s.sched.t5 ++ [.record (x.record j g k s.trunk.epoch.toNat st [] 0)] } }
  | _, _ => s

/-! ### Evictions and fences (06 R152, R156, R159, R164, R165) -/

/-- A job that can restart on a REQUEUE queue does; otherwise its copy ends with DRAINED_RETRY, now or at t5 (02 R54, 06 R156,
R164, R165). -/
def State.evictCopy (s : State) (j : Nat) (g : Bool) (late : Bool) : State :=
  match s.job? j, s.copy? j g with
  | some x, some k =>
    if x.requeue then
      match (if late then (s, false) else s.fenceJob k.cell j) with
      | (s, true) => (s.leaveCell j g .cellFault).post (x.record j g k s.trunk.epoch.toNat .cellFault [] 0)
      | (s, false) => (s.wipeCopy k.cell j k.long (s.inHand k.cell == some j)).copyBack j g true
    else if late then s.postLate j g .drainedRetry
    else s.postCopy j g .drainedRetry [] 0
  | _, _ => s

/-- A copy is taken out of its intake and plan, with any record of it on its way, and is gone. -/
def State.dropCopy (s : State) (j : Nat) (g : Bool) : State :=
  let mine (p : Posted) : Bool := p.job == j && p.grove == g
  let s := { s with
    posted := s.posted.filter (fun p => !mine p)
    sched := { s.sched with t5 := s.sched.t5.filter (fun l => match l with
      | .record p => !mine p
      | .settle _ => true) } }
  match s.copy? j g with
  | none => s
  | some k =>
    ((s.offCell k.cell j).modJob j (fun x => x.setCopy g none)).modGrove g (fun y => { y with intake := y.intake.filter (· != j) })

/-- An eviction at a budget end: the other copy of a DUAL job that does not restart is stopped with it, or is taken out of its
intake or plan, or its result is discarded (06 R165). -/
def State.evictPair (s : State) (j : Nat) (g : Bool) : State :=
  match s.job? j with
  | none => s
  | some x =>
    let t := s.evictCopy j g false
    if x.requeue then t
    else match x.copy (!g) with
      | none => t
      | some k => if k.place = .running then t.postCopy j (!g) .drainedRetry [] 0 else t.dropCopy j (!g)

/-- The record of a fence and the FAILED cell's event (06 R159). -/
def State.fenceRecord (s : State) (c cause : Nat) : State := s.logEvent 0x0403 c 0 0xFF (le 1 cause)

/-- A cell of a serving grove is stopped, wiped, and its jobs are disposed of: the item running in its plan fails, a resident job
behind it is evicted, what has not started goes back. Their completions are posted at step t5 of the tick. A DRAINING cell that is
fenced counts as marked drained: R153 does not say (log entry 72). -/
def State.fence (s : State) (c cause : Nat) : State :=
  let x := s.cell c
  let g := groveOf c
  if [CellSt.idle, .resident, .draining].contains x.st && s.groveServes g then
    let items := (x.plan.map (fun i => i.job)) ++ (match x.resident with
      | some r => if x.plan.any (fun i => i.job == r) then [] else [r]
      | none => [])
    let s := s.fenceRecord c cause
    let s := s.each items (fun s j =>
      match s.copy? j g with
      | none => s
      | some k =>
        if k.place = .running then
          if x.plan.head?.map (fun i => i.job) = some j then s.postLate j g .cellFault else s.evictCopy j g true
        else s.copyBack j g false)
    let s := (((s.wipeCell c).portsClear c).pipeFill g).internBack c
    s.modCell c (fun y => { y with
      st := .fenced, markedDrained := y.markedDrained || x.st == .draining, fences := s.window :: y.fences
      wFences := min 255 (y.wFences + 1), plan := [], resident := none, atValid := false
      core := {} })
  else s

/-- Fences within the last 10 receipt windows (06 R154, R159). -/
def State.fenceCount (s : State) (c : Nat) : Nat := ((s.cell c).fences.filter (fun w => decide (s.window < w + 10))).length

/-! ### Ending DUAL and single jobs (06 R160, R161, R173) -/

/-- OK in place of any class 0x01 status, for the comparison (R161). -/
def Status.plain (st : Status) : Status := if st.cls = 1 then .ok else st

/-- The output digest that the comparison takes: the record's, or one over the output and OK for a class 0x01 status (R161). -/
def Result.compared (r : Result) : Bytes := if r.status.cls = 1 then outputDigest r.out .ok else r.outDigest

/-- Both copies agree: entry digests, and output digests over output and plain status. -/
def Result.agrees (a b : Result) : Bool := a.entryDigest == b.entryDigest && a.compared == b.compared

/-- Classes 0x05 and 0x07 end a DUAL job without a comparison. -/
def Status.stops (st : Status) : Bool := st.cls == 5 || st.cls == 7

/-- The status of a job done by one copy alone: restarted copies end with OK_REQUEUED, a degraded job with OK_DEGRADED
(02 R54, R57, 06 R173). -/
def finalStatus (st : Status) (restarted degraded : Bool) : Status :=
  if st.good then (if degraded then .okDegraded else if restarted then .okRequeued else st) else st

/-- Both results of a DUAL job are there: the outcome of R161. -/
def State.settleDual (s : State) (j : Nat) : State :=
  match s.job? j with
  | none => s
  | some x =>
    match x.copyA, x.copyB with
    | some a, some b =>
      match a.result, b.result with
      | some ra, some rb =>
        let tick := max a.tick b.tick
        let ran := max a.ran b.ran
        let bad := [ra.status, rb.status].filter (fun st => st.stops)
        match bad with
        | st :: rest =>
          let st := rest.foldl (fun m q => if m.code < q.code then q else m) st
          s.endJob j st [] 0 ra.entryDigest a.cell tick ran
        | [] =>
          if ra.agrees rb then
            let st := finalStatus ra.status.plain (a.restarted || b.restarted) false
            s.endJob j st (if st.good then ra.out else []) ra.outLen ra.entryDigest a.cell tick ran
          else
            let s := s.endJob j .dualMismatch [] 0 ra.entryDigest a.cell tick ran
            (s.fence a.cell 1).fence b.cell 1
      | _, _ => s
    | _, _ => s

/-- A held result of a job whose partner is absent, or a single job's result, is written (06 R173, 05 R27). -/
def State.settleSingle (s : State) (j : Nat) (k : Copy) (r : Result) : State :=
  match s.job? j with
  | none => s
  | some x =>
    let st := finalStatus r.status k.restarted x.degraded
    let out := if st.good then r.out else []
    s.endJob j st out r.outLen r.entryDigest (if k.ran = 0 then 0xFF else k.cell) k.tick k.ran
      (some (if st = r.status then r.outDigest else outputDigest out st, r.epoch))

/-- A job marked for an end once its other copy has been disposed of: EXPIRED counts as never admitted and carries the expiry
boundary (02 R45); any other status names the copy that ended. -/
def State.settleMark (s : State) (j : Nat) (st : Status) (cell tick ran : Nat) : State :=
  match s.job? j with
  | none => s
  | some x =>
    if st = .expired then s.endJob j st [] 0 (entryDigest x.entries [] false) 0xFF x.markTick 0
    else s.endJob j st [] 0 (entryDigest x.entries x.input (ran != 0)) (if ran = 0 then 0xFF else cell) tick ran

/-- Statuses in the order in which one stop prevails over another (18 R460); EXPIRED, judged before the budget, prevails. -/
def stopRank (st : Status) : Nat :=
  match st with
  | .expired => 8
  | .haltedByAlarm => 7
  | .queueDestroyed => 6
  | .cellFault => 5
  | .dualMismatch => 4
  | .partnerLost => 3
  | .sliceOverrun => 2
  | .drainedRetry => 1
  | _ => 0

/-- The status that a marked job ends with when its copy ended with another. -/
def stronger (mark st : Status) : Status := if stopRank mark < stopRank st then st else mark

/-- A copy has started, and its record has not come to the trunk. -/
def Copy.inCell (k : Copy) : Bool := k.place == .running || (k.place == .ended && k.result.isNone)

/-- The trunk takes the oldest posted record. -/
def State.receive (s : State) : State :=
  match s.posted with
  | [] => s
  | p :: rest =>
    let s := { s with posted := rest }
    let s := s.modGrove p.grove (fun y => { y with dpBusy := rest.any (fun q => q.grove == p.grove) })
    match s.job? p.job with
    | none => s
    | some x =>
      let r : Result := { status := p.status, out := p.out, outLen := p.outLen, entryDigest := p.entryDigest
                          outDigest := p.outDigest, epoch := p.epoch }
      match x.mark with
      | some st =>
        if (x.copy (!p.grove)).any Copy.inCell then s.modCopy p.job p.grove (fun k => { k with result := some r })
        else s.settleMark p.job (stronger st p.status) p.cell p.tick p.ran
      | none =>
        match x.copyA, x.copyB with
        | some _, some _ => ((s.modCopy p.job p.grove (fun k => { k with result := some r })).settleDual p.job)
        | _, _ =>
          match x.copy p.grove with
          | some k => (s.settleSingle p.job k r)
          | none => s

/-- COMPLETION_RECEIVED: the trunk takes the oldest posted record (06 R155, 01 R27); a place in an intake may come free for an entry
that waits in host memory (02 R44). -/
def execCompletionReceived (s : State) : Answer := .next s.receive.fetch

/-! ### The loss of a grove (02 R57, 06 R167 to R174) -/

/-- The copy of a job that its completion names: one that has run, or any. -/
def Job.lastCopy (x : Job) : Option Copy :=
  let ks := [x.copyA, x.copyB].filterMap id
  (ks.find? (fun k => k.ran != 0)).or ks.head?

/-- Completion of a job that no cell will run: ticks run count for a copy that had run (05 R141), and the tick is that of the
admission, or the boundary after (03 R93). -/
def State.endNow (s : State) (j : Nat) (st : Status) : State :=
  match s.job? j with
  | none => s
  | some x =>
    match x.lastCopy with
    | some k =>
      if k.place = .waiting then s.endUnadmitted j st s.nextTick
      else s.endJob j st [] 0 (entryDigest x.entries x.input (k.ran != 0)) (if k.ran = 0 then 0xFF else k.cell) k.tick k.ran
    | none => s.endUnadmitted j st s.nextTick

/-- A job whose copy is gone and that is marked ends with its mark; another one as given. -/
def State.endMarked (s : State) (j : Nat) (st : Status) : State :=
  match (s.job? j).bind (fun x => x.mark) with
  | some .expired => s.settleMark j .expired 0xFF 0 0
  | some m => s.endNow j m
  | none => s.endNow j st

/-- No cell serves: everything in the intakes and on cells completes with DRAINED_RETRY (06 R171). -/
def State.endAll (s : State) (st : Status) : State := s.each (s.jobs.map (fun p => p.1)) (fun s j => s.endMarked j st)

/-- A DUAL job is settled at step t5 of this tick. -/
def State.settleLater (s : State) (j : Nat) : State := { s with sched := { s.sched with t5 := s.sched.t5 ++ [.settle j] } }

/-- A grove no longer serves: DUAL jobs go the way of their queue's DEGRADE (06 R173). A surviving copy that has started is
marked, and is stopped at its budget end; what does not run is settled at t5. -/
def State.partnerGone (s : State) (j : Nat) (gone : Bool) : State :=
  match s.job? j with
  | none => s
  | some x =>
    match x.copy (!gone) with
    | none => s
    | some k =>
      let s := s.dropCopy j gone
      if x.degrade then
        let s := s.modJob j (fun x => { x with degraded := true })
        if k.result.isSome then s.settleLater j else s
      else
        let s := s.modJob j (fun x => { x with mark := x.mark.or (some .partnerLost) })
        if k.place = .running ∨ (k.place = .ended ∧ k.result.isNone) then s
        else ((s.offCell k.cell j).modGrove (!gone) (fun y => { y with intake := y.intake.filter (· != j) })).settleLater j

/-- Step t5 for a DUAL job that lost its partner: its mark, or the result that it holds (06 R173). -/
def State.settleLate (s : State) (j : Nat) : State :=
  match s.job? j with
  | none => s
  | some x =>
    if x.mark.isSome then s.endMarked j .partnerLost
    else match [x.copyA, x.copyB].filterMap id with
      | [k] => match k.result with
        | some r => s.settleSingle j k r
        | none => s
      | _ => s

/-- Step t5 of R41: the records of fenced cells are posted, DUAL jobs without a partner are settled. -/
def State.lateWork (s : State) : State :=
  ({ s with sched := { s.sched with t5 := [] } }).each s.sched.t5 (fun s l => match l with
    | .record p => s.post p
    | .settle j => s.settleLate j)

/-- Move a single job to the other grove; what had been admitted restarts (02 R57, log entry 17). One that was to end at its next
stop has stopped, and ends. -/
def State.moveJob (s : State) (j : Nat) (src : Bool) : State :=
  match s.job? j, s.copy? j src with
  | some x, some k =>
    if x.mark.isSome then s.endMarked j .drainedRetry
    else
      let moved : Copy := { restarted := k.restarted || k.place != .waiting }
      let s := s.modJob j (fun x => { (x.setCopy src none).setCopy (!src) (some moved) with checked := none, issued := none })
      s.modGrove (!src) (fun y => { y with intake := y.intake ++ [j] })
  | _, _ => s

/-- A job with a copy in each grove. -/
def State.pairOf (s : State) (j : Nat) : Bool :=
  match s.job? j with
  | some x => x.copyA.isSome && x.copyB.isSome
  | none => false

def State.stampOf (s : State) (j : Nat) : Nat :=
  match s.job? j with
  | some x => x.stamp
  | none => 0

def State.entriesOf (s : State) (j : Nat) : Nat := ((s.job? j).map (fun x => x.entries.length)).getD 0

/-- The jobs that fit into a room of entries: those stamped last are left out first. The list has them newest first. -/
def State.fitting (s : State) : Nat → List Nat → List Nat
  | _, [] => []
  | room, j :: older => if ((j :: older).map s.entriesOf).sum ≤ room then j :: older else s.fitting room older

/-- Single jobs of a grove go to the head of the other grove's intake, those that do not fit complete with DRAINED_RETRY, the most
recently stamped first, and of equally stamped ones the one later in the intake (02 R57; log entry 72). -/
def State.moveSingles (s : State) (src : Bool) (singles : List Nat) : State :=
  let newest := (singles.mergeSort (fun a b => decide (s.stampOf a ≤ s.stampOf b))).reverse
  let kept := s.fitting (16384 - s.intakeUsed (!src)) newest
  let s := s.each (newest.filter (fun j => !kept.contains j)) (fun s j => s.endMarked j .drainedRetry)
  let own := (s.grove (!src)).intake
  let s := s.modGrove (!src) (fun y => { y with intake := [] })
  let s := s.each (singles.filter (fun j => kept.contains j)) (fun s j => s.moveJob j src)
  let s := s.modGrove (!src) (fun y => { y with intake := y.intake ++ own })
  s.modGrove src (fun y => { y with intake := y.intake.filter (fun j => !singles.contains j) })

/-- The entries of a grove's intake whose jobs wait there move; nothing of the grove runs (06 R167). -/
def State.moveWaiting (s : State) (src : Bool) : State :=
  s.moveSingles src ((s.grove src).intake.filter (fun j => !s.pairOf j && (s.copy? j src).any (fun k => k.place == .waiting)))

/-- The work of a grove that stops (02 R57, 06 R167, R173). A grove that is lost loses the records that its dispatcher had posted and the
trunk has not taken; of one that is powered down they come (log entry 17). -/
def State.moveWork (s : State) (src lost : Bool) : State :=
  let keeps (p : Posted) : Bool := !lost || p.grove != src || s.pairOf p.job
  let s := { s with
    posted := s.posted.filter keeps
    sched := { s.sched with t5 := s.sched.t5.filter (fun l => match l with
      | .record p => keeps p
      | .settle _ => true) } }
  let all := (s.grove src).intake
  let duals := all.filter (fun j => s.pairOf j)
  let singles := all.filter (fun j => !duals.contains j && (lost || (s.copy? j src).any (fun k => k.place != .ended)))
  ((s.each duals (fun s j => s.partnerGone j src)).moveSingles src singles).modGrove src (fun y => { y with intake := [] })

/-- Every cell of a grove stops with what it held (02 R57, 06 R167). -/
def State.clearCells (s : State) (g : Bool) (st : Cell → CellSt) : State :=
  s.each (cellsOf g) (fun s c => ((s.impreciseLost c).internBack c).modCell c (fun x => { x with
    st := st x, plan := [], resident := none, brem := 0, core := {}, atValid := false, plansFrom := 0 }))

/-- Cells of a grove that are neither drained nor FAILED. -/
def State.ableCells (s : State) (g : Bool) : List Nat :=
  (cellsOf g).filter (fun c => !([CellSt.drained, .failed].contains (s.cell c).st) && !(s.cell c).markedDrained)

/-- Start the self-test of a cell (06 R157, R166). -/
def State.startTest (s : State) (c : Nat) (byRestore : Bool) : State :=
  s.modCell c (fun x => { x with
    st := .selftest, markedDrained := if byRestore then false else x.markedDrained, testAt := s.clock.cd18, testByRestore := byRestore
    plansFrom := 0 })

/-- GROVE_MIN_RESTORE (06 R170): the drained cells of the lowest branch that has one are restored. -/
def State.minRestore (s : State) (g : Bool) : State :=
  let n := (s.ableCells g).length
  if n < 8 ∧ s.groveServes g then
    match (cellsOf g).find? (fun c => (s.cell c).st == .drained) with
    | none => s
    | some c0 =>
      let cs := (cellsOf g).filter (fun c => branchOf c == branchOf c0 && (s.cell c).st == .drained)
      let mask := cs.foldl (fun m c => m + 2 ^ leafOf c) 0
      let s := s.each cs (fun s c => s.startTest c true)
      s.logEvent 0x0407 (b2n g) 0 0xFF (le 1 (branchOf c0 % 16) ++ le 1 mask ++ le 1 n)
  else s

/-- The trunk declares a grove lost (06 R169, R171). Its cells become DRAINED, but for the FAILED ones: the rule names no CSTATE for
them (log entry 64). -/
def State.loseGrove (s : State) (g : Bool) : State :=
  let x := s.grove g
  if !x.serves then s
  else
    let s := s.clearCells g (fun y => if y.st = .failed then .failed else .drained)
    let s := s.wipeGrove g
    let again := match x.rejoinedAt with
      | some t => decide (s.since t < 3600 * second)
      | none => false
    let s := s.modGrove g (fun y => { y with
      powered := false, lost := true, linkUp := false, lostAt := s.clock.cd18, rising := none, rejoinTried := again, missed := 0 })
    let s := s.notify 0x0200 (b2n g) (le 1 (b2n g))
    if s.noneServes then s else (s.moveWork g true).minRestore (!g)

/-- No grove serves from a boundary on: every job ends, no entry is admitted, and roots are signed on the trunk's cores (06 R171). -/
def State.goDark (s : State) : State :=
  let s := s.endAll .drainedRetry
  let s := { s with sched := { s.sched with unplaced := [] } }
  { s with trunk := { s.trunk with dark := true } }

/-- A grove in which every cell is DRAINED or FAILED is wiped and power-gated (06 R167). -/
def State.powerDown (s : State) (g : Bool) : State :=
  let s := s.modGrove g (fun y => { y with powered := false, linkUp := false })
  let s := if s.noneServes then s.goDark else s.moveWork g false
  let s := (s.clearCells g (fun y => if y.st = .failed then .failed else .drained)).wipeGrove g
  if s.noneServes then s else s.minRestore (!g)

end Sys2Proof.Machine
end

