-- ==== Sys2Proof/Machine/Functions.lean ====
section
/-! DEFINITION. The transaction functions as the leaf kernel runs them (05, 06 R149): the checks of R120, the keys and the
randomness, the time a run takes, and how it ends. -/

namespace Sys2Proof.Machine

/-! ### Running (06 R149) -/

/-- What a run ends with: status, output, the output length of its completion (R93, R120 order 8), and how many declared times the
signing loop of MLDSA_SIGN takes (R122). -/
structure Ended where
  status : Status
  out : Bytes
  outLen : Nat
  times : Nat := 1
  deriving DecidableEq, Repr

def Ended.failed (st : Status) : Ended := { status := st, out := [], outLen := 0 }

/-- An output that does not fit its capacity: the needed length is reported (R120 order 8). -/
def Ended.tooLong (n : Nat) : Ended := { status := .badLength, out := [], outLen := n }

/-- Orders 8 and 9 of R120 for an output that is known. -/
def fit (x : Job) (st : Status) (out : Bytes) : Ended :=
  if !st.good then Ended.failed st
  else if x.outCap < out.length then Ended.tooLong out.length
  else { status := st, out, outLen := out.length }

/-- A custom function's end through SYSCALL 0: the status in g1, the output length in g2, and the output that it staged (11 R315). The
length is judged first. -/
def customEnd (x : Job) (status len : Nat) (out : Bytes) : Ended :=
  if x.outCap < len then Ended.tooLong len
  else match Status.ofCode status with
    | none => Ended.failed .cellFault
    | some st => if st.good then { status := st, out, outLen := len } else Ended.failed st

/-- What a copy whose keys are loaded and whose randomness is drawn is computed from; no function depends on the copies. -/
def Job.work (x : Job) (k : Copy) : Option Work :=
  match k.loaded, k.random with
  | some keys, some random =>
    some { job := { x with copyA := none, copyB := none }, keys, random, value := x.issued.getD 0
           digest := entryDigest x.entries x.input true }
  | _, _ => none

/-- Declared times that the signing loop takes; 66 when it has no signature after the first and 64 extensions (R122). -/
def Work.times (w : Work) : Nat :=
  if w.job.code = 0x0607 then
    match w.mldsaTurns with
    | some (_, n) => (n + loopTurns (variantOf w.alg) - 1) / loopTurns (variantOf w.alg)
    | none => 66
  else 1

/-- The signing loop of a copy has no signature within the time declared so far. -/
def Job.loops (x : Job) (k : Copy) : Bool := x.code == 0x0607 && (x.work k).any (fun w => decide (k.ext + 1 < w.times))

/-- Steps 5 and 6 of R149: orders 1 to 8, the tickets and the keys. Nothing is loaded while a load waits. -/
def State.prepare (s : State) (c j : Nat) (long : Bool) : State × Option Ended :=
  match s.job? j with
  | none => (s, none)
  | some x =>
    let form := formOf x (s.algOf x.handleA)
    match form.args with
    | some st => (s, some (Ended.failed st))
    | none =>
      let s := (s.jobCheck j).giveTicket c j
      match ((s.job? j).getD x).checked with
      | none => (s, none)
      | some .ok =>
        match form.out with
        | some n => if x.outCap < n then (s, some (Ended.tooLong n)) else load s
        | none => load s
      | some st => (s, some (Ended.failed st))
where
  /-- Step 6. -/
  load (s : State) : State × Option Ended :=
    match s.loadKeys c j long with
    | (s, some (.ok l)) => (s.modCopy j (groveOf c) (fun k => { k with loaded := some l }), none)
    | (s, some (.error st)) => (s, some (Ended.failed st))
    | (s, none) => (s, none)

/-- Step 7 of R149: the kernel asks for what the function draws, and has it when its requests are complete (10 R273). Seed refuses it in
RAW and after the fatal alarm (10 R269, R278). -/
def State.drawFor (s : State) (c j : Nat) (r : Run) : State × Option Ended :=
  let g := groveOf c
  match s.job? j, s.copy? j g with
  | some x, some k =>
    let n := if 0x8000 ≤ x.code then 0 else drawsRandom x ((k.loaded.map (fun l => l.keyA.alg)).getD 0)
    if n = 0 then (s.modCopy j g (fun k => { k with random := some [] }), none)
    else if k.drawFailed || !s.seedAlive then (s, some (Ended.failed .randomUnavailable))
    else
      let s := s.seedAsk c j n (x.code == 0x0B01)
      (if r.seedOk then s.kernels g else s, none)
  | _, _ => (s, none)

/-- The kernel enters a custom function (11 R314): its registers, at function level. -/
def State.enterCustom (s : State) (c : Nat) (x : Job) (long : Bool) : State :=
  let regs : List (Nat × Nat) := [(1, x.inputAt), (2, x.inLen), (3, x.outputAt (groveOf c)), (4, x.outCap), (5, field x.params 0 8),
    (6, field x.params 8 8), (7, x.handleA.toNat), (8, x.handleB.toNat), (9, b2n long), (31, 0x20000)]
  let entry := ((s.custom? x.code).map (fun h => h.entry)).getD 0
  let k0 (k : Core) : Core := { k with
    gpr := Vector.replicate 32 0, pc := BitVec.ofNat 64 entry, pl := true, en := false, guard := false, prog := 0 }
  s.modCore c (fun k => regs.foldl (fun k p => k.setReg (BitVec.ofNat 5 p.1) (BitVec.ofNat 64 p.2)) (k0 k))

/-- Steps 5 to 8 of R149 as far as they have not been taken: `none` while a draw has not ended, and while a custom function's
instructions are given one by one. A custom function is entered once. -/
def State.work (s : State) (j : Nat) (long : Bool) (r : Run) : State × Option Ended :=
  let c := r.cell.toNat
  let g := groveOf c
  let loaded (s : State) : Option Copy := (s.copy? j g).filter (fun k => k.loaded.isSome)
  match (if (loaded s).isSome then (s, none) else s.prepare c j long) with
  | (s, some e) => (s, some e)
  | (s, none) =>
    match (if (loaded s).any (fun k => k.random.isNone) then s.drawFor c j r else (s, none)) with
    | (s, some e) => (s, some e)
    | (s, none) =>
      match s.job? j, loaded s with
      | some x, some k =>
        match x.work k with
        | none => (s, none)
        | some w =>
          if 0x8000 ≤ x.code then
            let s := if k.entered then s else (s.enterCustom c x long).modCopy j g (fun k => { k with entered := true })
            (s, if r.steps then none else some (customEnd x r.customStatus.toNat r.customOut.length r.customOut))
          else
            let (st, out) := w.result (((formOf x (s.algOf x.handleA)).out).getD 0)
            (s, some { fit x st out with times := w.times })
      | _, _ => (s, none)

/-- Cell time passes on a cell's job: BREM falls, JTIME and CYCLE rise, and the copy counts the tick once (06 R154, 02 R43, 11 R284: the
cell clock is 1.0 GHz, 02 R42). -/
def State.spend (s : State) (c j : Nat) (us : Nat) : State :=
  let n := min us ((s.cell c).brem / 1000)
  let s := s.modCell c (fun x => { x with
    brem := x.brem - n * 1000, core := { x.core with cycle := x.core.cycle + BitVec.ofNat 64 (n * 1000) } })
  let s := s.modCopy j (groveOf c) (fun k => { k with
    ran := if k.lastRan = some s.sched.tick then k.ran else k.ran + 1
    lastRan := some s.sched.tick, used := k.used + n * 1000
    remaining := k.remaining - n, overran := k.overran || decide (k.remaining < n) })
  s.refreshJob c

/-- The two records a cell's data-bus error leaves while it runs a function: the line, then CAUSE, FADDR and SAVEPC (01 R13,
12 R328). Which byte of the job's input it read, whether the load was split and the saved pc are free (log entry 3). -/
def State.dramFaultRecords (s : State) (c : Nat) (x : Job) : State :=
  let a := x.bufAt + s.freeNat % max 1 x.inSide
  let split := s.drawn.freeNat % 2 == 1
  let pc := s.drawn.drawn.freeNat
  let r : Report := { exc := .databus, acc := 1, chk := 2, split := split, faddr := BitVec.ofNat 64 a }
  let s := s.drawn.drawn.drawn
  let s := s.logEvent 0x0405 c 0 x.partition (le 8 (a / 64 * 64))
  s.logEvent 0x0404 c 0 x.partition (le 8 (r.cause false).toNat ++ le 8 a ++ le 8 pc)

/-- A staged line of job `x` failed its integrity tag: the records of a cell that read it, or the one record of an engine. -/
def State.stagedFault (s : State) (c : Nat) (x : Job) (byCell : Bool) : State :=
  if byCell then s.dramFaultRecords c x
  else s.drawn.integrityRecord c (some ((x.bufAt + s.freeNat % max 1 x.inSide) / 64 * 64))

/-- The microprogram whose result check a function's run meets: the signing ones, ECDH's, and the PUBLIC ones of a verification under a key
of the cache (07 R188, R189, R195). -/
def checkedMp (x : Job) (alg : Nat) : Option Nat :=
  let v := variantOf alg
  match x.code with
  | 0x0601 => some (0x1F + v)
  | 0x0602 => if x.handleA = 0 then none else some (0x2B + v)
  | 0x0603 => some (0x2C + v)
  | 0x0604 => if x.handleA = 0 then none else some (0x38 + v)
  | 0x0605 => some 0x10
  | 0x0701 =>
    let u := if x.handleA = 0 then field x.params 6 1 else v
    some (if u ≤ 3 then 0x27 + u else 0x2E + u)
  | _ => none

/-- A result check failed in its microprogram: the event of 07 R196. -/
def State.checkFailed (s : State) (c mp : Nat) : State := s.notify 0x0202 c (le 1 c ++ le 1 mp)

/-- The event that a finished run leaves: a function of R195 ends in CELL_FAULT only when a result check failed (07 R184, R195). -/
def State.resultEvents (s : State) (c : Nat) (x : Job) (st : Status) : State :=
  match checkedMp x (s.algOf x.handleA) with
  | some mp => if st = .cellFault then s.checkFailed c mp else s
  | none => s

/-- A long job goes on with the registers, the pc, the PROG and the level that the kernel kept for it (11 R316); the return leaves the
exception window and the guard handler (12 R318). -/
def State.resumeLong (s : State) (c : Nat) : State :=
  s.modCell c (fun y =>
    match y.savedCore with
    | some k => { y with
        savedCore := none, core := { y.core with gpr := k.gpr, pc := k.pc, prog := k.prog, pl := k.pl, en := false, guard := false } }
    | none => y)

/-- The cell waited `us` for the Seed queue (06 R154); the window counts the tick once (06 R175). -/
def State.waited (s : State) (c us : Nat) : State :=
  if us = 0 then s
  else
    s.modCell c (fun z => { z with
      cntSeed := z.cntSeed + BitVec.ofNat 32 us
      wSeed := if z.waitTick = some s.sched.tick then z.wSeed else z.wSeed + 1
      waitTick := some s.sched.tick })

/-- The rest of the budget goes by on a job, which may wait on the Seed queue in it. -/
def State.spendAll (s : State) (c j : Nat) (waits : Bool) : State :=
  let n := (s.cell c).brem / 1000
  ((s.waited c (if waits then n else 0)).spend c j n).modCell c (fun z => { z with brem := 0 })

/-- A cell takes up the item at the front of its plan: steps 1 to 3 of R149. The kernel has the cell, and grants the bank of the job
alone (11 R287). -/
def State.beginItem (s : State) (c : Nat) (i : Item) (x : Job) (fresh : Bool) : State :=
  let s := s.modCell c (fun z => { z with
    jpart := x.partition, atPart := x.partition, atValid := true, atRest := 0
    core := if fresh then { z.core with pl := false, en := false, guard := false, kbound := kernelBound (some i.long) }
      else { z.core with kbound := kernelBound (some i.long) }
    resident := if i.long then some i.job else z.resident
    st := if i.long && z.st == .idle then .resident else z.st })
  let s := s.modCopy i.job (groveOf c) (fun k => { k with place := .running })
  (if fresh then s else s.resumeLong c).refreshJob c

/-- The first line of the staged entries and input of a job that fails its tag: the digest engine meets it (06 R149 step 4, 01 R13). -/
def State.stagedBad (s : State) (x : Job) : Option Nat :=
  match x.buf with
  | some a => ((List.range (x.inSide / 64)).map (fun i => a + 64 * i)).find? s.badLine
  | none => none

/-- A run whose draw has not ended: it waits to the end of the budget, but a RANDOM whose declared time ends first completes with
RANDOM_UNAVAILABLE (05 R138, 10 R274). -/
def State.stillDraws (s : State) (c : Nat) (i : Item) (x : Job) : State :=
  let g := groveOf c
  let left := ((s.copy? i.job g).map (fun k => k.remaining)).getD 0
  if x.code = 0x0B01 ∧ left ≤ (s.cell c).brem / 1000 then
    ((s.waited c left).spend c i.job left).postCopy i.job g .randomUnavailable [] 0
  else s.spendAll c i.job true

/-- An item that has been taken up runs, and ends or uses up the budget. A package that is not installed fails its entries
(11 R317). -/
def State.continueItem (s : State) (i : Item) (x : Job) (r : Run) : State :=
  let c := r.cell.toNat
  let g := groveOf c
  let avail := (s.cell c).brem / 1000
  let started := (s.copy? i.job g).any (fun k => k.loaded.isSome)
  if (s.grove g).notInstalled.contains x.code then (s.spend c i.job 0).postCopy i.job g .cellFault [] 0
  else match (if started then none else s.stagedBad x) with
  | some line => ((s.spend c i.job r.usedUs).integrityRecord c (some line)).postCopy i.job g .cellFault [] 0
  | none =>
    if r.dramFault then ((s.spend c i.job r.usedUs).stagedFault c x r.dramByCell).postCopy i.job g .cellFault [] 0
    else
      let (s, e) := s.work i.job i.long r
      let k := (s.copy? i.job g).getD {}
      match e with
      | none =>
        if k.entered then (s.waited c (min r.seedUs avail)).spend c i.job r.usedUs
        else if k.loaded.isSome then s.stillDraws c i x
        else s.spendAll c i.job false
      | some e =>
        let s := s.waited c (min r.seedUs avail)
        if k.ext + 1 < e.times || (e.status.good && decide (avail < r.usedUs)) then s.spendAll c i.job false
        else
          let bad := r.checkFails && e.status.good && (checkedMp x (s.algOf x.handleA)).isSome
          let e := if bad then Ended.failed .cellFault else e
          ((s.spend c i.job r.usedUs).resultEvents c x e.status).postCopy i.job g e.status e.out e.outLen

/-- The item at the head of a cell's plan runs, if its function is the one given (R149). -/
def State.runItem (s : State) (match_ : Nat → Bool) (r : Run) : State :=
  let c := r.cell.toNat
  let g := groveOf c
  let y := s.cell c
  if !(s.groveRuns g && [CellSt.idle, .resident, .draining].contains y.st) || y.core.locked || s.sched.inGuard then s
  else
    match y.plan with
    | [] => s
    | i :: _ =>
      match s.job? i.job, s.copy? i.job g with
      | some x, some k =>
        let fresh := k.place == .planned
        if !match_ x.code then s
        else if fresh && (if i.long then y.brem == 0 else decide (y.brem < i.declared * 1000)) then
          s.copyBack i.job g false
        else if y.brem = 0 then s
        else (s.beginItem c i x fresh).continueItem i x r
      | _, _ => s

/-! ### One command for each function (R123) -/

def execPinTranslate (r : Run) (s : State) : Answer := .next (s.runItem (· == 0x0101) r)
def execPinVerify (r : Run) (s : State) : Answer := .next (s.runItem (· == 0x0102) r)
def execMacGenerate (r : Run) (s : State) : Answer := .next (s.runItem (· == 0x0201) r)
def execMacVerify (r : Run) (s : State) : Answer := .next (s.runItem (· == 0x0202) r)
def execDukptPinTranslate (r : Run) (s : State) : Answer := .next (s.runItem (· == 0x0301) r)
def execDukptMacVerify (r : Run) (s : State) : Answer := .next (s.runItem (· == 0x0302) r)
def execDukptDecrypt (r : Run) (s : State) : Answer := .next (s.runItem (· == 0x0303) r)
def execArqcVerify (r : Run) (s : State) : Answer := .next (s.runItem (· == 0x0401) r)
def execKeyblockTranslate (r : Run) (s : State) : Answer := .next (s.runItem (· == 0x0501) r)
def execEcdsaSign (r : Run) (s : State) : Answer := .next (s.runItem (· == 0x0601) r)
def execEcdsaVerify (r : Run) (s : State) : Answer := .next (s.runItem (· == 0x0602) r)
def execEddsaSign (r : Run) (s : State) : Answer := .next (s.runItem (· == 0x0603) r)
def execEddsaVerify (r : Run) (s : State) : Answer := .next (s.runItem (· == 0x0604) r)
def execRsaSign (r : Run) (s : State) : Answer := .next (s.runItem (· == 0x0605) r)
def execRsaVerify (r : Run) (s : State) : Answer := .next (s.runItem (· == 0x0606) r)
def execMldsaSign (r : Run) (s : State) : Answer := .next (s.runItem (· == 0x0607) r)
def execMldsaVerify (r : Run) (s : State) : Answer := .next (s.runItem (· == 0x0608) r)
def execEcdh (r : Run) (s : State) : Answer := .next (s.runItem (· == 0x0701) r)
def execMlkemEncaps (r : Run) (s : State) : Answer := .next (s.runItem (· == 0x0702) r)
def execMlkemDecaps (r : Run) (s : State) : Answer := .next (s.runItem (· == 0x0703) r)
def execFf1Encrypt (r : Run) (s : State) : Answer := .next (s.runItem (· == 0x0801) r)
def execFf1Decrypt (r : Run) (s : State) : Answer := .next (s.runItem (· == 0x0802) r)
def execGcmEncrypt (r : Run) (s : State) : Answer := .next (s.runItem (· == 0x0901) r)
def execGcmDecrypt (r : Run) (s : State) : Answer := .next (s.runItem (· == 0x0902) r)
def execAesCbc (r : Run) (s : State) : Answer := .next (s.runItem (· == 0x0903) r)
def execAesCtr (r : Run) (s : State) : Answer := .next (s.runItem (· == 0x0904) r)
def execAesXts (r : Run) (s : State) : Answer := .next (s.runItem (· == 0x0905) r)
def execAesEcb (r : Run) (s : State) : Answer := .next (s.runItem (· == 0x0906) r)
def execTdesCbc (r : Run) (s : State) : Answer := .next (s.runItem (· == 0x0907) r)
def execHash (r : Run) (s : State) : Answer := .next (s.runItem (· == 0x0A01) r)
def execRandom (r : Run) (s : State) : Answer := .next (s.runItem (· == 0x0B01) r)
def execBatchVerifyEd25519 (r : Run) (s : State) : Answer := .next (s.runItem (· == 0x0C01) r)
/-- CUSTOM_FUNCTION: a function of an installed package (R148). -/
def execCustomFunction (r : Run) (s : State) : Answer := .next (s.runItem (fun code => decide (0x8000 ≤ code)) r)

end Sys2Proof.Machine
end

