-- ==== Sys2Proof/Machine/RingLog.lean ====
section
/-! DEFINITION. Flash and the ring log (15): checkpoints, the write of waiting records, sector upkeep, the reopening at start-up,
and their timers. -/

namespace Sys2Proof.Machine

/-! ### Bank 3's layout (R385, R387 to R389) -/

def permanentSlots : Nat := 4096
def circulatingSlots : Nat := 132096
def sectorSlots : Nat := 512

/-- A ring of sectors of bank 3: its first sector, how many there are, and the slots of each. -/
structure SlotRing where
  first : Nat
  sectors : Nat
  slots : Nat
  deriving DecidableEq, Repr

/-- The circulating area, 132,096 record slots. -/
def circulating : SlotRing := { first := 8, sectors := 258, slots := 512 }
/-- The checkpoint area, 65,536 slots of 1,024 bytes. -/
def ckptArea : SlotRing := { first := 266, sectors := 1024, slots := 64 }

/-- How a valid mark reads (R387): with at most 4 bits set its slot is held, with 28 or more it is erased, and any other mark is of a torn
slot. -/
inductive MarkRead where
  | held | torn | erased
  deriving DecidableEq, Repr

def markRead (m : BitVec 32) : MarkRead :=
  let n := ((List.range 32).filter (fun i => m.getLsbD i)).length
  if n ≤ 4 then .held else if 28 ≤ n then .erased else .torn

/-! ### Erases (R377, R379, R381) -/

/-- The sector that stands for a usable one. -/
def Bank.phys (x : Bank) (n : Nat) : Nat := (tblGet x.replaced n).getD n

/-- The usable sector that a sector stands for; none for one that is out of use. -/
def Bank.logical (x : Bank) (p : Nat) : Option Nat :=
  match x.replaced.find? (fun r => r.2 == p) with
  | some r => some r.1
  | none => if (tblGet x.replaced p).isSome then none else some p

/-- Sectors whose flag word has no clear mark. -/
def Bank.unfinished (x : Bank) : List Nat := ((x.rowA ++ x.rowB).filter (fun w => !w.cleared)).map (fun w => w.sector)

/-- The next free word of the current flag row takes a sector; when the row is full the other one is erased and becomes current (R381). -/
def Bank.flag (x : Bank) (p : Nat) : Bank :=
  let w : FlagWord := { sector := p }
  let row := if x.inB then x.rowB else x.rowA
  if row.length < Config.flagWords then
    (if x.inB then { x with rowB := row ++ [w] } else { x with rowA := row ++ [w] })
  else if x.inB then { x with inB := false, rowA := [w] }
  else { x with inB := true, rowB := [w] }

/-- The clear mark beside a sector's word. -/
def Bank.clearMark (x : Bank) (p : Nat) : Bank :=
  let clear (l : List FlagWord) : List FlagWord := l.map (fun w => if w.sector == p then { w with cleared := true } else w)
  { x with rowA := clear x.rowA, rowB := clear x.rowB }

/-- A free replacement takes its place among the others. -/
def insertFree (p : Nat) : List Nat → List Nat
  | [] => [p]
  | q :: l => if p < q then p :: q :: l else if p = q then q :: l else q :: insertFree p l

/-- What sector `n` of bank 3 held is gone. -/
def Log.eraseSector (l : Log) (n : Nat) : Log :=
  { l with
    held := l.held.filter (fun p => p.1 / sectorSlots != n), spoilt := l.spoilt.filter (fun p => p.1 / sectorSlots != n)
    ckptSlots := l.ckptSlots.filter (fun p => ckptArea.first + p.1 / ckptArea.slots != n), toErase := l.toErase.filter (· != n) }

/-- A sector of bank `b` loses its contents. -/
def State.eraseContents (s : State) (b p : Nat) : State :=
  match b, (s.bank b).logical p with
  | 3, some n => { s with log := s.log.eraseSector n }
  | _, _ => s

/-- The current operation of a bank begins: an erase programs its flag word first (R381). -/
def State.beginOp (s : State) (b : Nat) : State :=
  let x := s.bank b
  match x.ops, x.erasing with
  | .erase p _ :: _, none => (s.setBank b { x.flag p with erasing := some p }).eraseContents b p
  | _, _ => s

/-- The trunk issues an operation (R382). -/
def State.flashIssue (s : State) (b : Nat) (o : FlashOp) : State :=
  let x := s.bank b
  (s.setBank b { x with ops := x.ops ++ [o] }).beginOp b

/-- The current operation has ended, and the bank takes its next one. -/
def State.popOp (s : State) (b : Nat) : State :=
  let x := s.bank b
  (s.setBank b { x with ops := x.ops.drop 1 }).beginOp b

/-- The current operation is followed at once by `o`. -/
def State.thenOp (s : State) (b : Nat) (o : FlashOp) : State :=
  let x := s.bank b
  s.setBank b { x with ops := o :: x.ops.drop 1 }

/-- The erase of a sector is verified: its clear mark is programmed, and a refreshed sector is a free replacement. -/
def State.eraseDone (s : State) (b p : Nat) (returns : Bool) : State :=
  let x := s.bank b
  (s.setBank b { x.clearMark p with
    erasing := none, failedOnce := x.failedOnce.filter (· != p), free := if returns then insertFree p x.free else x.free }).popOp b

/-- The verification of an erase failed: it is made again, or, the second time, the sector is replaced (R381). A sector given up gets its clear
mark all the same (log entry 73). -/
def State.eraseFailed (s : State) (b p : Nat) : State :=
  let x := s.bank b
  if x.failedOnce.contains p then
    let replace := match x.logical p with
      | some n => addTo x.toReplace n
      | none => x.toReplace
    (s.setBank b { x.clearMark p with erasing := none, failedOnce := x.failedOnce.filter (· != p), toReplace := replace }).popOp b
  else s.setBank b { x with failedOnce := addTo x.failedOnce p }

/-- Sector `n` of bank 3 reads as erased. -/
def State.sectorErased (s : State) (n : Nat) : Bool :=
  !(s.log.held.any (fun p => p.1 / sectorSlots == n) || s.log.spoilt.any (fun p => p.1 / sectorSlots == n) ||
    s.log.ckptSlots.any (fun p => ckptArea.first + p.1 / ckptArea.slots == n) || s.log.toErase.contains n ||
    (s.bank 3).unfinished.contains ((s.bank 3).phys n))

/-- The erase of a sector of bank 3 is issued, unless the sector is erased or its erase waits already (R389). -/
def State.eraseAhead (s : State) (n : Nat) : State :=
  let o := FlashOp.erase ((s.bank 3).phys n) false
  if s.sectorErased n || (s.bank 3).ops.contains o then s else s.flashIssue 3 o

/-! ### Write positions (R383, R389) -/

/-- Sectors of bank 3 that can no longer be programmed and have no replacement are skipped (R383). -/
def State.skipped (s : State) (sector : Nat) : Bool := (s.bank 3).free == [] && (s.bank 3).toReplace.contains sector

/-- The sector of a ring that comes after its sector `n`, of at most as many as the fuel says. -/
def State.nextSectorFrom (s : State) (r : SlotRing) : Nat → Nat → Nat
  | 0, n => (n + 1) % r.sectors
  | f + 1, n =>
    let m := (n + 1) % r.sectors
    if s.skipped (r.first + m) then State.nextSectorFrom s r f m else m

/-- The sector of a ring that comes after a position's. -/
def State.nextSector (s : State) (r : SlotRing) (pos : Nat) : Nat := s.nextSectorFrom r r.sectors (pos / r.slots)

/-- The position after `pos`. -/
def State.nextPos (s : State) (r : SlotRing) (pos : Nat) : Nat :=
  if (pos + 1) % r.slots = 0 then s.nextSector r pos * r.slots else pos + 1

/-- Entering a sector issues the erase of the next one (R389). -/
def State.entered (s : State) (r : SlotRing) (pos : Nat) : State :=
  if pos % r.slots = 0 then s.eraseAhead (r.first + s.nextSector r pos) else s

/-- The record ring's write position moves on. -/
def State.advance (s : State) : State :=
  let p := s.nextPos circulating s.log.pos
  { s with log := { s.log with pos := p } }.entered circulating p

/-- The checkpoint area's write position moves on. -/
def State.ckptAdvance (s : State) : State :=
  let p := s.nextPos ckptArea s.log.ckptPos
  { s with log := { s.log with ckptPos := p } }.entered ckptArea p

/-! ### Checkpoints (R391, R392) -/

/-- A checkpoint is valid: both units read, and the second repeats the sequence number. -/
def CkptSlot.valid (x : CkptSlot) : Bool := x.copy == some x.c.seq

/-- The valid checkpoints, newest first: those before the write position, then those behind it. -/
def Log.ckpts (l : Log) : List Ckpt :=
  let at_ (p : Nat × CkptSlot) : Bool := decide (p.1 < l.ckptPos)
  (((l.ckptSlots.filter at_).reverse ++ (l.ckptSlots.filter (fun p => !at_ p)).reverse).filter (fun p => p.2.valid)).map
    (fun p => p.2.c)

/-- The 1,024 bytes of a checkpoint. -/
def Ckpt.bytes (c : Ckpt) : Bytes :=
  le 4 c.seq ++ le 1 c.kind ++ le 3 c.cycle ++ le 4 c.op ++ le 6 c.tick ++ le 2 0 ++ le 4 c.lastRec ++ le 4 c.bsec ++ le 4 c.lastClear ++
    padTo 512 (c.receipts.flatMap (le 8)) ++ List.replicate 472 0 ++ le 4 c.seq ++ le 4 0

/-- The checkpoint of a kind that the trunk makes now, with every partition's next receipt number. -/
def State.ckptNow (s : State) (kind tick : Nat) : Ckpt :=
  { seq := s.log.ckptSeq, kind, cycle := s.clock.powerCycles, op := s.opSeconds, tick, lastRec := s.log.lastSeq, bsec := s.bsec
    lastClear := s.log.lastClear, receipts := (List.range 64).map (fun p => (s.part p).nextReceipt) }

/-- A checkpoint waits for bank 3, which programs its two units in its turn. -/
def State.checkpoint (s : State) (kind tick : Nat) : State :=
  let c := s.ckptNow kind tick
  { s with log := { s.log with ckptQueue := s.log.ckptQueue ++ [c], ckptSeq := nextNumber c.seq } }.flashIssue 3 (.unit false)

/-- The first unit of a checkpoint stands in its slot. -/
def State.firstUnit (s : State) (c : Ckpt) : State :=
  { s with log := { s.log with ckptSlots := tblSet s.log.ckptSlots s.log.ckptPos { c, copy := none } } }

/-- The second unit stands too: the checkpoint is valid, and its receipt numbers are the recorded ones (05 R147). -/
def State.secondUnit (s : State) (c : Ckpt) : State :=
  { s with
    log := { s.log with ckptSlots := tblSet s.log.ckptSlots s.log.ckptPos { c, copy := some c.seq } }
    parts := tblMap (fun p x => { x with recorded := c.receipts.getD p x.recorded }) s.parts }.ckptAdvance

/-- A checkpoint is written at once, its second unit after its first (R392, R403, R404). -/
def State.writeCheckpoint (s : State) (kind tick : Nat) : State :=
  let c := s.ckptNow kind tick
  ({ s with log := { s.log with ckptSeq := nextNumber c.seq } }.firstUnit c).secondUnit c

/-! ### Records (R380, R387, R388) -/

/-- The slot that a waiting record goes into, and whether it lies in the permanent area (R388). -/
def State.slotFor (s : State) (r : Rec) : Nat × Bool :=
  let n := r.seq - 1 + s.log.abandoned
  if r.seq ≤ permanentSlots ∧ n < permanentSlots then (n, true) else (permanentSlots + s.log.pos, false)

/-- A record slot reads as erased (R380). -/
def State.slotErased (s : State) (k : Nat) : Bool :=
  let n := k / sectorSlots
  (tblGet s.log.held k).isNone && (tblGet s.log.spoilt k).isNone && !s.log.toErase.contains n &&
    !(s.bank 3).unfinished.contains ((s.bank 3).phys n)

/-- Room has returned: one LOG_LOST record for the records lost (R395). -/
def State.lostRecord (s : State) : State :=
  if s.log.lost != 0 && decide (s.log.waiting.length < 256) && s.log.reopened then
    let p := le 4 s.log.lost ++ le 4 s.log.firstLoss
    let s := { s with log := { s.log with lost := 0, firstLoss := 0 } }
    s.acceptRec (s.record 0x0902 0xFF 0 0xFF flagSummary p)
  else s

/-- A record is held: its mark is programmed. -/
def Log.hold (l : Log) (slot : Nat) (r : Rec) : Log :=
  { l with held := tblSet l.held slot r, spoilt := tblDel l.spoilt slot }

/-- A slot is written and not held; its mark reads as `m`. -/
def Log.spoil (l : Log) (slot : Nat) (m : BitVec 32) : Log := { l with spoilt := tblSet l.spoilt slot m }

/-- The slot of the first waiting record is abandoned; the record takes the next one (R380). -/
def State.abandonSlot (s : State) : State :=
  match s.log.waiting with
  | [] => s
  | r :: _ => if (s.slotFor r).2 then { s with log := { s.log with abandoned := s.log.abandoned + 1 } } else s.advance

/-- The oldest waiting record is held, and the write position moves on. -/
def State.recordHeld (s : State) : State :=
  match s.log.waiting with
  | [] => s
  | r :: rest =>
    let (k, perm) := s.slotFor r
    let s := { s with log := { (s.log.hold k r) with waiting := rest } }
    (if perm then s else s.advance).lostRecord

/-- The oldest waiting record is written and its mark programmed, where its slot is erased. -/
def State.writeRecord (s : State) : State :=
  match s.log.waiting with
  | [] => s
  | r :: _ => if s.slotErased (s.slotFor r).1 then s.recordHeld else s.abandonSlot

/-- The body of the oldest waiting record is programmed: its slot is not held until the mark is (R387). A slot that is not erased is rejected
with NOT_ERASED, and the next one is tried (R380). -/
def State.bodyDone (s : State) : State :=
  match s.log.waiting with
  | [] => s.popOp 3
  | r :: _ =>
    let k := (s.slotFor r).1
    if s.slotErased k then { s with log := s.log.spoil k 0xFFFFFFFF }.thenOp 3 .mark else s.abandonSlot

/-- The mark is programmed; the next waiting record follows behind what was issued meanwhile. -/
def State.markDone (s : State) : State := ((s.popOp 3).recordHeld).issueBody

/-- A unit of the oldest waiting checkpoint is programmed; the second follows the first (R392). A slot that is not erased is passed over. -/
def State.unitDone (s : State) (second : Bool) : State :=
  match s.log.ckptQueue with
  | [] => s.popOp 3
  | c :: rest =>
    if second then ({ s with log := { s.log with ckptQueue := rest } }.secondUnit c).popOp 3
    else if (tblGet s.log.ckptSlots s.log.ckptPos).isSome then s.ckptAdvance
    else (s.firstUnit c).thenOp 3 (.unit true)

/-! ### Replacement (R379, R383) -/

/-- A sector has been copied: the map is switched in both copies, last; a refreshed sector is then erased. The trunk raises FLASH_WEAR when
8 replacements are left. -/
def State.copyDone (s : State) (b sec rep : Nat) (weak : Bool) : State :=
  let x := s.bank b
  let old := x.phys sec
  let free := x.free.filter (· != rep)
  let wear := decide (free.length ≤ 8) && !x.wearRaised
  let s := s.setBank b { x with
    weak := x.weak.filter (· != sec), toReplace := x.toReplace.filter (· != sec), replaced := tblSet x.replaced sec rep
    mapCopy := tblSet x.replaced sec rep, free, wearRaised := x.wearRaised || wear }
  let s := s.popOp b
  let s := if weak then s.flashIssue b (.erase old true) else s
  let s := s.logEvent 0x0908 b 0 0xFF (le 2 sec ++ le 2 rep ++ le 1 free.length)
  if wear then s.notify 0x0208 b (le 1 b ++ le 1 free.length) else s

/-! ### The end of an operation (R378 to R382, R384) -/

/-- The current operation of a bank has ended well. -/
def State.opDone (s : State) (b : Nat) : State :=
  match (s.bank b).ops with
  | [] => s
  | .erase p returns :: _ => s.eraseDone b p returns
  | .body :: _ => s.bodyDone
  | .mark :: _ => s.markDone
  | .unit second :: _ => s.unitDone second
  | .copy sec rep weak :: _ => s.copyDone b sec rep weak

/-- The read-back of the current program failed: the target stands as it is, its slot is abandoned, and the next one is taken. A mark that
failed reads as a free value, by which its slot may be held (R387). A replacement that failed is no free one any more. -/
def State.opFailed (s : State) (b : Nat) : State :=
  let x := s.bank b
  match x.ops, s.log.waiting with
  | .body :: _, r :: _ =>
    let k := (s.slotFor r).1
    (({ s with log := s.log.spoil k 0xFFFFFFFF }).abandonSlot).failedProgram 3 (k / sectorSlots) (k % sectorSlots / 4)
  | .mark :: _, r :: _ =>
    let k := (s.slotFor r).1
    let m := BitVec.ofNat 32 s.freeNat
    let l := if markRead m = .held then s.log.hold k r else s.log.spoil k m
    (({ s.drawn with log := l }).abandonSlot.thenOp 3 .body).failedProgram 3 (k / sectorSlots) (k % sectorSlots / 4)
  | .unit second :: _, _ =>
    let k := s.log.ckptPos
    let s := if second then s else s.each (s.log.ckptQueue.take 1) State.firstUnit
    (s.ckptAdvance.thenOp 3 (.unit false)).failedProgram 3 (ckptArea.first + k / ckptArea.slots) (k % ckptArea.slots * 2 + b2n second)
  | .copy _ rep _ :: _, _ =>
    ((s.setBank b { x with free := x.free.filter (· != rep) }).popOp b).logEvent 0x0909 b 0 0xFF (le 2 rep ++ le 2 0)
  | _, _ => s

/-- The target of the current program is not erased: nothing is written (R380). -/
def State.opRejected (s : State) (b : Nat) : State :=
  match (s.bank b).ops with
  | .body :: _ => s.abandonSlot
  | .mark :: _ => s.abandonSlot.thenOp 3 .body
  | .unit _ :: _ => s.ckptAdvance.thenOp 3 (.unit false)
  | .copy _ _ _ :: _ => s.popOp b
  | _ => s

/-- A read of a sector that corrected more than 4 bits or needed a retry: the sector is weak (R379). -/
def State.weakRead (s : State) (b sec retries nbits : Nat) : State :=
  if 4 < nbits ∨ retries ≠ 0 then
    (s.setBank b { s.bank b with weak := addTo (s.bank b).weak sec }).logEvent 0x0905 b 0 0xFF (le 2 sec ++ le 1 retries ++ le 1 nbits)
  else s

/-- The operation that bank `b` worked on has ended (R378 to R382, R389, R395). Bank 0 serves the recovery firmware's fetches while its
window is open; one that fails stops it (R384). -/
def flashOpDone (b : Nat) (o : FlashOutcome) (s : State) : State :=
  match o with
  | .corrected sec retries nbits => s.weakRead b sec retries nbits
  | .uncorrectable sec unit =>
    let s := s.logEvent 0x0906 b 0 0xFF (le 2 sec ++ le 2 unit)
    if b = 0 ∧ s.flash.xip then { s with trunk := { s.trunk with ready := false, starting := false, bootCode := 0x15 } } else s
  | .ok => s.opDone b
  | .eraseFailed =>
    match (s.bank b).ops with
    | .erase p _ :: _ => s.eraseFailed b p
    | _ => s
  | .notErased => s.opRejected b
  | .programFailed => s.opFailed b

/-- FLASH_REFRESH: the trunk is idle and has one sector of the bank replaced by its lowest free replacement, a failed one before a weak one
(R379, R383). In bank 3 only the permanent area is refreshed. -/
def execFlashRefresh (bank : BitVec 2) (s : State) : Answer :=
  let b := bank.toNat
  let x := s.bank b
  let weak := x.weak.filter (fun sec => b != 3 || decide (sec < 8))
  let pick := match x.toReplace with
    | sec :: _ => some (sec, false)
    | [] => weak.head?.map (fun sec => (sec, true))
  match x.ops, x.free, pick with
  | [], rep :: _, some (sec, returns) => if b = 0 ∧ s.flash.xip then .next s else .next (s.flashIssue b (.copy sec rep returns))
  | _, _, _ => .next s

/-! ### Bank 3 put at rest (03 R100, R402, R404, 13 R341) -/

/-- Bank 3 ends its operations well, in their order, until `rest` holds; at most as many as the fuel says. -/
def State.drainBank (rest : State → Bool) : Nat → State → State
  | 0, s => s
  | n + 1, s => if rest s || (s.bank 3).ops == [] then s else State.drainBank rest n (s.opDone 3)

/-- Nothing waits for bank 3. -/
def State.logWritten (s : State) : Bool := s.log.waiting == [] && s.log.ckptQueue == []

/-- Every waiting record and checkpoint is written. -/
def State.drainLog (s : State) : State :=
  State.drainBank State.logWritten (2048 + 8 * ((s.bank 3).ops.length + s.log.waiting.length + s.log.ckptQueue.length)) s

/-- Every bank stops: the program in progress runs to its end, an erase is aborted with its flag set, and nothing else that was issued is
begun (R404 t0). A journal area that is being erased keeps the flag of one of its sectors, which one is open (log entry 3). -/
def State.stopFlash (s : State) : State :=
  let x := s.bank 3
  let s := s.setBank 3 { x with ops := x.ops.take 1 }
  let s := match x.ops with
    | .body :: _ => s.bodyDone.opDone 3
    | .mark :: _ => s.opDone 3
    | .unit false :: _ => (s.unitDone false).opDone 3
    | .unit true :: _ => s.opDone 3
    | _ => s
  let s := if s.heart.erasing then s.drawn.setBank 2 ((s.bank 2).flag (s.freeNat % 3840)) else s
  { s with flash := { s.flash with banks := tblMap (fun _ x => { x with ops := [], erasing := none, failedOnce := [] }) s.flash.banks } }

/-! ### Timers (R393, R394) -/

/-- OPEN_RECORD_TIMEOUT: 1 s after it was opened the open record is committed. -/
def execOpenRecordTimeout (s : State) : Answer := .next (s.commitOpen 0)

/-- LOG_SECOND_ROLLOVER: the counter passed to its next whole second; one summary for each code with suppressed records. -/
def execLogSecondRollover (s : State) : Answer :=
  let sums := s.log.seconds.filter (fun p => p.2.2 != 0)
  let s := { s with log := { s.log with seconds := [], second := s.opSeconds } }
  .next (s.each sums (fun s p => s.acceptRec (s.record 0x0901 0xFF 0 0xFF flagSummary (le 2 p.1 ++ le 4 p.2.2))))

/-! ### The reopening at t7 (R388, R390, R403, 05 R147) -/

/-- Whether a record comes after the newest so far: permanent numbers first, then serial arithmetic (R388). -/
def newerThan (b : Option Rec) (r : Rec) : Bool :=
  match b with
  | none => true
  | some x =>
    if r.seq ≤ permanentSlots then decide (x.seq < r.seq) && decide (x.seq ≤ permanentSlots)
    else decide (x.seq ≤ permanentSlots) || (decide ((r.seq + 2 ^ 32 - x.seq) % 2 ^ 32 < 2 ^ 31) && r.seq != x.seq)

/-- The newest held record, in the order of numbers of R388. -/
def State.newestHeld (s : State) : Option Rec :=
  (s.log.held.map (fun p => p.2)).foldl (fun b (r : Rec) => if newerThan b r then some r else b) none

/-- R147: without a record after the last assigned number, a series resumes at the next multiple of 2^32 above the recorded
number. -/
def Part.resume (x : Part) (fromRecord : Nat) (exact : Bool) : Part :=
  { x with
    nextReceipt := if exact then fromRecord else (fromRecord / 2 ^ 32 + 1) * 2 ^ 32
    first := 0, count := 0, frontier := [], closing := [], roots := [] }

/-- R37: the first tick of a start-up. -/
def firstTick (recorded : Option Nat) : Nat :=
  match recorded with
  | none => 0
  | some t => (t + 10000 + 9999) / 10000 * 10000

/-- The bark records that TNEW leaves for the reopening (14 R373), one for each bit. -/
def State.tnewRecords (s : State) : State :=
  let srcs := (List.range 28).filter (fun i => bit s.bark.tnew.toNat i)
  let s := s.each srcs (fun s i =>
    let (cls, flags, a, b) := (tblGet s.bark.fresh i).getD ((sourceRow i).default.code, 1, 0, 0)
    let own := (s.bark.inForce i s.bark.column).code
    let stamp := ((tblGet s.bark.tstamp i).getD 0).toNat
    let p := barkPayload s i cls own flags stamp 0 a b
    let s := s.acceptRec (s.record (0x0100 + i) i cls 0xFF (if bit flags 0 then flagBackup else 0) p)
    if 1 ≤ cls then
      let h : HeldAlarm := { code := 0x0100 + i, payload := p }
      { s with bark := { s.bark with held := (s.bark.held ++ [h]).take 64 } }
    else s)
  { s with bark := { s.bark with tnew := 0, fresh := [] } }

/-- The slot of the newest held record. -/
def State.newestSlot (s : State) : Option Nat :=
  s.newestHeld.bind (fun r => (s.log.held.find? (fun p => p.2 == r)).map (fun p => p.1))

/-- The first slot from `k` on that is neither held nor spoilt, among as many as the fuel says. -/
def Log.freeSlot (l : Log) : Nat → Nat → Nat
  | 0, k => k
  | n + 1, k => if (tblGet l.held k).isSome || (tblGet l.spoilt k).isSome then Log.freeSlot l n (k + 1) else k

/-- Steps 1, 2 and 4 of R403: the slot after the newest held record, torn slots passed over (R405), is the write position, and the sector ahead
of each write position is erased unless it reads as erased. -/
def State.scanAhead (s : State) : State :=
  let s := match s.newestSlot, s.newestHeld with
    | some k, some r =>
      if k < permanentSlots then { s with log := { s.log with abandoned := s.log.freeSlot sectorSlots (k + 1) - r.seq } }
      else
        let p := s.log.freeSlot (sectorSlots - k % sectorSlots) k - permanentSlots
        let pos := if p % sectorSlots = 0 then s.nextSector circulating (p - 1) * sectorSlots else p
        { s with log := { s.log with pos } }
    | _, _ => s
  let s := if (tblGet s.log.ckptSlots s.log.ckptPos).isSome then s.ckptAdvance else s
  let ahead (s : State) (r : SlotRing) (pos : Nat) : State :=
    let n := r.first + s.nextSector r pos
    if s.sectorErased n then s else { s with log := s.log.eraseSector n }
  ahead (ahead s circulating s.log.pos) ckptArea s.log.ckptPos

/-- The ring log reopens (R403): counters, receipt series, the sector ahead if it is not erased, the kind 4 checkpoint, LOG_START, the
records that waited, TNEW's. -/
def State.reopen (s : State) : State :=
  let ck : Option Ckpt := s.log.ckpts.head?
  let newest : Option Rec := s.newestHeld
  let op := max ((ck.map (fun (c : Ckpt) => c.op)).getD 0) ((newest.map (fun (r : Rec) => r.last)).getD 0) + 1
  let cycles := ((ck.map (fun (c : Ckpt) => c.cycle)).getD 0) + 1
  let first := firstTick (s.log.ckpts.foldl (fun (m : Option Nat) c => some (max c.tick (m.getD 0))) none)
  let parts := s.parts.map (fun p =>
    let rec0 := ((ck.bind (fun c => c.receipts[p.1]?))).getD 1
    ((p.1, p.2.resume rec0 (p.2.nextReceipt == rec0)) : Nat × Part))
  let s := { s with
    clock := { s.clock with opBase := op, opSetAt := s.clock.cd18, powerCycles := cycles }
    trunk := { s.trunk with epoch := BitVec.ofNat 32 (cycles * 256) }
    sched := { s.sched with tick := first, firstBoundary := true, windowOpen := first / 10000 }
    parts }
  let kind := (ck.map (fun (c : Ckpt) => c.kind)).getD 0
  let early := s.log.early
  let s := { s with log := { s.log with
    nextSeq := (newest.map (fun (r : Rec) => nextNumber r.seq)).getD 1, lastSeq := (newest.map (fun (r : Rec) => r.seq)).getD 0
    ckptSeq := (ck.map (fun (c : Ckpt) => nextNumber c.seq)).getD 1, early := [], opened := none, reopened := true } }
  let s := (s.scanAhead).writeCheckpoint 4 first
  let s := s.acceptRec (s.record 0x0900 0xFF 0 0xFF 0 (le 3 cycles ++ le 1 kind ++ le 4 s.bsec ++ le 6 first))
  let s := s.each early (fun s (r : Rec) => s.acceptRec { r with op, frac := 0, last := op, cycle := cycles })
  s.tnewRecords

end Sys2Proof.Machine
end

