-- ==== Sys2Proof/Machine/Tick.lean ====
section
/-! DEFINITION. The tick and the schedule (02), parking, fences, self-tests and groves (06), and receipt windows (05 R143 to
R147). -/

namespace Sys2Proof.Machine

/-! ### Planning (R46 to R49) -/

/-- Room left in each cell that takes items at this boundary, in ns. -/
abbrev Rooms := Tbl Nat

/-- A cell's plan or its resident job holds a job with a property. -/
def State.holds (s : State) (c : Nat) (f : Job → Bool) : Bool :=
  let x := s.cell c
  x.plan.any (fun i => (s.job? i.job).any f) || (x.resident.bind (fun j => s.job? j)).any f

/-- Cells of a grove whose plan holds such a job (R46). -/
def State.holding (s : State) (g : Bool) (f : Job → Bool) : Nat := ((cellsOf g).filter (fun c => s.holds c f)).length

/-- A partition's quota in a grove, and a queue's, held to it (R46, R114). -/
def State.quotaOf (s : State) (p : Nat) (g : Bool) : Nat := if g then (s.part p).qB else (s.part p).qA

/-- A cell's plan holds work of a partition: internal jobs are partition 0's (R46, R49). -/
def State.holdsPart (s : State) (p c : Nat) : Bool :=
  s.holds c (fun y => y.partition == p) || (p == 0 && !(s.cell c).intern.isEmpty)

/-- The quota of a partition allows a cell. -/
def State.partAllowed (s : State) (g : Bool) (p c : Nat) : Bool :=
  s.holdsPart p c || decide (((cellsOf g).filter (fun c => s.holdsPart p c)).length < s.quotaOf p g)

/-- The quotas of a job's queue and partition allow a cell. -/
def State.allowed (s : State) (g : Bool) (x : Job) (c : Nat) : Bool :=
  let mine (y : Job) : Bool := y.fn == x.fn && y.q == x.q
  let qp := s.quotaOf x.partition g
  let qq := min qp (((s.queue? (queueKey x.fn false x.q)).map (fun q => q.quota)).getD qp)
  (s.holds c mine || decide (s.holding g mine < qq)) && s.partAllowed g x.partition c

/-- The internal job that is resident on a cell. -/
def Cell.internLong (x : Cell) : Option Intern := x.intern.find? (fun i => i.long)

/-- Remaining declared time and allowance of a cell's resident job, in ns. -/
def State.residentOf (s : State) (g : Bool) (c : Nat) : Option (Nat × Nat) :=
  let x := s.cell c
  (((x.resident.bind (fun j => s.copy? j g)).map (fun k => (k.remaining, k.allowance))).or
    (x.internLong.map (fun i => (i.left, i.allowance)))).map (fun r => (r.1 * 1000, r.2 * 1000))

/-- A short job of `w` µs placed ahead of a cell's resident job takes of its allowance (R48). -/
def State.takeAllowance (s : State) (g : Bool) (c w : Nat) : State :=
  match (s.cell c).resident with
  | some r => s.modCopy r g (fun k => { k with allowance := k.allowance - w })
  | none => s.modCell c (fun x => { x with
      intern := x.intern.map (fun i => if i.long then { i with allowance := i.allowance - w } else i) })

/-- The lowest-numbered cell that takes a job of `w` µs under a quota (R49). -/
def State.cellFor (s : State) (g : Bool) (rooms : Rooms) (w : Nat) (allows : Nat → Bool) : Option (Nat × Nat) :=
  if w ≤ s.budget then
    rooms.find? (fun p => decide (w * 1000 ≤ p.2) && ((s.residentOf g p.1).all (fun r => decide (w * 1000 ≤ r.2))) && allows p.1)
  else
    rooms.find? (fun p => allows p.1 && (match s.residentOf g p.1 with
      | none => decide (0 < p.2)
      | some r => decide (r.1 < p.2)))

/-- A short item goes after the short items already placed and ahead of any long one (R49). -/
def placeShort (plan : List Item) (i : Item) : List Item :=
  plan.takeWhile (fun x => !x.long) ++ i :: plan.dropWhile (fun x => !x.long)

/-- Admit a copy: its tick, cell and slices; a changeover or a displacement keeps its stamp. -/
def State.letIn (s : State) (j c : Nat) (g : Bool) (x : Job) (long : Bool) (allowance : Nat) : State :=
  s.modCopy j g (fun k => { k with
    place := .planned, cell := c, tick := s.sched.tick, ran := 0, lastRan := none, used := 0, slices := slicesOf x.w s.budget, remaining := x.w, allowance
    long, overran := false })

/-- Whether a job may end under the old period (R40). -/
def State.beforeChange (s : State) (x : Job) : Bool :=
  match s.sched.pend with
  | none => true
  | some (_, c) =>
    let k := slicesOf x.w s.budget
    decide (s.sched.tick + (if k = 1 then 1 else k + 1) ≤ c)

/-- Place one job on the lowest-numbered cell that takes it (R49). -/
def State.placeJob (s : State) (g : Bool) (rooms : Rooms) (j : Nat) (x : Job) : Option (State × Rooms) :=
  match s.cellFor g rooms x.w (s.allowed g x) with
  | none => none
  | some (c, room) =>
    if x.w ≤ s.budget then
      let s := (s.letIn j c g x false 0).takeAllowance g c x.w
      let s := s.modCell c (fun y => { y with
        plan := placeShort y.plan { job := j, declared := x.w, long := false, resume := false } })
      some (s, tblSet rooms c (room - x.w * 1000))
    else
      let left := room - ((s.residentOf g c).map (fun r => r.1)).getD 0
      let s := s.letIn j c g x true (left / 1000)
      let s := s.modCell c (fun y => { y with
        plan := y.plan ++ [{ job := j, declared := x.w, long := true, resume := false }]
        resident := some (y.resident.getD j), st := if y.st = .idle then .resident else y.st })
      some (s, tblSet rooms c 0)

/-- Jobs of a queue in a grove's intake, in order. -/
def State.queued (s : State) (g : Bool) (key : Nat) : List Nat :=
  (s.grove g).intake.filter (fun j => (s.job? j).any (fun x => queueKey x.fn false x.q == key))

/-- The job at the head of a queue's part of the intake that may be admitted now (R47, 03 R85): staged in a buffer, for FENCE with no earlier
job of its queue, in either grove, that has not ended, behind no FENCE job of its queue that waits, and with no completion waiting
for its completion queue. -/
def State.headOf (s : State) (g : Bool) (key : Nat) : Option (Nat × Job) :=
  match (s.queued g key).find? (fun j => (s.copy? j g).any (fun k => k.place == .waiting)) with
  | none => none
  | some j =>
    match s.job? j with
    | none => none
    | some x =>
      let earlier (f : Job → Bool) : Bool := s.jobs.any (fun p => decide (p.1 < j) && p.2.fn == x.fn && p.2.q == x.q && f p.2)
      let open_ (y : Job) : Bool := ([y.copyA, y.copyB].filterMap id).any (fun k => k.place != .ended)
      let waits (y : Job) : Bool := y.fence && ([y.copyA, y.copyB].filterMap id).any (fun k => k.place == .waiting)
      let blocked := match s.queue? (queueKey x.fn false x.q) with
        | some q => ((s.queue? (queueKey x.fn true q.cq)).map (fun y => y.waiting != [])).getD false
        | none => true
      if x.staged && x.buf.isSome && x.mark.isNone && !(x.fence && earlier open_) && !earlier waits && !blocked && s.beforeChange x then some (j, x) else none

/-- Take up to `n` jobs from a queue, one at a time; counts what was placed. -/
def State.takeFrom : Nat → State → Bool → Rooms → Nat → State × Rooms × Nat
  | 0, s, _, r, _ => (s, r, 0)
  | n + 1, s, g, r, key =>
    match s.headOf g key with
    | none => (s, r, 0)
    | some (j, x) =>
      match s.placeJob g r j x with
      | none => (s, r, 0)
      | some (s, r) =>
        let (s, r, k) := State.takeFrom n (s.modGrove g (fun y => { y with rrLast := some key })) g r key
        (s, r, k + 1)

/-- Tenant queues of a grove in round-robin order, starting after the one served last (R49). The order itself is not given: function
number, then queue number (log entry 72). -/
def State.ring (s : State) (g : Bool) : List Nat :=
  let keys := (s.queues.filter (fun p => !p.2.completion)).map (fun p => p.1)
  match (s.grove g).rrLast with
  | some k => keys.filter (fun x => decide (k < x)) ++ keys.filter (fun x => decide (x ≤ k))
  | none => keys

/-- Passes over the queues until one places no job. -/
def State.passes : Nat → State → Bool → Rooms → List Nat → State
  | 0, s, _, _, _ => s
  | n + 1, s, g, r, keys =>
    let (s, r, k) := keys.foldl (fun (acc : State × Rooms × Nat) key =>
      let w := ((acc.1.queue? key).map (fun q => q.weight)).getD 1
      let (s, r, m) := State.takeFrom w acc.1 g acc.2.1 key
      (s, r, acc.2.2 + m)) (s, r, 0)
    if k = 0 then s else State.passes n s g r keys

/-- Cells that take items at this boundary: IDLE or RESIDENT, after their self-test's boundary. -/
def State.takers (s : State) (g : Bool) : List Nat :=
  (cellsOf g).filter (fun c => let x := s.cell c; x.st == .idle || x.st == .resident)


/-- Place one internal job of partition 0 by the same rules, under its quota (R49). The time of a short one goes by at the start of the
tick; a resident one has what its cell's other work leaves. -/
def State.placeIntern (s : State) (g : Bool) (rooms : Rooms) (i : Intern) : Option (State × Rooms) :=
  match s.cellFor g rooms i.w (s.partAllowed g 0) with
  | none => none
  | some (c, room) =>
    if i.w ≤ s.budget then
      let s := (s.takeAllowance g c i.w).modCell c (fun y => { y with intern := y.intern ++ [i], brem := y.brem - i.w * 1000 })
      some (s, tblSet rooms c (room - i.w * 1000))
    else
      let left := room - ((s.residentOf g c).map (fun r => r.1)).getD 0
      let s := s.modCell c (fun y => { y with
        intern := y.intern ++ [{ i with long := true, allowance := left / 1000 }], st := if y.st = .idle then .resident else y.st })
      some (s, tblSet rooms c 0)

/-- Internal jobs of partition 0 are planned before any tenant work, in arrival order, until one finds no cell (R49). Grove A's
dispatcher takes what it can, then Grove B's (log entry 18). -/
def State.internalPlan (s : State) (g : Bool) : List Intern → Rooms → State × Rooms
  | [], rooms => (s, rooms)
  | i :: rest, rooms =>
    match s.placeIntern g rooms i with
    | none => (s, rooms)
    | some (s, rooms) =>
      State.internalPlan { s with sched := { s.sched with unplaced := rest } } g rest rooms


/-- The plans of a grove: resident jobs resume, internal work comes first, then the queues are served (R49). -/
def State.planGrove (s : State) (g : Bool) (late : Nat) : State :=
  if !s.groveRuns g then s
  else
    let room := s.budget * 1000 - late
    let s := s.each (cellsOf g) (fun s c =>
      match (s.cell c).resident with
      | some j =>
        match s.copy? j g with
        | some k => s.modCell c (fun y => { y with plan := [{ job := j, declared := k.remaining, long := true, resume := true }] })
        | none => s
      | none => s)
    if s.halted || s.changing then s
    else
      let rooms : Rooms := (s.takers g).map (fun c => (c, room))
      let (s, rooms) := s.internalPlan g s.sched.unplaced rooms
      State.passes ((s.grove g).intake.length + 1) s g rooms (s.ring g)

/-! ### Expiry (R45) -/

/-- A job whose age has run out completes with EXPIRED, or is marked until its other copy is disposed of. -/
def State.expire (s : State) (g : Bool) (j : Nat) : State :=
  match s.job? j with
  | none => s
  | some x =>
    let old := x.maxAge != 0 && decide (x.maxAge < s.sched.tick - x.stamp)
    let here := (x.copy g).any (fun k => k.place == .waiting)
    if old && here && x.staged && x.mark.isNone then
      match x.copy (!g) with
      | some k =>
        if k.place = .running ∨ (k.place = .ended ∧ k.result = none) then
          (s.modJob j (fun x => { (x.setCopy g none) with mark := some .expired, markTick := s.sched.tick })).modGrove g
            (fun y => { y with intake := y.intake.filter (· != j) })
        else (s.modJob j (fun x => { x with markTick := s.sched.tick })).settleMark j .expired 0xFF 0 0
      | none => (s.modJob j (fun x => { x with markTick := s.sched.tick })).settleMark j .expired 0xFF 0 0
    else s

def State.expireGrove (s : State) (g : Bool) : State :=
  if s.groveServes g && !s.halted then s.each (s.grove g).intake (fun s j => s.expire g j) else s

/-! ### Parking, power and heat (R58 to R60) -/

/-- The measured input power exceeds 98 % of the cap: R59 parks. -/
def State.overCap (s : State) : Bool := s.sched.cap != 0 && decide (s.sched.cap * 980 < s.elec.m.pinMw)

/-- Power and heat set the limits of a grove before it is parked: no cap sets none, and below 90 % of the cap its limit rises by 8
(R59). -/
def State.capRise (s : State) (g : Bool) : State :=
  let w := s.sched.cap
  s.modGrove g (fun y => { y with
    capLimit := if w = 0 then 128 else if s.elec.m.pinMw < w * 900 then min 128 (y.capLimit + 8) else y.capLimit })

/-- The minimum configuration of a grove: its 8 lowest-numbered cells in service (R58, 18 R455). -/
def State.spared (s : State) (g : Bool) : List Nat := (s.ableCells g).take 8

/-- Cells of a grove that may be parked: idle ones outside the minimum configuration, the highest first (R58). -/
def State.parkable (s : State) (g : Bool) : List Nat :=
  ((cellsOf g).filter (fun c => !(s.spared g).contains c && (s.cell c).st == .idle && (s.cell c).resident.isNone)).reverse

/-- Park or unpark at most 8 cells of a grove (R58): toward the smaller of its limits, or by 8 while the power or a die is too high;
the limit that parks is then the number of cells left active (R59, R60). -/
def State.park (s : State) (g : Bool) : State :=
  let x := s.grove g
  let above := s.overCap
  let hot := decide (90 ≤ s.hottest)
  let n := s.activeIn g
  let limit := max 8 (if above || hot then n - 8 else min x.thermal x.capLimit)
  let s :=
    if limit < n then
      s.each ((s.parkable g).take (min 8 (n - limit))) (fun s c => s.modCell c (fun y => { y with st := .parked }))
    else
      let parked := (cellsOf g).filter (fun c => (s.cell c).st == .parked)
      s.each (parked.take (min 8 (limit - n))) (fun s c => s.modCell c (fun y => { y with st := .idle }))
  let left := s.activeIn g
  s.modGrove g (fun y => { y with
    capLimit := if above then left else y.capLimit, thermal := if hot then left else y.thermal })

/-- R59: the event of a cap that cannot be met in the minimum configuration, once in a window. -/
def State.capUnmet (s : State) : State :=
  let w := s.sched.cap
  let mw := s.elec.m.pinMw
  let low := decide (s.activeIn false ≤ 8) && decide (s.activeIn true ≤ 8)
  if w != 0 && low && decide (w * 1000 < mw) && s.sched.capUnmet != some s.window then
    let s := { s with sched := { s.sched with capUnmet := some s.window } }
    s.notify 0x0203 0xFF (le 1 w ++ le 3 0 ++ le 4 mw)
  else s

/-- R60: boundaries since every die first read below 85 °C. A reading of 90 °C or above restarts the count. The spec does not say
whether a boundary at 85 °C or above and below 90 °C counts: the model's count stands still (log entry 65). -/
def State.heatCheck (s : State) : State :=
  let h := s.hottest
  if 90 ≤ h then { s with sched := { s.sched with coolTicks := none } }
  else if h < 85 then { s with sched := { s.sched with coolTicks := some ((s.sched.coolTicks.map (· + 1)).getD 0) } }
  else s

/-- THERMAL_LIMIT_STEP: the next boundary is 100 ticks after the one at which every die first read below 85 °C, or after the last
rise: the thermal limit rises by 8, and that boundary unparks (R60). -/
def execThermalLimitStep (s : State) : Answer :=
  match s.sched.coolTicks with
  | some n =>
    if 99 ≤ n then
      let up (g : Grove) : Grove := { g with thermal := min 128 (g.thermal + 8) }
      .next { s with
        groveA := up s.groveA, groveB := up s.groveB
        sched := { s.sched with coolTicks := if n = 99 then none else some (n - 100) } }
    else .next s
  | none => .next s

/-! ### Drains and groves at a boundary (06 R163, R164, R167) -/

/-- A cell's resident job is evicted, and the cell is drained (R164). -/
def State.evictCell (s : State) (c : Nat) : State :=
  let s := match (s.cell c).resident with
    | some j => s.evictPair j (groveOf c)
    | none => s
  (s.internBack c).modCell c (fun y => { y with st := .drained, resident := none })

/-- The states of R153 for a drained cell at boundary B; an EVICT that fell in a guard stops the resident job here. -/
def State.drainCell (s : State) (c : Nat) (evict : Bool) : State :=
  match (s.cell c).st with
  | .idle => s.modCell c (fun y => { y with st := .drained })
  | .parked => s.modCell c (fun y => { y with st := .drained })
  | .resident => if evict then s.evictCell c else s.modCell c (fun y => { y with st := .draining })
  | .draining => if evict then s.evictCell c else s
  | .fenced => s.modCell c (fun y => { y with markedDrained := true })
  | .selftest => s.modCell c (fun y => if y.testPassed then { y with st := .drained, testPassed := false } else { y with markedDrained := true })
  | .drained => s
  | .failed => s

/-- Drains whose boundary has come. -/
def State.drainsAt (s : State) : State :=
  let due := s.sched.drains.filter (fun d => decide (d.1 ≤ s.sched.tick))
  let s := { s with sched := { s.sched with drains := s.sched.drains.filter (fun d => decide (s.sched.tick < d.1)) } }
  s.each due (fun s d => s.each d.2.2 (fun s c => s.drainCell c d.2.1))

/-- Every cell of a grove is DRAINED or FAILED: the grove is powered down at the next boundary (R167). -/
def State.emptyGrove (s : State) (g : Bool) : Bool :=
  s.groveServes g && (cellsOf g).all (fun c => [CellSt.drained, .failed].contains (s.cell c).st)

/-- The entries in the intake of a grove that has just lost its last cell move at once, where the other grove serves (R167). -/
def State.emptied (s : State) : State :=
  s.each [false, true] (fun s g => if s.emptyGrove g && s.groveServes (!g) then s.moveWaiting g else s)

/-- No entry is admitted from a boundary at which no grove serves, to the first at which one takes plans again (R171). -/
def State.darkAt (s : State) : State :=
  if s.noneServes then s.goDark
  else
    let takes := allCells.any (fun c => s.groveServes (groveOf c) && [CellSt.idle, .resident].contains (s.cell c).st)
    { s with trunk := { s.trunk with dark := s.trunk.dark && !takes } }

/-! ### The boundary (R36, R41 t0, R49) -/

/-- A lateness of a period or more stands for a pulse that the grove does not see (R57). -/
def State.pulse (s : State) (late : Nat) : Bool := decide (late < s.sched.period * 1000)

/-- A pulse that came more than 200 ns late is recorded (R56). -/
def State.lateRecord (s : State) (g : Bool) (late : Nat) : State :=
  if 200 < late ∧ s.pulse late ∧ s.groveServes g then s.logEvent 0x0401 (b2n g) 0 0xFF (le 4 late ++ le 6 s.sched.tick) else s

/-- MREG extensions that waited for the boundary take effect (13 R354, R355). -/
def State.extensionsAt (s : State) : State :=
  let xs := s.trunk.extPending
  let s := { s with trunk := { s.trunk with extPending := [] } }
  let s := s.each xs (fun s x =>
    let s := s.extendNow x.1 x.2
    let s := { s with trunk := { s.trunk with epoch := s.trunk.epoch + 1 } }
    s.logEvent 0x0701 x.1 0 0xFF (le 4 s.trunk.epoch.toNat ++ (s.trunk.mregs.getD x.1 []).take 32))
  if xs = [] then s else s.tagRefresh

/-- WAITTICK ends at a boundary with the tick that is latched; how long it took is open (log entry 11). -/
def Core.ticked (k : Core) (tick : Word) (cycles : Nat) : Core :=
  let ends (rd : BitVec 5) : Core :=
    { (k.setReg rd tick) with wait := .none, pc := k.pc + 4, instret := k.instret + 1, cycle := k.cycle + BitVec.ofNat 64 cycles }
  match k.wait with
  | .tick rd none => ends rd
  | .tick rd (some v) => if v.ult tick then ends rd else k
  | _ => k

/-- Each cell latches the tick, has its budget, and leaves WAITTICK (06 R154, 11 R306), unless it is locked (12 R325). The kernel has kept
a long job's registers by then (11 R316). -/
def State.latchCell (s : State) (late c : Nat) : State :=
  let runs := (s.inHand c).isSome
  (s.modCell c (fun x =>
    let t : BitVec 48 := BitVec.ofNat 48 s.sched.tick
    let core := if x.core.locked then x.core else { x.core.ticked (t.setWidth 64) (Config.stallCycles s.free) with budget := false }
    let takes := x.st == .selftest && x.testPassed && decide (x.plansFrom ≤ s.sched.tick)
    { x with
      ctick := t, brem := s.budget * 1000 - late, core
      savedCore := if runs && x.savedCore.isNone then some x.core else x.savedCore
      st := if takes then .idle else x.st
      testPassed := x.testPassed && !takes })).drawn

/-- Counts of a tick for the window's statistics (06 R175). -/
def State.countCell (s : State) (c : Nat) : State :=
  s.modCell c (fun x =>
    let busy := x.plan != [] || x.intern != []
    let out := !s.groveRuns (groveOf c) || !([CellSt.idle, .resident, .draining].contains x.st)
    { x with
      wBusy := x.wBusy + b2n busy, cntBusy := x.cntBusy + (if busy then 1 else 0), wUnavail := x.wUnavail + b2n out })

/-- Ticks that vectors have waited (03 R98). -/
def State.ageVectors (s : State) : State :=
  { s with fns := tblMap (fun _ y => { y with vec := tblMap (fun _ v => if v.pend = 0 then v else { v with age := v.age + 1 }) y.vec }) s.fns }

/-- Peak intake of each partition (03 R96). -/
def State.peaks (s : State) : State :=
  s.each allFns (fun s p =>
    let n := s.intakeOf p false + s.intakeOf p true
    if n = 0 then s else s.modPart p (fun x => { x with peakIntake := max x.peakIntake n }))

/-- Energy of one period (19 R471). -/
def State.meter (s : State) (m : Meters) : State :=
  let n := s.clock.energyNj + m.pinMw * s.sched.period
  { s with
    elec := { s.elec with m }
    clock := { s.clock with energyNj := n % 10 ^ 9, energyJ := s.clock.energyJ + BitVec.ofNat 64 (n / 10 ^ 9) } }

/-- Flags of a descriptor: resume, DUAL copy, and the deterministic variant that R124 gives a class D function on a DUAL queue. -/
def State.itemFlags (s : State) (i : Item) (x : Job) : Nat :=
  b2n i.resume + 2 * b2n x.dual + 4 * b2n (x.dual && dualClass x.code x.handleA (s.custom? x.code) != .c)

/-- The 64-byte descriptor of a plan item in a grove (06 R154). -/
def State.planItem (s : State) (g : Bool) (i : Item) : Bytes :=
  match s.job? i.job with
  | some x =>
    le 4 i.job ++ le 2 x.code ++ le 1 (b2n i.long) ++ le 1 (s.itemFlags i x) ++ le 4 i.declared ++ le 4 x.partition ++
      le 8 x.bufAt ++ le 4 x.inLen ++ le 4 x.outCap ++ le 8 (x.outputAt g) ++ le 4 x.handleA.toNat ++ le 4 x.handleB.toNat ++
      padTo 16 x.params
  | none => []

/-- The plan list of a cell goes into grove SRAM at PLANBASE, whose place is open (06 R154). -/
def State.writePlan (s : State) (c : Nat) : State :=
  let base := s.freeNat % 2 ^ 16 * 64
  let list := (s.cell c).plan.flatMap (fun i => s.planItem (groveOf c) i) ++ List.replicate 64 0
  (s.drawn.wr (groveBase (groveOf c) + base) list).modCell c (fun x => { x with planBase := BitVec.ofNat 32 base })

/-! ### The close of a receipt window (R38, 05 R143 to R147) -/

/-- Close the open tree of a partition, if it has a leaf; `no` counts the closes. -/
def Part.closeTree (x : Part) (window no tick : Nat) (early : Bool) : Part :=
  if x.count = 0 then x
  else
    let r : Root := { window, closeNo := no, first := x.first, count := x.count, close := early, signed := false
                      digest := frontierRoot x.frontier, tick, signature := [] }
    { x with closing := x.closing ++ [r], first := 0, count := 0, frontier := [] }

/-- The attestation key is there to sign with (13 R357). -/
def State.attestKey (s : State) : Bool := (s.slot attestSlot).occupied && s.heart.serving

/-- Declared time, in µs, of the internal job that signs a closed root: that of an ECDSA P-384 signature (05 R123, log entry 18). -/
def rootTime : Nat := 520

/-- The internal jobs of the roots that are closed now; the trunk's own cores sign while no grove serves (06 R171), and without the
attestation key nothing is signed (01 R29). -/
def State.rootJobs (s : State) : List Intern :=
  if s.noneServes || !s.attestKey then []
  else (s.parts.filter (fun p => p.2.count != 0)).map (fun p => { root := some p.1, w := rootTime, left := rootTime })

/-- Every partition's tree closes, early or at its boundary. -/
def State.closeTrees (s : State) (window tick : Nat) (early : Bool) : State :=
  { s with
    parts := tblMap (fun _ x => x.closeTree window s.sched.closes tick early) s.parts
    sched := { s.sched with closes := s.sched.closes + 1, unplaced := s.sched.unplaced ++ s.rootJobs } }

/-- The STATS entry of a function (03 R96), and the 16 entries of the cells (06 R175). -/
def State.statsPost (s : State) (w : Nat) : State :=
  let s := s.each allFns (fun s f =>
    let x := s.part f
    s.svcPost f 3 0x0001 f (le 8 w ++ le 8 x.wJobs ++ x.wClass.flatMap (fun n => le 4 n) ++ le 2 (min 0xFFFF x.peakIntake) ++
      le 2 (min 0xFFFF x.peakWait)))
  let cellRec (c : Nat) : Bytes :=
    let x := s.cell c
    le 2 (if s.groveServes (groveOf c) then x.st.code else 0) ++ le 2 (min 0xFFFF x.wBusy) ++ le 2 (min 0xFFFF x.wUnavail) ++
      le 3 (min 0xFFFFFF x.wJobs) ++ le 1 (min 255 x.wOverruns) ++ le 1 (min 255 x.wFences) ++ le 1 0 ++
      le 2 (min 0xFFFF x.wSeed)
  s.each (List.range 16) (fun s i =>
    s.svcPost 0 3 0x0010 0 (le 8 w ++ le 1 (16 * i) ++ le 1 16 ++ le 6 0 ++
      (List.range 16).flatMap (fun k => cellRec (16 * i + k))))

/-- Completions that wait for a function's completion queues now: where a window's peak starts (03 R96). -/
def State.waitsNow (s : State) (f : Nat) : Nat :=
  s.queues.foldl (fun n p => if p.2.fn = f && p.2.completion then max n p.2.waiting.length else n) (s.fn f).adm.waiting.length

/-- The boundary that opens tick 10,000 × (w + 1) is next, and window w has not been closed. The first boundary after READY closes
none. A window whose boundary fell in DORMANT closes at the first boundary after the wake, with that tick, and none is closed for
the windows passed over: the rules do not say when (log entry 72). -/
def State.windowDue (s : State) : Bool := !s.sched.firstBoundary && decide (s.sched.windowOpen < s.nextTick / 10000)

/-- Window w closes for every partition. -/
def State.closeWindow (s : State) : State :=
  let w := s.sched.windowOpen
  let s := s.closeTrees w s.nextTick false
  let s := s.statsPost w
  let s := s.checkpoint 1 s.nextTick
  { s with
    sched := { s.sched with windowOpen := s.nextTick / 10000 }
    parts := tblMap (fun p x => { x with
      wJobs := 0, wClass := List.replicate 8 0, peakIntake := 0, peakWait := s.waitsNow p }) s.parts
    cells := tblMap (fun _ x => { x with
      wBusy := 0, wUnavail := 0, wJobs := 0, wOverruns := 0, wFences := 0, wSeed := 0 }) s.cells }

/-- WINDOW_CLOSE: the boundary that opens tick 10,000 × (w + 1) closes window w before it does anything else (R38). The command
stands for that part of the boundary; a TICK_BOUNDARY without it makes the close itself (log entry 65). -/
def execWindowClose (s : State) : Answer := .next (if s.trunk.ready && s.windowDue then s.closeWindow else s)

/-- Where the grid of due times stands after a boundary now: one late by less than a period is on the grid; the first one, and the
first after a resumption, open a new grid (R56). -/
def State.gridAt (s : State) : Nat :=
  let p := s.sched.period * 25
  let due := s.sched.boundaryAt + p
  if !s.sched.firstBoundary && !s.sched.resumed && decide (due ≤ s.clock.cd18 ∧ s.clock.cd18 < due + p) then due else s.clock.cd18

/-- The tick of a boundary opens, under the period in force from it on. -/
def State.openTick (s : State) : State :=
  let x := { s.sched with
    tick := s.nextTick, firstBoundary := false, resumed := false, boundaryAt := s.gridAt, inGuard := false }
  { s with sched := match x.pend with
    | some (p, c) => if c ≤ x.tick then { x with period := p, pend := none } else x
    | none => x }

/-- TICK_BOUNDARY: the boundary that opens the next tick, with the pulse's lateness at each grove in ns and the meters. The peak
intake of the window (03 R96) is taken after entries have expired (log entry 72). -/
def State.boundary (s : State) (lateA lateB : Nat) (m : Meters) : State :=
  let late (g : Bool) : Nat := if g then lateB else lateA
  let s := if s.windowDue then s.closeWindow else s
  let s := (s.openTick.meter m).extensionsAt
  let s := (s.lateRecord false lateA).lateRecord true lateB
  let s := { s with groveA := { s.groveA with late := lateA }, groveB := { s.groveB with late := lateB } }
  let s := s.each [false, true] (fun s g => if s.emptyGrove g then s.powerDown g else s)
  let s := s.each [false, true] (fun s g => if s.pulse (late g) then s.each (cellsOf g) (fun s c => s.latchCell (late g) c) else s)
  let s := if (tblGet s.cells trunkCore).isSome then s.latchCell 0 trunkCore else s
  let s := s.drainsAt.emptied
  let s := (s.heatCheck.capRise false).capRise true
  let s := s.each [false, true] (fun s g => if s.groveServes g then s.park g else s)
  let s := s.capUnmet.darkAt
  let s := s.each [false, true] (fun s g => if s.pulse (late g) then s.expireGrove g else s)
  let s := s.endWaiting.peaks.unstage.restage
  let s := s.each [false, true] (fun s g => if s.pulse (late g) then s.planGrove g (late g) else s)
  let s := s.each allCells (fun s c => (s.countCell c).refreshJob c)
  let s := s.each allCells (fun s c => if s.groveServes (groveOf c) then s.writePlan c else s)
  let up (y : Grove) : Grove := { y with gen := y.gen.fill groveCap }
  let s := { s with groveA := up s.groveA, groveB := up s.groveB, seed := { s.seed with gen := s.seed.gen.fill trunkCap } }
  s.ageVectors.fetch

def execTickBoundary (lateA lateB : Nat) (m : Meters) (s : State) : Answer :=
  if s.sched.running && s.trunk.ready && !s.dormant && !s.sched.stalled then .next (s.boundary lateA lateB m) else .next s

/-! ### The end of the budget (R41 t3 to t5, R53 to R55) -/

/-- SLICE_OVERRUN of a copy, with its record (R53). -/
def State.overrunCopy (s : State) (c j : Nat) (g : Bool) (x : Job) (us : Nat) : State :=
  (s.logEvent 0x0402 c 0 x.partition (le 2 x.code ++ le 4 us)).postCopy j g .sliceOverrun [] 0

/-- Whether this budget end is the last before an EVICT's boundary for a cell (06 R164). -/
def State.evictsNow (s : State) (c : Nat) : Bool :=
  s.sched.drains.any (fun d => d.2.1 && d.2.2.contains c && decide (d.1 ≤ s.nextTick))


/-- An MLDSA_SIGN job whose declared time has ended without a signature: it has a fresh declared time, and is resident in bank L as
if newly admitted at the next boundary; a 65th extension, or one for which bank L has another job, is an overrun (R122, log
entry 65). -/
def State.extendJob (s : State) (c j : Nat) (g : Bool) (x : Job) (k : Copy) : State :=
  if 64 ≤ k.ext ∨ (s.cell c).resident.any (· != j) then s.overrunCopy c j g x (k.used / 1000)
  else
    let s := s.modCopy j g (fun k => { k with
      ext := k.ext + 1, remaining := x.w, allowance := s.budget, slices := slicesOf x.w s.budget, long := true, overran := false })
    s.modCell c (fun y => { y with resident := some j, st := if y.st = .idle then .resident else y.st })

/-- The budget has ended for a job that a cell has started, and that has not ended. A long one waits as it is until the BUDGET interrupt
saves it (12 R328). -/
def State.budgetJob (s : State) (c j : Nat) (y : Job) (k : Copy) (evict : Bool) : State :=
  let g := groveOf c
  if s.halted then s.postCopy j g .haltedByAlarm [] 0
  else if y.mark.isSome then s.postCopy j g .drainedRetry [] 0
  else if y.loops k && k.remaining == 0 then s.extendJob c j g y k
  else if k.overran then s.overrunCopy c j g y (k.used / 1000)
  else if evict then s.evictPair j g
  else if k.long then s
  else s.evictCopy j g false

/-- Internal jobs at the end of the budget: short ones have ended, a resident one has had what was left of it, and goes back where the
cell is drained or work is halted. -/
def State.internStop (s : State) (c : Nat) (away : Bool) : State :=
  let us := (s.cell c).brem / 1000
  let s := s.modCell c (fun x => { x with
    intern := ((x.intern.filter (fun i => i.long)).map (fun i => { i with left := i.left - us })).filter (fun i => i.left != 0) })
  if away then s.internBack c else s

/-- One cell stops at the end of its budget. `us` is cell time that its running item used and no run has told. -/
def State.stopCell (s : State) (c us : Nat) : State :=
  let g := groveOf c
  let x := s.cell c
  let jobs := (x.plan.map (fun i => i.job)) ++ (match x.resident with
    | some r => if x.plan.any (fun i => i.job == r) then [] else [r]
    | none => [])
  let evict := s.evictsNow c
  let s := s.each jobs (fun s j =>
    match s.job? j, s.copy? j g with
    | some y, some k =>
      if k.place ≠ .running then s.copyBack j g false
      else
        let s := if us = 0 ∨ x.plan.head?.map (fun i => i.job) ≠ some j then s else s.spend c j us
        s.budgetJob c j y ((s.copy? j g).getD k) evict
    | _, _ => s.offCell c j)
  let s := (s.zero (cellBase c + bankS) 4096).internStop c (evict || s.halted)
  s.modCell c (fun y =>
    let z := Cell.settle y
    { z with
      plan := [], brem := 0, halfS := {}, bnuS := none, core := { z.core with budget := true }
      st := if evict && [CellSt.resident, .draining].contains x.st && z.st != .fenced then .drained else z.st })

/-- Cells whose budget has anything to end. -/
def State.stops (s : State) (c : Nat) : Bool :=
  let x := s.cell c
  s.groveRuns (groveOf c) && (x.plan != [] || x.resident.isSome || x.intern != [] || x.brem != 0)

/-- BUDGET_END: every cell stops (t3); the kernel disposes of what stops for good, and what waits for t5 is posted (R41). -/
def execBudgetEnd (used : List (Nat × Nat)) (s : State) : Answer :=
  if s.sched.running && !s.sched.inGuard then
    let us (c : Nat) : Nat := ((used.find? (fun p => p.1 == c)).map (fun p => p.2)).getD 0
    let s := s.each allCells (fun s c => if s.stops c then s.stopCell c (us c) else s)
    let s := s.lateWork.emptied
    .next { s with sched := { s.sched with inGuard := true } }.fetch
  else .next s

/-- TICK_MISSED: no boundary within a full period of its due time (R56): a HALT-class alarm of source 24. -/
def execTickMissed (s : State) : Answer :=
  if s.sched.running && !s.sched.stalled then .next ({ s with sched := { s.sched with stalled := true } }.alarm 24)
  else .next s

/-- TICK_GENERATOR_RESUME: the generator runs again, and the next boundary carries the next number (R56). -/
def execTickGeneratorResume (s : State) : Answer :=
  if s.sched.stalled then .next { s with sched := { s.sched with stalled := false, resumed := true, boundaryAt := s.clock.cd18 } } else .next s

/-! ### Groves (R57, 06 R166 to R169) -/

/-- GROVE_MISSED_TICKS: four due times without a pulse; every cell stops and all memory is wiped (R57). -/
def execGroveMissedTicks (g : Bool) (s : State) : Answer :=
  if s.groveServes g then
    let s := s.modGrove g (fun y => { y with missed := 4 })
    .next ((s.clearCells g (fun y => y.st)).wipeGrove g)
  else .next s

/-- GROVE_LINK_SILENT: no frame for four periods; the trunk treats the grove as lost (R57). -/
def execGroveLinkSilent (g : Bool) (s : State) : Answer := .next (s.loseGrove g)

/-- GROVE_LOST: the grove reported itself lost (06 R169). -/
def execGroveLost (g : Bool) (s : State) : Answer := .next (s.loseGrove g)

/-- The tick number and the boundary that wall time gives (01 R16, 02 R36); a changeover that fell in between has happened. -/
def Sched.advance (x : Sched) (now : Nat) : Sched :=
  if x.firstBoundary || x.resumed then { x with boundaryAt := now }
  else
    let run (x : Sched) (period : Nat) : Sched :=
      let n := (now - x.boundaryAt) / (period * 25)
      { x with tick := (x.tick + n) % 2 ^ 48, boundaryAt := x.boundaryAt + n * (period * 25) }
    match x.pend with
    | none => run x x.period
    | some (p, c) =>
      let t := x.boundaryAt + (c - x.tick) * (x.period * 25)
      if now < t then run x x.period else run { x with tick := c, boundaryAt := t, period := p, pend := none } p

/-- CD18 count at which the next boundary is due. -/
def State.nextDue (s : State) : Nat := s.sched.boundaryAt + (if s.sched.resumed then 0 else s.sched.period * 25)

/-- The first tick whose boundary falls at or after a CD18 count, across a changeover that is pending (R39). -/
def State.tickAt (s : State) (t : Nat) : Nat :=
  let count (from_ p : Nat) : Nat := (t - from_ + p * 25 - 1) / (p * 25)
  let n := s.nextTick + count s.nextDue s.sched.period
  match s.sched.pend with
  | none => n
  | some (p, c) => if n ≤ c then n else c + count (s.nextDue + (c - s.nextTick) * (s.sched.period * 25)) p

/-- Power a grove up and train its link with a fresh key (06 R168), which waits for Seed as long as Seed may give it (10 R274); in RAW
and after the fatal alarm the key cannot be drawn, and the grove is not raised (01 R29). -/
def State.raiseGrove (s : State) (g : Bool) (cells : List Nat) : State :=
  if s.seedAlive then
    (s.modGrove g (fun y => { y with
      powered := true, linkUp := false, linkKey := [], rising := some (cells.map (fun c => (c, s.clock.cd18))) })).hardwareDraws g
  else s

/-- GROVE_REJOIN_ATTEMPT: 100 ms after a loss the trunk tries one rejoin for all cells (06 R169). -/
def execGroveRejoinAttempt (g : Bool) (s : State) : Answer :=
  let x := s.grove g
  if x.lost && !x.rejoinTried && x.rising.isNone && s.trunk.ready then
    .next ((s.raiseGrove g (cellsOf g)).modGrove g (fun y => { y with rejoinTried := true }))
  else .next s

/-- LC_CHANGE begins: the response is written, then steps 2 and 3 of 13 R341: the windows close early, the record is written, admission
ends. -/
def State.beginChange (s : State) (q : Req) (dst : Life) : State :=
  let s := (s.respond q 0x0701 .ok []).checkpoint 3 s.sched.tick
  let s := s.closeTrees s.sched.windowOpen s.sched.tick true
  let s := s.logEvent 0x0702 0xFF 0 0xFF (le 2 s.life.code ++ le 2 dst.code)
  ({ s with trunk := { s.trunk with change := some { target := dst, timedOut := false, cut := q.io.cut } } }).endWaiting

/-- The carrier of a request on the PF, as the button's record names it. -/
def Req.carrier (q : Req) : Nat :=
  match q.via with
  | .mailbox m => m.toNat
  | .admin _ _ => 8

/-- The service button is held, as it has been since before the doorbell of the request (13 R340). -/
def State.buttonHeld (s : State) (q : Req) : Bool := s.trunk.svcButton && s.trunk.svcBells.contains (Req.carrier q)

/-- An accepted LC_CHANGE begins once no command is in execution (04 R111). One into FACTORY for which the button has been let go meanwhile is
refused (13 R340). -/
def State.changeNext (s : State) : State :=
  match s.trunk.change with
  | some { target, waits := some q, .. } =>
    if s.inExecution.length = 1 then
      (if target = .factory ∧ !s.buttonHeld q then
        { s with trunk := { s.trunk with change := none } }.respond q 0x0701 .stateRefused []
      else s.beginChange q target)
    else s
  | _ => s

/-- A grove that RESTORE_CELLS commands wait for is back, or is not: those that wait for no other are answered (06 R166). -/
def State.restoreDone (s : State) (g ok : Bool) : State :=
  let ws := s.trunk.restores.map (fun w =>
    if w.groves.contains g then { w with groves := w.groves.filter (· != g), failed := w.failed || !ok } else w)
  let s := { s with trunk := { s.trunk with restores := ws.filter (fun w => w.groves != []) } }
  (s.each (ws.filter (fun w => w.groves == [])) (fun s w =>
    (s.respond w.req 0x0403 (if w.failed then .cellFault else .ok) (if w.failed then [] else le 6 w.tick)).fetch)).changeNext



/-- GROVE_LINK_TRAINED: the grove is back once its link has its key; its memory is wiped, its kernel loaded, its packages installed, its named cells
tested (06 R168). -/
def linkTrained (g : Bool) (packageBad : List Nat) (s : State) : Answer :=
  match (s.grove g).rising with
  | none => .next s
  | some cells =>
    let y := s.grove g
    if y.linkKey.isEmpty then .next s else
    let back := y.lost
    let s := s.wipeGrove g
    let s := s.modGrove g (fun y => { y with
      linkUp := true, lost := false, rising := none, missed := 0
      rejoinedAt := if back then some s.clock.cd18 else y.rejoinedAt })
    let s := s.installPackages g packageBad
    let s := s.each cells (fun s c => (s.startTest c.1 true).modCell c.1 (fun x => { x with plansFrom := s.tickAt (c.2 + 75000) }))
    .next (s.restoreDone g true)

/-- GROVE_LINK_TRAIN_TIMEOUT: the link did not train within 10 ms; the grove stays as it was (06 R166, R169). -/
def linkTrainTimeout (g : Bool) (s : State) : Answer :=
  match (s.grove g).rising with
  | none => .next s
  | some _ => .next ((s.modGrove g (fun y => { y with powered := false, rising := none, linkUp := false })).restoreDone g false)

/-! ### Fences and self-tests (06 R152 to R159) -/

/-- CELL_FENCE: the dispatcher fences a cell: cause 0 lockup, 1 DUAL mismatch, 2 invalid state. -/
def execCellFence (cell : BitVec 8) (cause : BitVec 2) (s : State) : Answer := .next (s.fence cell.toNat cause.toNat)

/-- FENCE_WIPE_DONE: the wipe is complete and the self-test starts. -/
def execFenceWipeDone (cell : BitVec 8) (s : State) : Answer :=
  if (s.cell cell.toNat).st = .fenced then .next (s.startTest cell.toNat false) else .next s

/-- A cell becomes FAILED (06 R159). -/
def State.failCell (s : State) (c : Nat) : State :=
  (s.modCell c (fun x => { x with st := .failed, testPassed := false })).notify 0x0201 c (le 1 c)

/-- SELFTEST_DONE: the test ends with a wipe of all that it used, the leaf kernel is loaded again (log entry 55), and the cell is FAILED, DRAINED or ready for its boundary
(06 R153, R157 to R159); the grove's work moves where that was its last cell (R167). -/
def execSelftestDone (cell : BitVec 8) (passed : Bool) (s : State) : Answer :=
  let c := cell.toNat
  let x := s.cell c
  if x.st ≠ .selftest ∨ x.testPassed then .next s
  else
    let s := (s.wipeCell c).loadKernel c
    if !passed || (!x.testByRestore && decide (3 ≤ s.fenceCount c)) then .next (s.failCell c).emptied
    else
      let s := if x.testByRestore then s.modCell c (fun y => { y with fences := [] }) else s
      if x.markedDrained then .next (s.modCell c (fun y => { y with st := .drained, markedDrained := false })).emptied
      else
        let n := if x.plansFrom = 0 then s.tickAt (x.testAt + 1000) else x.plansFrom
        .next (s.modCell c (fun y => { y with testPassed := true, plansFrom := n }))

/-- INVALID_CSTATE: a cell's state code is no codeword: a record, and a fence (06 R152, 14 R366). -/
def execInvalidCstate (cell : BitVec 8) (code : BitVec 16) (s : State) : Answer :=
  .next ((s.logEvent 0x0406 cell.toNat 0 0xFF (le 2 code.toNat)).fence cell.toNat 2)

/-! ### The dispatcher interface (06 R155) -/

/-- A write of DPPOST: the 128-byte completion record in grove SRAM is handed over, with the output that the cell staged. A record
that is not aligned, that leaves grove SRAM or that names no job of the cell is ignored, and a status that no table defines is
CELL_FAULT: the rule says nothing of either (log entry 65). -/
def State.dppost (s : State) (c : Nat) (off : BitVec 32) : State :=
  let g := groveOf c
  let k := groveBase g + off.toNat
  let j := s.rdNat k 4
  let n := s.rdNat (k + 8) 4
  let st := (Status.ofCode (s.rdNat (k + 4) 2)).getD .cellFault
  let here := (s.cell c).plan.any (fun i => i.job == j) || (s.cell c).resident == some j
  match s.job? j, s.copy? j g with
  | some x, some y =>
    if here && off.toNat % 64 == 0 && decide (off.toNat + 128 ≤ 2 ^ 23) && y.place != .ended then
      let staged := if bit (s.rdNat (k + 6) 1) 0 then s.rd (x.outputAt g) (min n x.outCap) else []
      let r := { x.record j g y s.trunk.epoch.toNat st staged n with entryDigest := s.rd (k + 16) 48, outDigest := s.rd (k + 64) 48 }
      (s.leaveCell j g st).post r
    else s
  | _, _ => s


/-- A write of DPDISP: an item of the cell's plan that has not started is displaced (02 R54). -/
def State.dpdisp (s : State) (c j : Nat) : State :=
  if (s.cell c).plan.any (fun i => i.job == j) && (s.copy? j (groveOf c)).any (fun k => k.place == .planned) then
    (s.copyBack j (groveOf c) false).refreshJob c
  else s


/-- A write of DPREM: the remaining declared time of the resident job (R41 t5). -/
def State.dprem (s : State) (c us : Nat) : State :=
  match (s.cell c).resident with
  | some j => s.modCopy j (groveOf c) (fun k => { k with remaining := us })
  | none => s


/-! ### Receipt roots (05 R144, R145, 04 R113) -/

/-- Payload bytes 16 to 87 of a RECEIPT entry, which the signature covers (05 R144, R145). -/
def Root.head (r : Root) (p : Nat) : Bytes :=
  le 8 r.window ++ le 8 r.first ++ le 4 r.count ++ le 8 Config.serial.toNat ++ le 1 p ++ le 1 (b2n r.close) ++
    le 1 (b2n r.signed) ++ le 1 0 ++ padTo 32 r.digest ++ le 6 r.tick ++ le 2 0

/-- The 168-byte payload. -/
def Root.payload (r : Root) (p : Nat) : Bytes := r.head p ++ padTo 96 r.signature

/-- Roots of the last 4,096 windows, the one that is open not among them (04 R113; counted by number, log entry 71). -/
def keepRoots (window : Nat) (l : List Root) : List Root := l.filter (fun x => decide (window ≤ x.window + 4096))

/-- The root with its signature, ECDSA P-384 by the attestation key, where there is one (05 R145). -/
def State.signRoot (s : State) (p : Nat) (r : Root) : State × Root :=
  let r := { r with signed := s.attestKey }
  if s.attestKey then
    let (s, sig) := s.p384Signature (s.slot attestSlot).key (r.head p)
    (s, { r with signature := sig })
  else (s, r)

/-- ROOT_UNSIGNED, once for a close (01 R29). -/
def State.rootUnsigned (s : State) (r : Root) : State :=
  if r.signed || s.sched.unsignedFor.contains r.closeNo then s
  else
    let open_ (n : Nat) : Bool := s.parts.any (fun p => p.2.closing.any (fun x => x.closeNo == n))
    ({ s with sched := { s.sched with unsignedFor := r.closeNo :: s.sched.unsignedFor.filter open_ } }).notify 0x0207 0xFF
      (le 8 r.window)

/-- The internal job that signed a root of a partition has ended. -/
def State.internDone (s : State) (p : Nat) : State :=
  let mine (i : Intern) : Bool := i.root == some p
  match allCells.find? (fun c => (s.cell c).intern.any mine) with
  | some c => s.modCell c (fun x => Cell.settle { x with intern := x.intern.eraseP mine })
  | none => { s with sched := { s.sched with unplaced := s.sched.unplaced.eraseP mine } }

/-- Sign and post the oldest closed root of a partition; a place among the internal jobs is free again. -/
def State.postRoot (s : State) (p : Nat) : State :=
  match (s.part p).closing with
  | [] => s
  | r :: rest =>
    let (s, r) := s.signRoot p r
    let s := (s.internDone p).modPart p (fun x => { x with closing := rest, roots := keepRoots s.sched.windowOpen (x.roots ++ [r]) })
    ((s.svcPost p 1 0x0010 p (r.payload p)).rootUnsigned r).fetch

/-- RECEIPT_ROOT_POST: the root of a partition's closed window is signed and posted. -/
def execReceiptRootPost (partition : BitVec 6) (s : State) : Answer := .next (s.postRoot partition.toNat)

/-- ATTEST_KEY_GENERATE: at a boundary in OPERATIONAL or MAINTENANCE with an active master key of partition 0 and the slot
empty, the key is made, and a certificate for it under DevID, whose encoding is open (13 R357, log entry 2). -/
def execAttestKeyGenerate (s : State) : Answer :=
  if (s.life == .operational || s.life == .maintenance) && (s.activeMaster 0).isSome && !(s.slot attestSlot).occupied &&
      s.heart.serving && s.trunk.ready then
    match s.trunkDraw 56 with
    | none => .next s
    | some (s, r) =>
      let k := keyFrom 0x29 48 r
      let s := s.install attestSlot { key := k, alg := 0x29, partition := 0 } true
      let s := s.commitItem (.slot attestSlot (s.slot attestSlot)) true
      let issuer := devidKey s.trunk.rework
      let cert := stdBytes .certificate [issuer, publicOf 0x29 k] (1 + Config.stdNat .certificate [issuer, k] % 4096)
      .next { s with trunk := { s.trunk with attestCert := cert } }
  else .next s

end Sys2Proof.Machine
end

