-- ==== Sys2Proof/Machine/HostIf.lean ====
section
/-! DEFINITION. The host interface (03): register reads and writes by page, doorbells and index records, interrupt timers, and
the resets of functions. -/

namespace Sys2Proof.Machine

/-! ### Functions -/

/-- A function that the host can reach: the interface is out of reset and the function exists (R30, R100). -/
def State.live (s : State) (f : Nat) : Bool := s.trunk.powerGood && !s.trunk.perst && (f == 0 || decide (f ≤ s.trunk.numVfs))

/-- A wake cause in DORMANT (18 R458). -/
def State.wake (s : State) : State := if s.dormant then { s with trunk := { s.trunk with waking := true } } else s

/-- Registers beyond page 0 and doorbells answer only once READY is 1 (R66). -/
def State.opened (s : State) (f : Nat) : Bool := s.live f && s.trunk.ready

/-- Mailboxes that a function has: 8 on the PF, 2 on a VF (R69). -/
def mailboxes (f : Nat) : Nat := if f = 0 then 8 else 2

/-! ### Doorbells and index records (R80 to R85) -/

/-- A doorbell is discarded, counted and recorded. -/
def State.doorbellDiscard (s : State) (f q index : Nat) : State :=
  (s.modFn f (fun y => { y with idxErr := y.idxErr + 1 })).logEvent 0x0601 f 0 f (le 2 q ++ le 4 index)

/-- Start the read of an index record, or note that one more is wanted. -/
def State.readRecord (s : State) (f : Nat) (completion : Bool) (q : Nat) (x : RingRef) : State :=
  if x.ring.reading then s.setRing f completion q { x.ring with again := true }
  else (s.setRing f completion q { x.ring with reading := true }).emit (.hostRead f x.record.toNat 4)

/-- A doorbell of the PF's carrier `k` takes a request: whether the service button is held then counts for R340's change into
FACTORY. -/
def State.bell (s : State) (k : Nat) : State :=
  let bells := s.trunk.svcBells.filter (· != k)
  { s with trunk := { s.trunk with svcBells := if s.trunk.svcButton then k :: bells else bells } }

/-- A queue doorbell. In DORMANT it wakes the module, which reads the record at t5 of the wake (18 R459). -/
def State.ringQueue (s : State) (f : Nat) (completion : Bool) (q : Nat) : State :=
  if s.opened f then
    match s.ringRef f completion q with
    | none => s.wake.doorbellDiscard f q 0xFFFFFFFF
    | some x =>
      let s := if f = 0 ∧ q = 0 ∧ !completion then s.bell 8 else s
      if s.dormant then
        { s.wake with trunk := { s.wake.trunk with rung := s.trunk.rung ++ [(f, completion, q)] } }
      else s.readRecord f completion q x
  else s

/-- QUEUE_DOORBELL: a write of QDB. -/
def execQueueDoorbell (fn : BitVec 6) (value : BitVec 32) (s : State) : Answer :=
  .next (s.ringQueue fn.toNat (bit value.toNat 15) (bits value.toNat 9 0))

/-- Waiting completions or service entries are written while there is room (R85, R97). -/
def State.release (s : State) (f q : Nat) : State :=
  if q = 0 then State.admWrite ((s.fn f).adm.waiting.length + 1) s f
  else if q ≤ 4 then s.svcServe f
  else
    let k := queueKey f true q
    State.cqWrite (((s.queue? k).map (fun x => x.waiting.length)).getD 0 + 1) s k

/-- A host index has been read: it is taken, or the doorbell is discarded when it is N or more. -/
def State.takeIndex (s : State) (f : Nat) (completion : Bool) (q index : Nat) : State :=
  match s.ringRef f completion q with
  | none => s
  | some x =>
    if 2 ^ x.log ≤ index then s.doorbellDiscard f q index
    else
      let s := s.setRing f completion q { x.ring with host := index }
      if completion then s.release f q else s.fetch

/-- INDEX_RECORD_READ_DONE: the read of a record returns, or fails (R73 FETCHERR). -/
def execIndexRecordReadDone (fn : BitVec 6) (completion : Bool) (q : BitVec 10) (hostIndex : Option (BitVec 16))
    (s : State) : Answer :=
  let f := fn.toNat
  let n := q.toNat
  match s.ringRef f completion n with
  | none => .next s
  | some x =>
    if !x.ring.reading || !s.opened f || s.dormant then .next s
    else
      let s := s.setRing f completion n { x.ring with reading := false, again := false }
      let s := match hostIndex with
        | some i => s.takeIndex f completion n i.toNat
        | none => if n = 0 then s.modFn f (fun y => { y with adm := { y.adm with fetchErr := true } }) else s
      if x.ring.again then
        match s.ringRef f completion n with
        | some y => .next (s.readRecord f completion n y)
        | none => .next s
      else .next s

/-- COMPLETION_HEAD_DOORBELL: a head doorbell with the head that its index record holds. -/
def execCompletionHeadDoorbell (fn : BitVec 6) (q : BitVec 10) (head : BitVec 16) (s : State) : Answer :=
  let f := fn.toNat
  if s.opened f then
    match s.ringRef f true q.toNat with
    | none => .next (s.wake.doorbellDiscard f q.toNat 0xFFFFFFFF)
    | some _ => if s.dormant then .next (s.ringQueue f true q.toNat) else .next (s.takeIndex f true q.toNat head.toNat)
  else .next s

/-- The read of a BUSY mailbox's request; in DORMANT it waits for the wake (04 R111). -/
def State.readRequest (s : State) (f m : Nat) : State :=
  if s.dormant then s else s.emit (.hostRead f ((s.fn f).mailbox m).req.toNat 256)

/-- A mailbox doorbell (R70, R71). -/
def State.ringMailbox (s : State) (f m : Nat) : State :=
  if s.opened f && decide (m < mailboxes f) then
    let x := (s.fn f).mailbox m
    let s := s.wake
    if x.state = .busy then s.modFn f (fun y => y.setMailbox m { x with ovr := true })
    else if !x.en then s
    else
      let s := if f = 0 then s.bell m else s
      (s.modFn f (fun y => y.setMailbox m { x with state := .busy })).readRequest f m
  else if s.opened f then s.wake
  else s

/-- MAILBOX_DOORBELL: a write of MDB. -/
def execMailboxDoorbell (fn : BitVec 6) (value : BitVec 32) (s : State) : Answer :=
  .next (s.ringMailbox fn.toNat (bits value.toNat 2 0))

/-! ### Control registers (R7, R69, R73, R74) -/

/-- A write-masked write: bits [15:0] with their enables in [31:16]. -/
def maskedWrite (old v : Nat) : Nat := (List.range 16).foldl (fun n i => setBits n i i (b2n (bit (if bit v (16 + i) then v else old) i))) old

def Mailbox.ctl (x : Mailbox) : Nat := b2n x.en + 2 * b2n x.ie + x.vec.toNat * 2 ^ 8

/-- A write of MBCTL. -/
def State.mbctl (s : State) (f m v : Nat) : State :=
  let x := (s.fn f).mailbox m
  let n := maskedWrite x.ctl v
  s.modFn f (fun y => y.setMailbox m { x with en := bit n 0, ie := bit n 1, vec := BitVec.ofNat 6 (bits n 13 8) })

/-- A size field that EN accepts (R74). -/
def sizeOk (n : Nat) : Bool := decide (1 ≤ n ∧ n ≤ 12)

def AdminPair.ctl (a : AdminPair) : Nat :=
  b2n a.en + 2 * b2n a.ie + a.vec.toNat * 4 + a.sqLog.toNat * 2 ^ 8 + a.cqLog.toNat * 2 ^ 12

/-- A write of AQCTL. Clearing EN drops ACTIVE; completions that wait then are discarded and recorded (R79). Of a write whose EN is
refused the other fields are taken: the rule says only what EN and CFGERR become (log entry 65). -/
def State.aqctl (s : State) (f v : Nat) : State :=
  let a := (s.fn f).adm
  let n := maskedWrite a.ctl v
  let sets := bit v 0 && bit v 16
  let refused := sets && !(sizeOk (bits n 11 8) && sizeOk (bits n 15 12))
  let en := if refused then a.en else bit n 0
  let starts := en && !a.active
  let b : AdminPair := { a with
    en, ie := bit n 1, vec := BitVec.ofNat 6 (bits n 7 2), sqLog := BitVec.ofNat 4 (bits n 11 8)
    cqLog := BitVec.ofNat 4 (bits n 15 12), active := en, cfgErr := a.cfgErr || refused
    sq := if starts then {} else a.sq, cq := if starts then {} else a.cq, waiting := if en then a.waiting else [] }
  let s := s.modFn f (fun y => { y with adm := b })
  if en then s else (s.fetchDrop (fun g q => g == f && q == 0)).each a.waiting (fun s _ => s.logEvent 0x0602 f 0 f (le 2 0))

def SvcQueue.ctl (x : SvcQueue) : Nat := b2n x.en + 2 * b2n x.ie + x.vec.toNat * 4 + x.log.toNat * 2 ^ 8

/-- ALARM entries held from start-up are posted on a function's ALARM queue when it is first enabled (14 R373). -/
def State.postHeld (s : State) (f : Nat) : State :=
  if s.bark.heldPosted.contains f then s
  else
    let s := { s with bark := { s.bark with heldPosted := f :: s.bark.heldPosted } }
    s.each s.bark.held (fun s h => s.svcPost f 0 h.code 0 h.payload)

/-- A write of SVCTL; a refused EN leaves the other fields of the write taken, as in AQCTL (log entry 65). -/
def State.svctl (s : State) (f q v : Nat) : State :=
  let x := (s.fn f).service q
  let n := maskedWrite x.ctl v
  let sets := bit v 0 && bit v 16
  let refused := sets && !sizeOk (bits n 11 8)
  let en := if refused then x.en else bit n 0
  let starts := en && !x.active
  let y : SvcQueue := { x with
    en, ie := bit n 1, vec := BitVec.ofNat 6 (bits n 7 2), log := BitVec.ofNat 4 (bits n 11 8), active := en
    cfgErr := x.cfgErr || refused, ring := if starts then {} else x.ring, waiting := if en then x.waiting else [] }
  let s := s.modFn f (fun z => z.setService q y)
  if starts && q == 0 then s.postHeld f else s

/-- MBCTL_WRITE, AQCTL_WRITE and SVCTL_WRITE: writes on page 1 and 2 wake a dormant module (R67). -/
def execMbctlWrite (fn : BitVec 6) (m : BitVec 3) (value : BitVec 32) (s : State) : Answer :=
  if s.opened fn.toNat then
    .next (if m.toNat < mailboxes fn.toNat then s.wake.mbctl fn.toNat m.toNat value.toNat else s.wake)
  else .next s
def execAqctlWrite (fn : BitVec 6) (value : BitVec 32) (s : State) : Answer :=
  if s.opened fn.toNat then .next (s.wake.aqctl fn.toNat value.toNat) else .next s
def execSvctlWrite (fn : BitVec 6) (q : BitVec 2) (value : BitVec 32) (s : State) : Answer :=
  if s.opened fn.toNat then .next (s.wake.svctl fn.toNat q.toNat value.toNat) else .next s

/-! ### Register reads (R65, R68 to R77) -/

/-- Page 0 (R68). -/
def State.page0 (s : State) (f off : Nat) : Nat :=
  match off with
  | 0x00 => identWord
  | 0x04 => f + b2n (f != 0) * 2 ^ 8
  | 0x08 => Config.serial.toNat % 2 ^ 32
  | 0x0C => Config.serial.toNat / 2 ^ 32
  | 0x10 => s.image.fwver.toNat
  | 0x14 => s.trunk.epoch.toNat
  | 0x18 => s.lcsWord
  | 0x1C => s.statusWord
  | 0x20 => s.bark.tstky.toNat
  | 0x24 => s.capsWord
  | _ => 0

def MbState.code : MbState → Nat
  | .idle => 0
  | .busy => 1
  | .done => 2

/-- A mailbox block (R69). -/
def Mailbox.read (x : Mailbox) (off : Nat) : Nat :=
  match off with
  | 0x00 => x.req.toNat % 2 ^ 32
  | 0x04 => x.req.toNat / 2 ^ 32
  | 0x08 => x.rsp.toNat % 2 ^ 32
  | 0x0C => x.rsp.toNat / 2 ^ 32
  | 0x10 => x.ctl
  | 0x14 => x.state.code + 4 * b2n x.ovr + 8 * b2n x.dmaErr + x.seq.toNat * 2 ^ 8 + x.lastSt.toNat * 2 ^ 16
  | _ => 0

/-- The administrative pair (R73); `idle` is AQSTAT.IDLE. -/
def AdminPair.read (a : AdminPair) (idle : Bool) (off : Nat) : Nat :=
  match off with
  | 0x00 => a.ctl
  | 0x04 => b2n a.active + 2 * b2n idle + 4 * b2n a.cfgErr + 8 * b2n a.fetchErr
  | 0x08 => a.sqBase.toNat % 2 ^ 32
  | 0x0C => a.sqBase.toNat / 2 ^ 32
  | 0x10 => a.sqRec.toNat % 2 ^ 32
  | 0x14 => a.sqRec.toNat / 2 ^ 32
  | 0x18 => a.cqBase.toNat % 2 ^ 32
  | 0x1C => a.cqBase.toNat / 2 ^ 32
  | 0x20 => a.cqRec.toNat % 2 ^ 32
  | 0x24 => a.cqRec.toNat / 2 ^ 32
  | _ => 0

/-- A service queue's block (R73). -/
def SvcQueue.read (x : SvcQueue) (off : Nat) : Nat :=
  match off with
  | 0x00 => x.base.toNat % 2 ^ 32
  | 0x04 => x.base.toNat / 2 ^ 32
  | 0x08 => x.record.toNat % 2 ^ 32
  | 0x0C => x.record.toNat / 2 ^ 32
  | 0x10 => x.ctl
  | 0x14 => b2n x.active + 2 * b2n x.cfgErr + x.waiting.length * 2 ^ 8 + x.drop.toNat * 2 ^ 16
  | _ => 0

/-- A queue that the queue view shows: the administrative pair and the service queues always exist, enabled or not (R75). -/
def State.viewRef (s : State) (f : Nat) (completion : Bool) (q : Nat) : Option RingRef :=
  let a := (s.fn f).adm
  if q = 0 then
    some (if completion then ⟨a.cq, a.cqLog.toNat, a.cqBase, a.cqRec⟩ else ⟨a.sq, a.sqLog.toNat, a.sqBase, a.sqRec⟩)
  else if completion && decide (q ≤ 4) then
    let v := (s.fn f).service (q - 1)
    some ⟨v.ring, v.log.toNat, v.base, v.record⟩
  else s.ringRef f completion q

/-- Entries of jobs of a submission queue that are staged and not admitted, and jobs that are admitted (R75). -/
def State.jobLoad (s : State) (f n : Nat) : Nat :=
  let jobs := s.jobs.filter (fun p => p.2.fn == f && p.2.q == n)
  ((jobs.filter (fun p => p.2.staged && !p.2.admitted)).map (fun p => p.2.entries.length)).sum +
    (jobs.filter (fun p => p.2.admitted)).length * 2 ^ 16

/-- Completions or service entries that wait for room, and the vector, of a completion queue. -/
def State.waitLoad (s : State) (f n : Nat) : Nat × Nat :=
  let y := s.fn f
  if n = 0 then (y.adm.waiting.length, y.adm.vec.toNat)
  else if n ≤ 4 then ((y.service (n - 1)).waiting.length, (y.service (n - 1)).vec.toNat)
  else match s.queue? (queueKey f true n) with
    | some z => (z.waiting.length, z.vec.toNat)
    | none => (0, 0)

/-- QINFO.MODE and QINFO.CQ of a submission queue. -/
def Queue.info (z : Queue) : Nat := b2n z.dual * 2 ^ 6 + b2n z.requeue * 2 ^ 7 + b2n z.degrade * 2 ^ 8 + z.cq * 2 ^ 16

/-- QINFO, QIDX and QLOAD of the queue in QSEL (R75). -/
def State.queueView (s : State) (f off : Nat) : Nat :=
  let y := s.fn f
  let n := y.qselNum.toNat
  if off = 0 then n + b2n y.qselKind * 2 ^ 15
  else
    match s.viewRef f y.qselKind n with
    | none => 0
    | some x =>
      match off with
      | 0x04 =>
        1 + x.log * 2 + (if y.qselKind then (s.waitLoad f n).2 * 2 ^ 10
          else ((s.queue? (queueKey f false n)).map (fun z => z.info)).getD 0)
      | 0x08 => x.ring.dev + x.ring.host * 2 ^ 16
      | 0x0C => if y.qselKind then (s.waitLoad f n).1 else s.jobLoad f n
      | _ => 0

def MsixVector.ivc (v : MsixVector) : Nat := v.cnt.toNat + v.ticks.toNat * 2 ^ 8 + v.pend.toNat * 2 ^ 16

/-- Page 3 (R77); group 0x3100 answers on the PF alone. -/
def State.page3 (s : State) (f group off : Nat) : Nat :=
  let y := s.fn f
  let m := s.elec.m
  match group, off with
  | 0, 0x00 => s.sched.tick % 2 ^ 32
  | 0, 0x04 => y.tickH.toNat
  | 0, 0x08 => s.tperWord
  | 0, 0x0C => s.window % 2 ^ 32
  | 0, 0x10 => s.cellsWord
  | 0, 0x14 => s.sched.cap
  | 1, _ => if f ≠ 0 then 0 else
    match off with
    | 0x00 => m.vinMv
    | 0x04 => m.iinMa
    | 0x08 => m.pinMw
    | 0x0C => s.clock.energyJ.toNat % 2 ^ 32
    | 0x10 => y.enH.toNat
    | 0x14 => s.tempWord
    | _ => 0
  | 2, 0x00 => y.jobs.toNat % 2 ^ 32
  | 2, 0x04 => y.jobsH.toNat
  | 2, 0x08 => y.expire.toNat
  | 2, 0x0C => y.overrun.toNat
  | 2, 0x10 => y.malform.toNat
  | 2, 0x14 => y.idxErr.toNat
  | _, _ => 0

/-- A BAR0 offset as the decoder sees it: page, group, offset in the group (R65). -/
def decodeBar0 (off : Nat) : Nat × Nat × Nat := (off / 0x1000 % 4, off / 0x100 % 16, off / 4 % 32 * 4)

/-- The value of a register. -/
def State.regValue (s : State) (f off : Nat) : Nat :=
  let (page, group, o) := decodeBar0 off
  let y := s.fn f
  if page = 0 then (if group = 0 then s.page0 f o else 0)
  else if !s.trunk.ready then 0
  else if page = 1 then
    let m := group * 4 + o / 0x20
    if group < 2 ∧ m < mailboxes f then (y.mailbox m).read (o % 0x20) else 0
  else if page = 2 then
    match group with
    | 0 => y.adm.read (s.adminIdle f) o
    | 1 => (y.service (o / 0x20)).read (o % 0x20)
    | 2 => s.queueView f o
    | 3 => (y.vector (o / 4)).ivc
    | 4 => (y.vector (32 + o / 4)).ivc
    | _ => 0
  else s.page3 f group o

/-- What a read changes: latches (R78), read-clears (R7). -/
def State.regTouched (s : State) (f off : Nat) : State :=
  let (page, group, o) := decodeBar0 off
  if !s.trunk.ready then s
  else if page = 3 then
    match group, o with
    | 0, 0x00 => s.modFn f (fun y => { y with tickH := BitVec.ofNat 16 (s.sched.tick / 2 ^ 32) })
    | 1, 0x0C => if f = 0 then s.modFn f (fun y => { y with enH := s.clock.energyJ.extractLsb' 32 32 }) else s
    | 2, 0x00 => s.modFn f (fun y => { y with jobsH := y.jobs.extractLsb' 32 32 })
    | 2, 0x08 => s.modFn f (fun y => { y with expire := 0 })
    | 2, 0x0C => s.modFn f (fun y => { y with overrun := 0 })
    | 2, 0x10 => s.modFn f (fun y => { y with malform := 0 })
    | 2, 0x14 => s.modFn f (fun y => { y with idxErr := 0 })
    | _, _ => s
  else if page = 2 ∧ group = 1 ∧ o % 0x20 = 0x14 then
    s.modFn f (fun y => y.setService (o / 0x20) { y.service (o / 0x20) with drop := 0 })
  else s

/-- A read of BAR0: the value is returned, and what the read changes happens. In DORMANT a read beyond page 0 wakes the module
and is answered after the wake (01 R18). -/
def State.barRead (s : State) (f off : Nat) : State :=
  if s.live f then
    if s.dormant && off / 0x1000 % 4 != 0 then { s.wake with trunk := { s.wake.trunk with reads := s.trunk.reads ++ [(f, off)] } }
    else (s.emit (.regRead f (off / 4 * 4) (s.regValue f off))).regTouched f off
  else s

def execTicklRead (fn : BitVec 6) (s : State) : Answer := .next (s.barRead fn.toNat 0x3000)
def execEnlRead (fn : BitVec 6) (s : State) : Answer := .next (s.barRead fn.toNat 0x310C)
def execJobslRead (fn : BitVec 6) (s : State) : Answer := .next (s.barRead fn.toNat 0x3200)

/-- Offset of a clearing counter of page 3. -/
def counterOffset : ClearingCounter → Nat
  | .expire => 0x3208
  | .overrun => 0x320C
  | .malform => 0x3210
  | .idxerr => 0x3214

def execPage3CounterRead (fn : BitVec 6) (which : ClearingCounter) (s : State) : Answer :=
  .next (s.barRead fn.toNat (counterOffset which))
def execSvstatRead (fn : BitVec 6) (q : BitVec 2) (s : State) : Answer := .next (s.barRead fn.toNat (0x2114 + 0x20 * q.toNat))
/-- BAR0_READ_DORMANT: a read of BAR0, in DORMANT or not. -/
def execBar0ReadDormant (fn : BitVec 6) (offset : BitVec 16) (s : State) : Answer := .next (s.barRead fn.toNat offset.toNat)

/-! ### Register writes -/

/-- A low or high word of an address register, its low `align` bits 0. -/
def addrWord (x : BitVec 64) (high : Bool) (v align : Nat) : BitVec 64 :=
  if high then BitVec.ofNat 64 (v * 2 ^ 32 + x.toNat % 2 ^ 32)
  else BitVec.ofNat 64 (x.toNat / 2 ^ 32 * 2 ^ 32 + v / 2 ^ align * 2 ^ align)

def State.mailboxWrite (s : State) (f m off v : Nat) : State :=
  let up (g : Mailbox → Mailbox) : State := s.modFn f (fun y => y.setMailbox m (g (y.mailbox m)))
  match off with
  | 0x00 => up (fun x => { x with req := addrWord x.req false v 8 })
  | 0x04 => up (fun x => { x with req := addrWord x.req true v 0 })
  | 0x08 => up (fun x => { x with rsp := addrWord x.rsp false v 8 })
  | 0x0C => up (fun x => { x with rsp := addrWord x.rsp true v 0 })
  | 0x10 => s.mbctl f m v
  | 0x14 => up (fun x => { x with ovr := x.ovr && !bit v 2, dmaErr := x.dmaErr && !bit v 3 })
  | _ => s

def State.adminWrite (s : State) (f off v : Nat) : State :=
  let up (g : AdminPair → AdminPair) : State := s.modFn f (fun y => { y with adm := g y.adm })
  match off with
  | 0x00 => s.aqctl f v
  | 0x04 => up (fun a => { a with cfgErr := a.cfgErr && !bit v 2, fetchErr := a.fetchErr && !bit v 3 })
  | 0x08 => up (fun a => { a with sqBase := addrWord a.sqBase false v 6 })
  | 0x0C => up (fun a => { a with sqBase := addrWord a.sqBase true v 0 })
  | 0x10 => up (fun a => { a with sqRec := addrWord a.sqRec false v 4 })
  | 0x14 => up (fun a => { a with sqRec := addrWord a.sqRec true v 0 })
  | 0x18 => up (fun a => { a with cqBase := addrWord a.cqBase false v 6 })
  | 0x1C => up (fun a => { a with cqBase := addrWord a.cqBase true v 0 })
  | 0x20 => up (fun a => { a with cqRec := addrWord a.cqRec false v 4 })
  | 0x24 => up (fun a => { a with cqRec := addrWord a.cqRec true v 0 })
  | _ => s

def State.serviceWrite (s : State) (f q off v : Nat) : State :=
  let up (g : SvcQueue → SvcQueue) : State := s.modFn f (fun y => y.setService q (g (y.service q)))
  match off with
  | 0x00 => up (fun x => { x with base := addrWord x.base false v 8 })
  | 0x04 => up (fun x => { x with base := addrWord x.base true v 0 })
  | 0x08 => up (fun x => { x with record := addrWord x.record false v 4 })
  | 0x0C => up (fun x => { x with record := addrWord x.record true v 0 })
  | 0x10 => s.svctl f q v
  | 0x14 => up (fun x => { x with cfgErr := x.cfgErr && !bit v 1 })
  | _ => s

/-- A write of IVC: PEND that has reached the new CNT, or that nothing holds back any more, goes out at once (R98). -/
def State.ivcWrite (s : State) (f n v : Nat) : State :=
  let x := { (s.fn f).vector n with cnt := BitVec.ofNat 8 v, ticks := BitVec.ofNat 8 (v / 256) }
  let s := s.modFn f (fun y => y.setVector n x)
  let now := if x.cnt = 0 then x.ticks = 0 else x.cnt ≤ x.pend
  if x.pend ≠ 0 ∧ now then s.vecSend f n else s

/-- A write of a BAR0 register (R65, R66). -/
def State.bar0Write (s : State) (f off v : Nat) : State :=
  let (page, group, o) := decodeBar0 off
  if page = 0 ∨ !s.trunk.ready then s
  else
    let s := s.wake
    if page = 1 then
      let m := group * 4 + o / 0x20
      if group < 2 ∧ m < mailboxes f then s.mailboxWrite f m (o % 0x20) v else s
    else if page = 2 then
      match group with
      | 0 => s.adminWrite f o v
      | 1 => s.serviceWrite f (o / 0x20) (o % 0x20) v
      | 2 => if o = 0 then s.modFn f (fun y => { y with qselNum := BitVec.ofNat 10 v, qselKind := bit v 15 }) else s
      | 3 => s.ivcWrite f (o / 4) v
      | 4 => s.ivcWrite f (32 + o / 4) v
      | _ => s
    else s

/-- A write of the MSI-X table (R61). Unmasking a vector whose PBA bit is set sends its message. -/
def State.msixWrite (s : State) (f off v : Nat) : State :=
  if 0x400 ≤ off then s
  else
    let n := off / 16
    let x := (s.fn f).vector n
    let put (x : MsixVector) : State := s.modFn f (fun y => y.setVector n x)
    match off / 4 % 4 with
    | 0 => put { x with addr := addrWord x.addr false v 2 }
    | 1 => put { x with addr := addrWord x.addr true v 0 }
    | 2 => put { x with data := BitVec.ofNat 32 v }
    | _ =>
      if bit v 0 then put { x with masked := true }
      else if x.pba then (put { x with masked := false, pba := false }).emit (.msix f n x.addr x.data)
      else put { x with masked := false }

/-- A 32-bit write to a register of BAR0, a doorbell of BAR2 or a word of BAR4. -/
def State.barWrite (s : State) (f bar o v : Nat) : State :=
  match bar with
  | 0 => s.bar0Write f o v
  | 2 => if o % 0x1000 < 0x800 then s.ringQueue f (bit v 15) (bits v 9 0) else s.ringMailbox f (bits v 2 0)
  | 4 => s.msixWrite f (o % 0x2000) v
  | _ => s

/-- REGISTER_WRITE: a write to BAR0, BAR2 or BAR4. With partial byte enables it is discarded (R64). -/
def execRegisterWrite (fn : BitVec 6) (bar : BitVec 3) (offset : BitVec 16) (value : BitVec 32) (partialEnables : Bool)
    (s : State) : Answer :=
  if partialEnables || !s.live fn.toNat then .next s else .next (s.barWrite fn.toNat bar.toNat offset.toNat value.toNat)

/-- A 64-bit access is two of 32 bits, the lower address first (R64). The table's commands are of 32 bits; a host's 64-bit access is
two of them. -/
def State.barWrite64 (s : State) (f bar o v : Nat) : State :=
  (s.barWrite f bar o (v % 2 ^ 32)).barWrite f bar (o + 4) (v / 2 ^ 32)
def State.barRead64 (s : State) (f off : Nat) : State := (s.barRead f off).barRead f (off + 4)

/-! ### What a function shows of itself (R61, R62) -/

/-- A word of the MSI-X table, or of the pending-bit array, in BAR4. -/
def State.bar4Value (s : State) (f off : Nat) : Nat :=
  let x := (s.fn f).vector (off / 16)
  if off < 0x400 then
    match off / 4 % 4 with
    | 0 => x.addr.toNat % 2 ^ 32
    | 1 => x.addr.toNat / 2 ^ 32
    | 2 => x.data.toNat
    | _ => b2n x.masked
  else if 0x1000 ≤ off ∧ off < 0x1008 then
    (List.range 32).foldl (fun n i => n + b2n ((s.fn f).vector ((off - 0x1000) / 4 * 32 + i)).pba * 2 ^ i) 0
  else 0

/-- A word of any BAR: the doorbells of BAR2 are write-only. -/
def State.barValue (s : State) (f bar off : Nat) : Nat :=
  match bar with
  | 0 => s.regValue f off
  | 4 => s.bar4Value f (off % 0x2000)
  | _ => 0

/-- What a function reports in its configuration space, and the features of R61. No command of the table reads it: the link's
training, AER's registers and the power management's stand outside the table (log entry 66). -/
structure Identity where
  vendor : BitVec 16
  device : Nat
  classCode : Nat
  subsystem : Nat
  /-- Sizes of BAR0, BAR2 and BAR4, whose kind is 64-bit and not prefetchable; BAR1, BAR3 and BAR5 are their upper halves. -/
  bars : List Nat
  bars64 : Bool
  prefetchable : Bool
  /-- Link: generations and widths it trains to (GT/s in tenths, lanes). -/
  speeds : List Nat
  widths : List Nat
  laneReversal : Bool
  polarityInversion : Bool
  ari : Bool
  aer : Bool
  ecrc : Bool
  d3hot : Bool
  aspmL1 : Bool
  aspmL0s : Bool
  l1Substates : Bool
  tags : Nat
  /-- MSI, INTx, ATS, PRI, PASID, TPH, peer-to-peer, resizable BAR and Atomic Ops, none of which is supported. -/
  others : List Bool
  totalVfs : Nat
  initialVfs : Nat
  firstVfOffset : Nat
  vfStride : Nat
  vectors : Nat
  maxPayload : Nat
  maxReadRequest : Nat
  deriving DecidableEq, Repr

def identityOf (f : Nat) : Identity :=
  { vendor := Config.vendor, device := if f = 0 then 0x0256 else 0x0257, classCode := 0x108000
    subsystem := if Config.isE then 2 else 1, bars := [0x10000, 0x1000, 0x2000]
    bars64 := true, prefetchable := false, speeds := [320, 160, 80, 50, 25], widths := [8, 4, 2, 1], laneReversal := true
    polarityInversion := true, ari := true, aer := true, ecrc := true, d3hot := true, aspmL1 := true, aspmL0s := false
    l1Substates := false, tags := 10, others := List.replicate 9 false, totalVfs := 63, initialVfs := 63
    firstVfOffset := 1, vfStride := 1, vectors := 64, maxPayload := 512, maxReadRequest := 4096 }

/-! ### Interrupt timers (R98) -/

/-- Boundaries after which a vector's message is due, if ever. -/
def MsixVector.due (v : MsixVector) : Option Nat := if v.ticks ≠ 0 then some v.ticks.toNat else if v.cnt ≠ 0 then some 1 else none

/-- COALESCE_TICK_EXPIRY: the oldest pending addition has seen TICKS boundaries. -/
def execCoalesceTickExpiry (fn : BitVec 6) (vec : BitVec 6) (s : State) : Answer :=
  let x := (s.fn fn.toNat).vector vec.toNat
  match x.due with
  | some n => if x.pend ≠ 0 ∧ n ≤ x.age ∧ !s.dormant then .next (s.vecSend fn.toNat vec.toNat) else .next s
  | none => .next s

/-! ### Ending a function's work (R99) -/

/-- A job is to end with a status: at once when no cell has begun it, at its next stop otherwise (R99, 04 R116). -/
def State.stopJob (s : State) (j : Nat) (st : Status) : State :=
  match s.job? j with
  | none => s
  | some x =>
    let busy (k : Copy) : Bool := k.place == .running || (k.place == .ended && k.result.isNone)
    let gone (s : State) (g : Bool) : State :=
      match s.copy? j g with
      | some k =>
        if busy k then s
        else
          let s := (s.offCell k.cell j).modGrove g (fun y => { y with intake := y.intake.filter (· != j) })
          s.modJob j (fun x => x.setCopy g none)
      | none => s
    if ([x.copyA, x.copyB].filterMap id).any busy then
      (gone (gone s false) true).modJob j (fun x => { x with mark := some st })
    else s.endNow j st

/-- The open chain of a submission queue is one job, and ends (R87, R99). -/
def State.endChain (s : State) (q : Queue) (silent : Bool) : State :=
  match q.chain with
  | [] => s
  | e :: _ =>
    let s := s.modQueue (queueKey q.fn false q.num) (fun x => { x with chain := [] })
    s.postCompletion q.fn q.num q.fn (field e 2 2) .queueDestroyed [] 0 0 (entryDigest q.chain [] false) 0xFF s.nextTick 0 silent

/-- A function is reset: its jobs end without completions, its queues and registers go (R99), its sessions end (04 R108). The rule
lists the queues and the mailboxes; the model resets with them the function's page 3 counters and latches, QSEL, IVC, MSI-X entries
and power state (log entry 65). -/
def State.resetFn (s : State) (f : Nat) : State :=
  let s := s.each ((s.jobs.filter (fun p => p.2.fn == f)).map (fun p => p.1)) (fun s j =>
    (s.modJob j (fun x => { x with silent := true })).stopJob j .queueDestroyed)
  let s := s.each ((s.queues.filter (fun p => p.2.fn == f && !p.2.completion)).map (fun p => p.2)) (fun s q => s.endChain q true)
  let s := (s.endSessions (fun x => x.fn == f)).fetchDrop (fun g _ => g == f)
  { s with
    queues := s.queues.filter (fun p => p.2.fn != f)
    fns := tblDel s.fns f
    trunk := { s.trunk with
      rung := s.trunk.rung.filter (fun r => r.1 != f), reads := s.trunk.reads.filter (fun r => r.1 != f)
      restores := s.trunk.restores.map (fun w => { w with req := reqGone f w.req })
      held := s.trunk.held.map (fun w => { w with req := reqGone f w.req })
      change := s.trunk.change.map (fun c => { c with waits := c.waits.map (reqGone f) }) }
    twin := { s.twin with
      replies := s.twin.replies.map (fun x => { x with req := reqGone f x.req })
      unpairing := s.twin.unpairing.map (reqGone f) } }

/-- A running LOG_STREAM ends with its STREAM_END entry, which is never written to flash (15 R401). -/
def State.endStream (s : State) : State :=
  match s.log.stream with
  | none => s
  | some x =>
    ({ s with log := { s.log with stream := none } }).svcPost 0 2 0x0904 0 (le 4 x.first ++ le 4 x.last ++ le 4 x.sent ++ le 4 x.skipped)

/-- FLR: of a VF, or of the PF, which clears VF Enable and resets every function. -/
def execFlr (fn : BitVec 6) (s : State) : Answer :=
  let f := fn.toNat
  if !s.live f then .next s
  else if f = 0 then
    let s := s.endStream.each allFns (fun s f => s.resetFn f)
    .next { s with trunk := { s.trunk with numVfs := 0 } }
  else .next (s.resetFn f)

/-- VF_ENABLE_WRITE: the first `n` VFs exist from now on; those that go are reset (R30). -/
def execVfEnableWrite (n : BitVec 6) (s : State) : Answer :=
  if s.live 0 then
    let s := s.each (allFns.filter (fun f => decide (n.toNat < f) && decide (f ≤ s.trunk.numVfs))) (fun s f => s.resetFn f)
    .next { s with trunk := { s.trunk with numVfs := n.toNat } }
  else .next s

/-- FUNCTION_POWER_STATE_CHANGE: D3hot and back; WAKE# is released on the return to D0 (19 R479). -/
def execFunctionPowerStateChange (fn : BitVec 6) (d3hot : Bool) (s : State) : Answer :=
  if s.live fn.toNat then
    .next (s.modFn fn.toNat (fun y => { y with d3hot, wakeWanted := y.wakeWanted && d3hot }))
  else .next s

end Sys2Proof.Machine
end

