-- ==== Sys2Proof/Machine/Queues.lean ====
section
/-! DEFINITION. Submission entries as the host interface fetches and checks them (03 R84, R88 to R92, 02 R44, 06 R171 to R174),
and the staging of their input. -/

namespace Sys2Proof.Machine

/-! ### One entry (R88, R89) -/

def entryFirst (e : Bytes) : Bool := bit (field e 4 1) 0
def entryLast (e : Bytes) : Bool := bit (field e 4 1) 1
def entryInline (e : Bytes) : Bool := bit (field e 4 1) 4
def entryLen (e : Bytes) : Nat := field e 32 4

/-- R90 order 1 for one entry of a queue with the given attributes. -/
def entryBad (dual requeue : Bool) (e : Bytes) : Bool :=
  let f := field e 4 1
  decide (64 ≤ f) || bit f 2 != dual || bit f 5 != requeue || (bit f 4 && decide (8 < entryLen e))

/-- The fields that every entry of a chain shares (R91). -/
def sameChain (a b : Bytes) : Bool :=
  field a 0 2 == field b 0 2 && field a 2 2 == field b 2 2 && field a 5 1 == field b 5 1 &&
    bit (field a 4 1) 2 == bit (field b 4 1) 2 && bit (field a 4 1) 5 == bit (field b 4 1) 5

/-- A later entry that breaks its chain: a field differs, or bytes 36 to 47 are not 0 (R91, R92). -/
def breaksChain (f e : Bytes) : Bool := !sameChain f e || field e 36 12 != 0

/-! ### Completions before admission (R27, R92, 05 R141) -/

/-- Entries complete together, once, before any admission, with the tag of the first; of a well-formed chain with the head after its LAST
entry (R91). -/
def State.refuse (s : State) (q : Queue) (es : List Bytes) (st : Status) (head : Option Nat := none) : State :=
  let e := es.headD []
  s.postCompletion q.fn q.num q.fn (field e 2 2) st [] 0 0 (entryDigest es [] false) 0xFF s.nextTick 0 false head

/-- Each entry of a broken chain completes by itself (R92), with MALFORMED_ENTRY where order 1 of R90 finds it so. -/
def State.breakAll (s : State) (q : Queue) (es : List Bytes) : State :=
  s.each es (fun s e => s.refuse q [e] (if entryBad q.dual q.requeue e then .malformedEntry else .malformedChain))

/-! ### A job (R90, R91, 02 R44, 06 R171, R174) -/

/-- Input bytes of an inline entry. -/
def inlineBytes (e : Bytes) : Bytes := piece e 24 (entryLen e)

/-- Bytes that a DMA read brings for an entry. -/
def dmaLen (e : Bytes) : Nat := if entryInline e then 0 else entryLen e

/-- The job's input from its entries and the bytes read from host memory, in order. -/
def joinInput : List Bytes → Bytes → Bytes
  | [], _ => []
  | e :: es, bs =>
    if entryInline e then inlineBytes e ++ joinInput es bs
    else piece bs 0 (entryLen e) ++ joinInput es (bs.drop (entryLen e))

/-- R90 orders 3 to 5, then what a life-cycle change stops (13 R341) and what no cell can take (06 R171, R174). Bytes 12 to 15 and 20
to 23 are reserved, and no rule says what a non-zero one does: they are not looked at (log entry 65). -/
def State.entryCheck (s : State) (q : Queue) (es : List Bytes) : Option Status :=
  let e := es.headD []
  let code := field e 0 2
  let total := es.foldl (fun n x => n + entryLen x) 0
  if field e 5 1 ≠ q.fn then some .partitionMismatch
  else if !(fnCodes.contains code || (s.custom? code).any (fun x => x.partition == q.fn)) then some .badFunction
  else if q.dual && dualClass code (BitVec.ofNat 32 (field e 8 4)) (s.custom? code) == .n then some .badFunction
  else if 64 * mib < total ∨ 64 * mib < field e 36 4 then some .badLength
  else if s.changing then some .queueDestroyed
  else if s.trunk.dark then some .drainedRetry
  else if q.dual && !q.degrade && (s.route q.fn true).length != 2 then some .partnerLost
  else none

/-- The job that an entry or a closed chain forms; `groves` are the intakes that it goes into. -/
def State.jobOf (s : State) (q : Queue) (es : List Bytes) (stamp : Nat) (head : Option Nat) (groves : List Bool)
    (refusal : Option Status) : Job :=
  let e := es.headD []
  let code := field e 0 2
  let hA : Handle := BitVec.ofNat 32 (field e 8 4)
  let n := es.foldl (fun n x => n + entryLen x) 0
  let staged := es.all (fun x => dmaLen x == 0)
  { fn := q.fn, q := q.num, partition := q.fn, code, tag := field e 2 2, fence := bit (field e 4 1) 3, dual := q.dual
    requeue := q.requeue, degrade := q.degrade, stamp, maxAge := field e 6 2, handleA := hA
    handleB := BitVec.ofNat 32 (field e 16 4), params := piece e 48 16, entries := es, staged
    input := if staged then joinInput es [] else [], inLen := n, outCap := field e 36 4
    outPtr := BitVec.ofNat 64 (field e 40 8), w := declared code (piece e 48 16) n (s.algOf hA) (s.custom? code), head, refusal
    copyA := if groves.contains false then some {} else none
    copyB := if groves.contains true then some {} else none
    degraded := q.dual && groves.length == 1 }

/-- A job takes its number and its buffer, enters its intake or intakes, and the reads of its input go out. -/
def State.enter (s : State) (x : Job) (groves : List Bool) : State :=
  let j := s.nextJob
  let s := { (s.setJob j x) with nextJob := j + 1 }
  let s := s.each groves (fun s g => s.modGrove g (fun y => { y with intake := y.intake ++ [j] }))
  let s := s.stageJob j
  let s := if x.staged then s.stageInput j else s
  s.each x.entries (fun s e => if dmaLen e = 0 then s else s.emit (.hostRead x.fn (field e 24 8) (dmaLen e)))

/-- An entry or a closed chain is submitted. Order 1 goes first: where the input must be read, a status of orders 3 to 5 waits for
that read (R90). -/
def State.submit (s : State) (q : Queue) (es : List Bytes) (stamp : Nat) (head : Option Nat) : State :=
  if es.any (entryBad q.dual q.requeue) then s.refuse q es .malformedEntry head
  else
    match s.entryCheck q es with
    | none => let groves := s.route q.fn q.dual; s.enter (s.jobOf q es stamp head groves none) groves
    | some st =>
      if es.all (fun x => dmaLen x == 0) then s.refuse q es st head else s.enter (s.jobOf q es stamp head [] (some st)) []

/-- An entry outside any chain. -/
def State.startEntry (s : State) (q : Queue) (e : Bytes) : State :=
  if entryFirst e && entryLast e then s.submit q [e] s.sched.tick none
  else if entryFirst e then
    s.modQueue (queueKey q.fn false q.num) (fun x => { x with chain := [e], chainStamp := s.sched.tick })
  else if entryBad q.dual q.requeue e then s.refuse q [e] .malformedEntry
  else s.breakAll q [e]

/-- The open chain is closed or broken. -/
def State.dropChain (s : State) (q : Queue) : State :=
  s.modQueue (queueKey q.fn false q.num) (fun x => { x with chain := [] })

/-- One fetched entry of a created queue, whose ring has moved past it (R91, R92). An entry whose read failed has no fields: it counts as 64 zero bytes. -/
def State.takeEntry (s : State) (q : Queue) (entry : Option Bytes) : State :=
  match entry with
  | none => ((s.dropChain q).breakAll q q.chain).refuse q [List.replicate 64 0] .malformedEntry
  | some e =>
    let e := padTo 64 e
    match q.chain with
    | [] => s.startEntry q e
    | f :: _ =>
      if entryFirst e || decide (256 ≤ q.chain.length) then ((s.dropChain q).breakAll q q.chain).startEntry q e
      else if breaksChain f e then (s.dropChain q).breakAll q (q.chain ++ [e])
      else if entryLast e then (s.dropChain q).submit q (q.chain ++ [e]) q.chainStamp (some q.ring.dev)
      else s.modQueue (queueKey q.fn false q.num) (fun x => { x with chain := q.chain ++ [e] })

/-- The next entry of a created submission queue has been read. One that finds its intake full waits in host memory (02 R44). -/
def State.fetchTenant (s : State) (f n : Nat) (entry : Option Bytes) : State :=
  match s.queue? (queueKey f false n) with
  | none => s
  | some q =>
    if q.destroyed || q.ring.dev == q.ring.host || s.intakeFull q then s
    else
      let q := { q with ring := q.ring.push q.log }
      ((s.setQueue (queueKey f false n) q).writeIndex f q.record q.ring).takeEntry q entry

/-! ### Staging (01 R28) -/

/-- The input of a job has been read: it goes into the job's buffer, or the job ends with the status that waited for it. -/
def State.staged (s : State) (j : Nat) (x : Job) (bs : Bytes) : State :=
  match x.refusal with
  | some st => s.endUnadmitted j st s.nextTick
  | none => (s.setJob j { x with staged := true, input := joinInput x.entries bs }).stageInput j

/-- INPUT_STAGED: the input bytes of a job that are not inline have been read, or a read failed (R90 order 1). -/
def execInputStaged (job : Nat) (input : Option Bytes) (s : State) : Answer :=
  match s.job? job with
  | none => .next s
  | some x =>
    if x.staged then .next s
    else
      match input with
      | none => .next (s.endUnadmitted job .malformedEntry s.nextTick).fetch
      | some bs => .next (s.staged job x bs).fetch

end Sys2Proof.Machine
end

