-- ==== Sys2Proof/Machine/Store.lean ====
section
/-! DEFINITION. The configuration store of flash bank 2 (09 R256, R257): its entries, the CMAC under which start-up accepts
them, its two halves, and what the accepted entries amount to. -/

namespace Sys2Proof.Machine

/-- The key of the configuration store, derived from the DevID private key; the derivation is open (R256, log entry 7). -/
def storeKey (rework : Nat) : Bytes := stdBytes .storeKey [devidKey rework] 32

/-! ### Items -/

def Part.enrolled (x : Part) : Enrolled :=
  { qA := x.qA, qB := x.qB, officers := x.officers, auditors := x.auditors, operators := x.operators
    mOfficer := x.mOfficer, mAuditor := x.mAuditor, mOperator := x.mOperator }

def Part.withEnrolled (x : Part) (y : Enrolled) : Part :=
  { x with
    qA := y.qA, qB := y.qB, officers := y.officers, auditors := y.auditors, operators := y.operators
    mOfficer := y.mOfficer, mAuditor := y.mAuditor, mOperator := y.mOperator }

/-- A partition's certificates, quorum values and quotas as bytes (log entry 16). -/
def Enrolled.bytes (x : Enrolled) : Bytes :=
  let certs (t : Tbl Bytes) : Bytes := le 1 t.length ++ t.flatMap (fun c => le 1 c.1 ++ le 2 c.2.length ++ c.2)
  le 1 x.qA ++ le 1 x.qB ++ le 1 x.mOperator ++ le 1 x.mOfficer ++ le 1 x.mAuditor ++
    certs x.operators ++ certs x.officers ++ certs x.auditors

/-- The enrolment store as MREG3 digests it (13 R353, log entry 16). -/
def State.enrolments (s : State) : Bytes := s.parts.flatMap (fun p => le 1 p.1 ++ p.2.enrolled.bytes)

def Pairing.bytes (x : Pairing) : Bytes :=
  le 1 x.role.code ++ le 1 (b2n x.identity) ++ le 4 x.epoch.toNat ++ le 2 x.set.length ++ x.set ++ le 1 (b2n x.promoted)

def MediaJ.bytes (x : MediaJ) : Bytes := padTo 16 x.volume ++ le 8 x.seq ++ le 8 x.block ++ padTo 16 x.object

/-- An item as its CMAC covers it; the layout is the model's (log entry 16). -/
def CItem.bytes : CItem → Bytes
  | .enrolment p x => le 1 0 ++ le 1 p ++ x.bytes
  | .noEnrolments => le 1 1
  | .bark i m cs => le 1 2 ++ le 1 i ++ le 1 m ++ cs.map (fun c => BitVec.ofNat 8 c.code)
  | .barkDefaults => le 1 3
  | .selectors code l => le 1 4 ++ le 2 code ++ le 1 (b2n l.isSome) ++ (l.getD []).map (fun x => BitVec.ofNat 8 x)
  | .selectorDefaults => le 1 5
  | .pairing x => le 1 6 ++ x.bytes
  | .media j => le 1 7 ++ j.flatMap MediaJ.bytes

/-! ### What the store holds -/

/-- The contents that the entries amount to. -/
structure Stored where
  parts : Tbl Enrolled := []
  bark : Tbl (Nat × List Cls) := []
  selectors : Tbl (List Nat) := []
  pairing : Option Pairing := none
  media : List MediaJ := []
  deriving DecidableEq, Repr

def Stored.apply (x : Stored) : CItem → Stored
  | .enrolment p y => { x with parts := tblSet x.parts p y }
  | .noEnrolments => { x with parts := [] }
  | .bark i m cs => { x with bark := tblSet x.bark i (m, cs) }
  | .barkDefaults => { x with bark := [] }
  | .selectors code none => { x with selectors := tblDel x.selectors code }
  | .selectors code (some l) => { x with selectors := tblSet x.selectors code l }
  | .selectorDefaults => { x with selectors := [] }
  | .pairing y => { x with pairing := some y }
  | .media j => { x with media := j }

/-- The items of a snapshot. -/
def Stored.items (x : Stored) : List CItem :=
  x.parts.map (fun p => .enrolment p.1 p.2) ++ x.bark.map (fun p => .bark p.1 p.2.1 p.2.2) ++
    x.selectors.map (fun p => .selectors p.1 (some p.2)) ++ (x.pairing.map CItem.pairing).toList ++
    (if x.media = [] then [] else [.media x.media])

/-- An entry under a key. -/
def CEntry.make (key : Bytes) (seq : Nat) (item : CItem) : CEntry :=
  { seq, item, mac := cmac (aes key) (le 8 seq ++ item.bytes) }

/-- Whether an entry's CMAC verifies. -/
def CEntry.authentic (key : Bytes) (e : CEntry) : Bool := cmac (aes key) (le 8 e.seq ++ e.item.bytes) == e.mac

/-- The entries whose CMAC verifies, in sequence order (R257). -/
def State.stored (s : State) : Stored :=
  (s.flash.store.filter (CEntry.authentic (storeKey s.trunk.rework))).foldl (fun x e => x.apply e.item) {}

def State.storeSeq (s : State) : Nat := (s.flash.store.getLast?.map (fun e => e.seq)).getD 0

/-- Flash bytes of an entry: its sequence number, length, item and CMAC. -/
def CEntry.size (e : CEntry) : Nat := 28 + e.item.bytes.length

/-- Bytes of one half of the store. -/
def storeHalf : Nat := 96 * 2 ^ 16

/-- A snapshot of contents goes into the erased half, and the other half is erased. -/
def State.storeSnapshot (s : State) (x : Stored) : State :=
  let first := s.storeSeq + 1
  let es := x.items.zipIdx.map (fun p => CEntry.make (storeKey s.trunk.rework) (first + p.2) p.1)
  { s with flash := { s.flash with store := es } }

/-- An item is committed. -/
def State.storeAdd (s : State) (item : CItem) : State :=
  let e := CEntry.make (storeKey s.trunk.rework) (s.storeSeq + 1) item
  let t := { s with flash := { s.flash with store := s.flash.store ++ [e] } }
  if storeHalf < (t.flash.store.map CEntry.size).sum then t.storeSnapshot t.stored else t

/-- A command's change of the store: its commit is read back good, or its entry is persisted all the same (04 R110). A program that fails its
read-back costs its sector (15 R380). -/
def State.storeTake (s : State) (item : CItem) (io : Io) : State :=
  let s := if io.flashOk || io.flashKept then s.storeAdd item else s
  if io.flashOk then s else s.programFails 2 3840 192

/-- What makes this module a twin, or keeps its identity, as the store holds it (16 R410). -/
def Twin.pairing (t : Twin) : Pairing :=
  { role := t.role, identity := t.identity, epoch := t.epoch, set := t.set, domain := t.domain, partner := t.partner
    partnerDigest := t.partnerDigest, promoted := t.promoted }

/-- The pairing that the store holds is in force. -/
def Twin.withPairing (t : Twin) (x : Pairing) : Twin :=
  { t with
    role := x.role, identity := x.identity, epoch := x.epoch, set := x.set, domain := x.domain, partner := x.partner
    partnerDigest := x.partnerDigest, promoted := x.promoted }

end Sys2Proof.Machine
end

