-- ==== Sys2Proof/Machine/Command.lean ====
section
/-! DEFINITION. The checks that every request of the trunk command set passes (04 R101, R103, R105, R111, R112), sessions'
use (R106 to R108), and what commands share: certificates, commits, card exchanges. -/

namespace Sys2Proof

/-! ### The message (R101) -/

/-- Bytes 8 up to Length. -/
def Req.raw (r : Req) : Bytes := r.body.take (r.len - 8)
/-- The number at message bytes `off` to `off + n - 1`; bytes beyond Length are ignored. -/
def Req.b (r : Req) (off n : Nat) : Nat := Machine.field r.raw (off - 8) n
def Req.str (r : Req) (off n : Nat) : Bytes := Machine.piece r.raw (off - 8) n
/-- A byte up to Length that the row does not assign is not 0. -/
def Req.reserved (r : Req) (assigned : List (Nat × Nat)) : Bool :=
  (List.range r.raw.length).any (fun i =>
    Machine.field r.raw i 1 != 0 && !assigned.any (fun a => decide (a.1 ≤ i + 8) && decide (i + 8 < a.1 + a.2)))

/-- Whether a message came by a mailbox. -/
def Via.isMailbox : Via → Bool
  | .mailbox _ => true
  | .admin _ _ => false

namespace Machine

/-- A row of the catalogue. -/
structure Cmd where
  code : Nat
  /-- Minimum roles, one of which is to be held. -/
  roles : List Role
  /-- The role is held in partition 0. -/
  zero : Bool
  states : List Life
  /-- Marked (c): the command needs an internal cell job. -/
  cellJob : Bool
  /-- Message bytes that the row assigns: offset and length. -/
  bytes : List (Nat × Nat)
  /-- The command is accepted under LOCKOUT (R112). -/
  underLockout : Bool := false
  deriving DecidableEq, Repr

/-- Every state, and the sets that the catalogue's letters name. -/
def everyState : List Life := [.factory, .transit, .blank, .operational, .maintenance, .recovery, .retired]
def statesFOM : List Life := [.factory, .operational, .maintenance]
def statesFBOM : List Life := [.factory, .blank, .operational, .maintenance]
def statesOM : List Life := [.operational, .maintenance]

/-! ### Roles (R105) -/

/-- A held role satisfies a minimum role. -/
def Role.satisfies (held least : Role) : Bool := least == .host || held == least || (held == .officer && least == .operator)

/-- The role that a request holds and the partition it is held in. -/
def State.caller (s : State) (r : Req) : Role × Nat :=
  if r.session = 0 then (.host, r.fn.toNat)
  else match s.sessionOf r with
    | some x => (x.role, x.partition)
    | none => (.host, r.fn.toNat)

/-- The partition on which a command that names none acts. -/
def State.ownPart (s : State) (r : Req) : Nat := (s.caller r).2

/-! ### The order of checks (R103) -/

/-- What a command adds to the checks of R103. -/
structure Checks where
  /-- The partition that the command names (order 7); a PF caller may name any when `anyOnPf`. -/
  named : Option Nat := none
  anyOnPf : Bool := false
  /-- The command concerns the session that it names (R112 "session's function", "session holder"). -/
  ofSession : Bool := false
  /-- Parameters are in range and what they name exists (order 8). -/
  params : Bool := true
  /-- Object lengths are in range (order 9). -/
  lengths : Bool := true
  deriving DecidableEq, Repr

/-- The status of the first check that fails. A role held in another partition than 0 where the row asks for it in partition 0 is taken
as held, so that order 7 refuses it: the rule leaves open whether order 6 does (log entry 65). -/
def State.gate (s : State) (r : Req) (k : Cmd) (c : Checks) : Option Status :=
  let (held, part) := s.caller r
  let named := if k.zero then some 0 else c.named
  let badLen := decide (r.len < 8) || decide (256 < r.len) || (match r.via with
    | .admin _ _ => r.len != r.carried
    | .mailbox _ => false)
  let assembling := match s.sessionOf r with
    | some x => !x.isOpen
    | none => false
  if badLen then some .malformedEntry
  else if !k.states.contains s.life || (s.lockout && !k.underLockout) || (s.trunk.change.isSome && s.trunk.resuming.isNone) then some .stateRefused
  else if r.session != 0 && (s.sessionOf r).isNone then some .sessionInvalid
  else if assembling && !c.ofSession then some .quorumPending
  else if !k.roles.any (fun least => held.satisfies least) || (c.ofSession && r.session == 0) then some .notAuthorised
  else if named.any (fun p => p != part) && !(c.anyOnPf && r.fn == 0) then some .partitionMismatch
  else if r.reserved k.bytes || !c.params then some .badParameter
  else if !c.lengths then some .badLength
  else none

/-! ### Internal cell jobs (R72, R110, 06 R171) -/

/-- A (c) command that cannot have its cell (R111, R72, R171). The recovery firmware serves it without cells (13 R352). -/
def State.cellGate (s : State) (mailbox : Bool) : Option Status :=
  if s.halted then some .haltedByAlarm
  else if s.life = .recovery then none
  else if s.trunk.dark then some .drainedRetry
  else if mailbox && decide (256 ≤ s.internalJobs) then some .intakeFull
  else none

/-- A (c) command's work takes a cell as an internal job of its own (02 R49, log entry 18). -/
def State.internAsk (s : State) (code : Nat) : State :=
  if s.life = .recovery then s
  else
    let w := Config.internTime code
    { s with sched := { s.sched with unplaced := s.sched.unplaced ++ [{ w, left := w }] } }

/-! ### Execution -/

/-- What a command's execution answers: the state, the status, and the results with a class 0x00 status. -/
abbrev Ran := State × Status × Bytes

/-- The commands of the catalogue's part Keys, and PRESENT: a ZEROIZE-class response ends them (R111, R488). -/
def keyCodes : List Nat := [0x0202, 0x0501, 0x0502, 0x0503, 0x0504, 0x0505, 0x0506, 0x0507]

/-- The status of a command that an event ends in its execution, if it is answered: `some none` writes no response (R99, R111, R488).
A command so ended leaves no effect (log entry 67). -/
def Cmd.ended (k : Cmd) : Interruption → Option (Option Status)
  | .none => none
  | .zeroize => if keyCodes.contains k.code then some (some .haltedByAlarm) else none
  | .lockout => if k.code = 0x0103 then none else some (some .stateRefused)
  | .gone => some none

/-- A command that changed `s` into `t` is answered; while changes of it wait for the partner, its answer waits too (16 R416). -/
def State.finish (s t : State) (r : Req) (code part : Nat) (st : Status) (res : Bytes) : State :=
  if t.twin.replSeq != s.twin.replSeq && t.twin.awaiting.any (fun a => decide (s.twin.replSeq < a.1)) then
    { t with twin := { t.twin with
      replies := t.twin.replies ++ [{ seq := t.twin.replSeq, req := r, code, part, status := st, results := res }] } }
  else t.answer r code st res

/-- The commands that change a partition's key store, enrolments, quotas or queue set (04 R111, R112). -/
def changerCodes : List Nat := [0x0204, 0x0205, 0x0206, 0x0301, 0x0302, 0x0303, 0x0501, 0x0502, 0x0504, 0x0506, 0x0507]

/-- The partition that a command concerns. -/
def State.partOf (s : State) (r : Req) (k : Cmd) (c : Checks) : Nat := if k.zero then 0 else c.named.getD (s.ownPart r)

/-- An earlier command that changes the same partition is in execution (R111). -/
def State.behind (s : State) (code part : Nat) : Bool :=
  changerCodes.contains code &&
    (s.twin.replies.any (fun x => x.part == part && changerCodes.contains x.code) ||
      s.trunk.held.any (fun x => x.part == part && changerCodes.contains x.code))

/-- A command waits. -/
def State.hold (s : State) (r : Req) (code part : Nat) (why : HeldFor) : State :=
  { s with trunk := { s.trunk with held := s.trunk.held ++ [{ code, req := r, part, why }] } }

/-- What comes before a command's execution: it runs when the host interface serves its function, in DORMANT its doorbell wakes the module,
its turn has come (R111), and the checks of R103 pass. One that goes on after a wait for Seed or for its session has passed them. `cut` is
what a command that an event ends leaves. -/
def State.precheck (s : State) (r : Req) (k : Cmd) (c : Checks) (cut : State → State := id) : Except Answer State :=
  let part := s.partOf r k c
  if !s.opened r.fn.toNat then .error (.next s)
  else if s.dormant then .error (.next s.wake)
  else if s.trunk.resuming.any (fun w => w != .turn) then .ok s
  else if s.behind k.code part then .error (.next (s.hold r k.code part .turn))
  else
    match s.gate r k c with
    | some st => .error (.next (s.answer r k.code st []))
    | none =>
      match if k.cellJob then s.cellGate r.via.isMailbox else none with
      | some st => .error (.next (s.answer r k.code st []))
      | none =>
        match k.ended r.io.during with
        | some none => .error (.next (cut s))
        | some (some st) => .error (.next ((cut s).answer r k.code st []))
        | none => .ok s

/-- A command from its checks to its answer. One whose draw Seed cannot serve yet waits without an effect (10 R274); only SEED_RAW_READ
names the status for another cause. -/
def State.command (s : State) (r : Req) (k : Cmd) (c : Checks) (run : State → Ran) (cut : State → State := id) : Answer :=
  let part := s.partOf r k c
  match s.precheck r k c cut with
  | .error a => a
  | .ok s =>
    let (t, st, res) := run s
    if st = .randomUnavailable ∧ s.seedAlive ∧ k.code ≠ 0x0B02 then .next (s.hold r k.code part .seed)
    else .next (s.finish (if k.cellJob then t.internAsk k.code else t) r k.code part st res)

/-- A command that fails after the checks without an effect. -/
def State.fails (s : State) (st : Status) : Ran := (s, st, [])
def State.succeeds (s : State) (res : Bytes) : Ran := (s, .ok, res)

/-- OK, or COMMIT_UNKNOWN when the commit to flash was not read back good (R110). -/
def commitStatus (ok : Bool) : Status := if ok then .ok else .commitUnknown

/-! ### Enrolment (R109, 13 R353) -/

/-- The certificates of a role in a partition. -/
def Part.certs (x : Part) : Role → Tbl Bytes
  | .operator => x.operators
  | .officer => x.officers
  | .auditor => x.auditors
  | .host => []

def Part.setCerts (x : Part) (r : Role) (t : Tbl Bytes) : Part :=
  match r with
  | .operator => { x with operators := t }
  | .officer => { x with officers := t }
  | .auditor => { x with auditors := t }
  | .host => x

def Part.quorum (x : Part) : Role → Nat
  | .operator => x.mOperator
  | .officer => x.mOfficer
  | .auditor => x.mAuditor
  | .host => 0

def Part.setQuorum (x : Part) (r : Role) (m : Nat) : Part :=
  match r with
  | .operator => { x with mOperator := m }
  | .officer => { x with mOfficer := m }
  | .auditor => { x with mAuditor := m }
  | .host => x

/-- The role that a request byte codes. -/
def roleOf (n : Nat) : Option Role := if n = 1 then some .operator else if n = 2 then some .officer else if n = 3 then some .auditor else none

/-- A committed change of the enrolment store extends MREG3. A change whose commit failed stands until the next reset, and
after it only when its entry was persisted (R110, 14 R371). -/
def State.storeChanged (s : State) (p : Nat) (f : Part → Part) (io : Io) : Ran :=
  let held := (s.part p).withEnrolled ((tblGet s.stored.parts p).getD {})
  let s := s.storeTake (.enrolment p (f held).enrolled) io
  let s := s.setPart p (f (s.part p))
  if io.flashOk then (s.extend 3 (sha384 s.enrolments), .ok, []) else (s, .commitUnknown, [])

/-! ### Card exchanges (17 R439, R441 to R445) -/

/-- The module's own field comes on for a command that uses the reader, and goes back after it (R444, R445). -/
def State.fieldBack (s : State) : State :=
  { s with rf := { s.rf with
      field := if s.rf.external then .none else if s.rf.mode = .watch then .tenth else .none, cardHeld := false } }

/-- Whether a carrier can be used at all: the contact slot with a card, the reader in READER or WATCH without an external
field (R444, R450). -/
def State.carrierReady (s : State) (reader : Bool) : Bool :=
  if reader then s.rf.mode != .off && !s.rf.external else s.icc.st == .ready

/-- How a poll ends (R444), with its outcome in the record (R451): 3 unresolved after 8 unresolved rounds, else one card, none or
several; and its unresolved rounds. -/
def pollEnd (l : List PollRound) : Nat × Nat :=
  let u := (l.filter (fun r => r.unresolved)).length
  if 8 ≤ u then (3, 8)
  else
    let n : Nat := (l.map (fun r => r.cards)).sum
    (if n = 0 then 1 else if n = 1 then 0 else 2, u)

/-- The record of a reader poll (R451). -/
def State.pollRecord (s : State) (l : List PollRound) : State :=
  s.logEvent 0x0A04 0xFF 0 0xFF (le 1 (pollEnd l).1 ++ le 1 (pollEnd l).2)

/-- The answer of a card on a carrier: on the reader the poll decides first whether one card is activated (R444). -/
def cardOn (reader : Bool) (a : CardAnswer) : CardAnswer :=
  let plain := if a.outcome = .several then { a with outcome := .failed } else a
  if !reader || a.poll == [] && a.outcome == .removed then plain
  else match (pollEnd a.poll).1 with
    | 0 => plain
    | 1 => { a with outcome := .absent }
    | _ => { a with outcome := .several }

/-- The status with which an exchange ends that was not answered throughout. -/
def cardStatus : CardOutcome → Status
  | .answered => .ok
  | .absent => .noMedia
  | .removed => .mediaRemoved
  | .failed => .mediaError
  | .several => .unresolved
  | .refused => .cardRejected
  | .refusedOther => .cardRejected

/-- The commands that the module sends to a custodian card (R441): SELECT, VERIFY with a PIN, GET CERT for each 256 bytes of its
certificate, then `rest`. -/
def cardScript (pin cert : Bytes) (rest : List (Nat × Bytes)) : List (Nat × Bytes) :=
  (0xA4, [0xF0, 0x4B, 0x5A, 0x43, 0x55, 0x53, 0x54, 0x01]) ::
    ((if pin.all (· == 0) then [] else [(0x20, pin.filter (· != 0))]) ++
      (List.range (max 1 ((cert.length + 255) / 256))).map (fun i => (0x30, be 2 i)) ++ rest)

/-- The contact card is deactivated, or the reader's field goes back, at a command's end (R439, R444). -/
def State.carrierBack (s : State) (reader : Bool) : State :=
  if reader then s.fieldBack else { s with icc := { s.icc with active := false } }

/-- The card has had a part of its commands, how many is open (log entry 3), and gets no more. -/
def State.cardPart (s : State) (script : List (Nat × Bytes)) : State :=
  s.drawn.each (script.take (s.freeNat % (script.length + 1))) (fun s c => s.emit (.cardCommand c.1 c.2))

/-- A card of the contact slot is activated for a command and deactivated after it (R439). An exchange that does not succeed ends
after a part of the commands (R441). -/
def State.exchange (s : State) (reader : Bool) (card : CardAnswer) (pin : Bytes) (rest : List (Nat × Bytes)) : State :=
  let s := if reader && (card.poll != [] || card.outcome != .removed) then s.pollRecord card.poll else s
  let card := cardOn reader card
  let script := cardScript pin card.cert rest
  let s := if card.outcome = .absent ∨ card.outcome = .several then s
    else if card.outcome = .answered then s.each script (fun s c => s.emit (.cardCommand c.1 c.2))
    else s.cardPart script
  s.carrierBack reader

/-- An exchange that is abandoned (R488). -/
def State.abandon (s : State) (reader : Bool) (card : CardAnswer) (pin : Bytes) (rest : List (Nat × Bytes)) : State :=
  (s.cardPart (cardScript pin card.cert rest)).carrierBack reader

/-- The value of the first element of a DER text, and what follows it (X.690). -/
def derFirst (bs : Bytes) : Bytes × Bytes :=
  let l := field bs 1 1
  let (at_, n) := if l < 0x80 then (2, l) else (2 + l % 0x80, numBe (piece bs 2 (l % 0x80)))
  (piece bs at_ n, bs.drop (at_ + n))

/-- What follows `n` elements. -/
def derAfter : Nat → Bytes → Bytes
  | 0, bs => bs
  | n + 1, bs => derAfter n (derFirst bs).2

/-- The P-384 public key of a DER certificate: the subject's public-key information stands behind version, serial number, algorithm,
issuer, validity and subject. Empty when its algorithm is another (00 R9: X.509). -/
def certPublic (cert : Bytes) : Bytes :=
  let tbs := (derFirst (derFirst cert).1).1
  let spki := (derFirst (derAfter (if field tbs 0 1 = 0xA0 then 6 else 5) tbs)).1
  if (derFirst spki).1 = [6, 7, 0x2A, 0x86, 0x48, 0xCE, 0x3D, 2, 1, 6, 5, 0x2B, 0x81, 4, 0, 0x22] then
    (derFirst (derFirst spki).2).1.drop 1
  else []

/-- The signature of a custodian card or an operator over a challenge and a handle verifies (R107). -/
def signedOver (cert challenge : Bytes) (h : BitVec 32) (sig : Bytes) : Bool :=
  p384Holds (certPublic cert) (challenge ++ le 4 h.toNat) sig

end Machine
end Sys2Proof
end

