-- ==== Sys2Proof/Machine/Sessions.lean ====
section
/-! DEFINITION. Information and attestation (04 R112, R113, 13 R353 to R359), sessions (04 R106 to R108, R488) and enrolment
(04 R109). -/

namespace Sys2Proof.Machine

/-! ### Information -/

def cmdGetInfo : Cmd := { code := 0x0101, roles := [.host], zero := false, states := everyState, cellJob := false, bytes := [] }

/-- GET_INFO. -/
def State.infoBytes (s : State) : Bytes :=
  le 8 Config.serial.toNat ++ le 4 s.image.fwver.toNat ++ le 4 s.trunk.epoch.toNat ++ le 2 s.life.code ++
    le 1 s.trunk.rdp.toNat ++ le 1 s.twin.role.code ++ le 2 s.sched.period ++ le 2 s.active ++ le 2 s.parkedCount ++
    le 2 (1024 - s.poolUsed false) ++ le 2 (1024 - s.poolUsed true) ++ le 6 s.sched.tick

def execGetInfo (q : Req) (s : State) : Answer := s.command q cmdGetInfo {} (fun s => s.succeeds s.infoBytes)

def cmdGetMreg : Cmd :=
  { code := 0x0102, roles := [.host], zero := false, states := everyState, cellJob := false, bytes := [(8, 2)] }

/-- GET_MREG: `count` registers from `first`. -/
def execGetMreg (q : Req) (s : State) : Answer :=
  let first := q.b 8 1
  let count := q.b 9 1
  s.command q cmdGetMreg { params := decide (first ≤ 7) && decide (1 ≤ count ∧ count ≤ 5) && decide (first + count ≤ 8) }
    (fun s => s.succeeds ((s.trunk.mregs.drop first).take count).flatten)

/-- Quote bytes 8 to 159 (R358). -/
def State.quoteHead (s : State) (nonce : Bytes) : Bytes :=
  le 2 1 ++ le 2 152 ++ le 8 Config.serial.toNat ++ le 1 orderCode ++ le 1 stepping ++ le 2 s.life.code ++
    le 1 s.trunk.rdp.toNat ++ le 1 s.twin.role.code ++ le 2 0 ++
    le 4 (if s.twin.role = .solo then 0 else s.twin.epoch.toNat) ++
    le 8 (if s.twin.role = .solo then 0 else s.twin.partner.toNat) ++ le 4 s.trunk.epoch.toNat ++ le 4 s.image.fwver.toNat ++
    le 6 s.sched.tick ++ le 2 0 ++ le 4 s.bark.tstky.toNat ++ le 4 s.statusWord ++ padTo 32 nonce ++ s.mregDigest ++ le 16 0

/-- The quote: its bytes and the signature over them under DevID, with the nonce of FIPS 186-5's deterministic procedure, so that it draws
nothing (R358). -/
def State.quote (s : State) (nonce : Bytes) : Bytes :=
  let h := s.quoteHead nonce
  let key := devidKey s.trunk.rework
  h ++ p384SignWith key h (nonceOf p384 2 (num key) (p384.hashNum (sha384 h)) [])

def cmdAttest : Cmd :=
  { code := 0x0103, roles := [.host], zero := false, states := everyState, cellJob := false, bytes := [(8, 32)]
    underLockout := true }

/-- ATTEST runs on the trunk: under HALT and LOCKOUT as well (R113, R358). -/
def execAttest (q : Req) (s : State) : Answer := s.command q cmdAttest {} (fun s =>
  let quote := s.quote (q.str 8 32)
  s.succeeds quote)

def cmdGetCert : Cmd :=
  { code := 0x0104, roles := [.host], zero := false, states := everyState, cellJob := false, bytes := [(8, 1), (10, 2)] }

/-- The certificates that GET_CERT names. -/
def State.certificate (s : State) (n : Nat) : Bytes :=
  if n = 0 then s.trunk.devidCert else if n = 1 then s.trunk.attestCert else s.twin.set

/-- GET_CERT: up to 240 bytes from the offset. A certificate that does not exist, or an offset beyond its end, is refused
(R103 order 8). -/
def execGetCert (q : Req) (s : State) : Answer :=
  let n := q.b 8 1
  let off := q.b 10 2
  let c := s.certificate n
  s.command q cmdGetCert { params := decide (n ≤ 2) && c != [] && decide (off ≤ c.length) } (fun s =>
    let d := (c.drop off).take 240
    s.succeeds (le 2 c.length ++ le 2 d.length ++ le 4 0 ++ d))

def cmdReadRoot : Cmd :=
  { code := 0x0105, roles := [.host], zero := false, states := statesFOM, cellJob := false, bytes := [(8, 9)] }

/-- READ_ROOT: a root of the caller's partition that is held for a window (R113, 05 R144, R146). -/
def execReadRoot (q : Req) (s : State) : Answer :=
  let p := s.ownPart q
  let held := (keepRoots s.sched.windowOpen (s.part p).roots).filter (fun r => r.window == q.b 8 8)
  match held[q.b 16 1]? with
  | some r => s.command q cmdReadRoot {} (fun s => s.succeeds (padTo 168 (r.payload p) ++ le 1 held.length))
  | none => s.command q cmdReadRoot { params := false } (fun s => s.succeeds [])

/-! ### Sessions (R106 to R108) -/

/-- States of OPEN_SESSION and PRESENT. -/
def sessionStates : List Life := [.factory, .transit, .blank, .operational, .maintenance, .recovery]

def cmdOpenSession : Cmd :=
  { code := 0x0201, roles := [.host], zero := false, states := sessionStates, cellJob := false, bytes := [(8, 2)] }

/-- M of a session: an operator session has a quorum of 1 (R107). -/
def State.quorumOf (s : State) (role : Role) (p : Nat) : Nat := if role = .operator then 1 else (s.part p).quorum role

/-- A handle from 24 random bits, never 0 and not in use. -/
def State.newHandle (s : State) (role : Role) (p n : Nat) : Nat :=
  let h (k : Nat) : Nat := p * 2 ^ 26 + role.code * 2 ^ 24 + 1 + (n + k) % (2 ^ 24 - 1)
  ((List.range 65).map h).find? (fun x => (s.session? x).isNone) |>.getD (h 0)

/-- OPEN_SESSION. -/
def execOpenSession (q : Req) (s : State) : Answer :=
  let p := q.b 9 1
  let role := (roleOf (q.b 8 1)).getD .host
  let enrolled := ((s.part p).certs role).length
  let c : Checks := { named := some p, anyOnPf := true, params := role != .host && decide (p ≤ 63) && enrolled != 0 }
  s.command q cmdOpenSession c (fun s =>
    if 64 ≤ s.sessions.length then s.fails .noResource
    else
      match s.trunkDraw 51 with
      | none => s.fails .randomUnavailable
      | some (s, r) =>
        let h := s.newHandle role p (num (r.take 3))
        let x : Session := {
          fn := q.fn.toNat, role, partition := p, isOpen := false, challenge := r.drop 3, joined := [], failures := 0
          openedAt := s.clock.cd18, lastAt := s.clock.cd18 }
        (s.setSession h x).succeeds (le 4 h ++ le 1 (s.quorumOf role p) ++ le 1 enrolled ++ le 2 0 ++ x.challenge))

/-- A verification failure: the third closes an assembling session (R107). -/
def State.presentFails (s : State) (h : Nat) (x : Session) : Ran :=
  if x.isOpen then s.fails .cardRejected
  else if 2 ≤ x.failures then (s.endSession h).fails .cardRejected
  else (s.setSession h { x with failures := x.failures + 1 }).fails .cardRejected

/-- A credential that verified joins the session, which opens when its quorum is complete. -/
def State.presentJoins (s : State) (h : Nat) (x : Session) (cert : Bytes) : Ran :=
  let joined := x.joined ++ [cert]
  let m := s.quorumOf x.role x.partition
  let isOpen := x.isOpen || decide (m ≤ joined.length)
  (s.setSession h { x with joined, isOpen }).succeeds (le 1 joined.length ++ le 1 m ++ le 1 (if isOpen then 2 else 1))

/-- A certificate and signature that a card or an operator showed. -/
def State.presentCred (s : State) (q : Req) (x : Session) (cert sig : Bytes) : Ran :=
  let h := q.session.toNat
  if !(((s.part x.partition).certs x.role).any (fun c => c.2 == cert)) then s.presentFails h x
  else if x.joined.contains cert then s.fails .cardRejected
  else if signedOver cert x.challenge q.session sig then s.presentJoins h x cert
  else s.presentFails h x

/-- A PIN of PRESENT: 4 to 12 digits padded with zeros, or none (R112, 17 R441). -/
def pinOk (pin : Bytes) : Bool :=
  let d := pin.takeWhile (· != 0)
  (pin.drop d.length).all (· == 0) && digits d && (d == [] || decide (4 ≤ d.length ∧ d.length ≤ 12))

def cmdPresent (carrier : Nat) : Cmd :=
  { code := 0x0202, roles := [.host], zero := false, states := sessionStates, cellJob := true
    bytes := if carrier = 0 then [(8, 1), (10, 2), (16, 96)] else [(8, 1), (112, 16)] }

/-- The exchange of PRESENT with a custodian card, and what becomes of the session. Only a refused VERIFY or SIGN is a verification
failure, and never of a card that has joined (R107). -/
def State.presentCard (s : State) (q : Req) (x : Session) (reader : Bool) : Ran :=
  let card := cardOn reader q.io.card
  if !s.carrierReady reader then s.fails .noMedia
  else
    let s := s.exchange reader q.io.card (q.str 112 16) [(0x32, x.challenge ++ le 4 q.session.toNat)]
    match card.outcome with
    | .answered => s.presentCred q x card.cert card.signature
    | .refused => if x.joined.contains card.cert then s.fails .cardRejected else s.presentFails q.session.toNat x
    | o => s.fails (cardStatus o)

/-- PRESENT: the operator's credential under carrier 0, a custodian card under carriers 1 and 2 (R107, 17 R441 to R444). A carrier
that does not fit the session's role, and a PIN that is not 4 to 12 digits, is BAD_PARAMETER: the rule names no status for them (log
entry 65). A session that ends meanwhile ends the exchange (R488). -/
def execPresent (q : Req) (s : State) : Answer :=
  let carrier := q.b 8 1
  let reader := carrier == 2
  let op := (s.sessionOf q).any (fun x => x.role == .operator)
  let cert := match s.sessionOf q with
    | some x => (tblGet ((s.part x.partition).certs x.role) (q.b 10 2)).getD []
    | none => []
  let ok := if carrier = 0 then op && cert != [] else decide (carrier ≤ 2) && !op && pinOk (q.str 112 16)
  let sign : List (Nat × Bytes) := match s.sessionOf q with
    | some x => [(0x32, x.challenge ++ le 4 q.session.toNat)]
    | none => []
  s.command q (cmdPresent carrier) { ofSession := true, params := ok } (fun s =>
    match s.sessionOf q with
    | none => s.fails .sessionInvalid
    | some x => if carrier = 0 then s.presentCred q x cert (q.str 16 96) else s.presentCard q x reader)
    (fun s => if carrier = 0 || !s.carrierReady reader then s else s.abandon reader q.io.card (q.str 112 16) sign)

def cmdCloseSession : Cmd :=
  { code := 0x0203, roles := [.host], zero := false, states := everyState, cellJob := false, bytes := [] }

/-- CLOSE_SESSION waits for the session's commands in execution (R111). -/
def execCloseSession (q : Req) (s : State) : Answer :=
  match s.precheck q cmdCloseSession { ofSession := true } with
  | .error a => a
  | .ok s =>
    if s.inExecution.any (fun w => w.2.fn == q.fn && w.2.session == q.session) then
      .next (s.hold q 0x0203 (s.ownPart q) .session)
    else .next (((s.touchSession q).endSession q.session.toNat).respond q 0x0203 .ok [])

/-- SESSION_IDLE_EXPIRY: 900 s have passed without a command that named the session (R108). -/
def execSessionIdleExpiry (handle : BitVec 32) (s : State) : Answer :=
  if (s.session? handle.toNat).isSome then .next (s.endSession handle.toNat) else .next s

/-- SESSION_ASSEMBLY_EXPIRY: 120 s after OPEN_SESSION a session that still assembles is discarded (R107). -/
def execSessionAssemblyExpiry (handle : BitVec 32) (s : State) : Answer :=
  match s.session? handle.toNat with
  | some x => if x.isOpen then .next s else .next (s.endSession handle.toNat)
  | none => .next s

/-! ### Enrolment (R109) -/

/-- Whether the first Security Officer of partition 0 may be enrolled without a session. -/
def State.firstOfficer (s : State) (role : Role) (p : Nat) : Bool :=
  role == .officer && p == 0 && (s.part 0).officers == [] && (s.life == .factory || s.life == .blank)

/-- The authority of ENROL: S p, S0 for a partition without Security Officers, H on the PF for the first of partition 0. -/
def State.enrolCmd (s : State) (role : Role) (p : Nat) : Cmd :=
  { code := 0x0204, roles := if s.firstOfficer role p then [.host] else [.officer]
    zero := role == .officer && (s.part p).officers == [], states := statesFBOM, cellJob := false
    bytes := [(8, 3), (12, 12)] }

/-- ENROL. -/
def execEnrol (q : Req) (s : State) : Answer :=
  let role := (roleOf (q.b 8 1)).getD .host
  let p := q.b 9 1
  let i := q.b 10 1
  let n := q.b 12 4
  let c : Checks := { named := some p, params := role != .host && decide (p ≤ 63) && decide (i ≤ 15)
                      lengths := decide (1 ≤ n ∧ n ≤ 4096) }
  s.command q (s.enrolCmd role p) c (fun s =>
    let s := s.emit (.hostRead q.fn.toNat (q.b 16 8) n)
    let x := s.part p
    match q.io.object with
    | none => s.fails .malformedEntry
    | some cert =>
      if s.extensionsFull then s.fails .noResource
      else if (tblGet (x.certs role) i).isSome then s.fails .slotOccupied
      else
        s.storeChanged p (fun x => (if x.certs role = [] then x.setQuorum role 1 else x).setCerts role
          (tblSet (x.certs role) i (padTo n cert))) q.io)

def cmdRevoke : Cmd :=
  { code := 0x0205, roles := [.officer], zero := false, states := statesFBOM, cellJob := false, bytes := [(8, 3)] }

/-- REVOKE: never below the quorum M. -/
def execRevoke (q : Req) (s : State) : Answer :=
  let role := (roleOf (q.b 8 1)).getD .host
  let p := q.b 9 1
  let i := q.b 10 1
  let x := s.part p
  let ok := role != .host && decide (p ≤ 63) && (tblGet (x.certs role) i).isSome &&
    decide (x.quorum role < (x.certs role).length)
  s.command q cmdRevoke { named := some p, params := ok } (fun s =>
    if s.extensionsFull then s.fails .noResource
    else s.storeChanged p (fun x => x.setCerts role (tblDel (x.certs role) i)) q.io)

def cmdSetQuorum : Cmd :=
  { code := 0x0206, roles := [.officer], zero := false, states := statesFBOM, cellJob := false, bytes := [(8, 3)] }

/-- SET_QUORUM: M from 1 to the number enrolled. -/
def execSetQuorum (q : Req) (s : State) : Answer :=
  let role := (roleOf (q.b 8 1)).getD .host
  let p := q.b 9 1
  let m := q.b 10 1
  let ok := (role == .officer || role == .auditor) && decide (p ≤ 63) &&
    decide (1 ≤ m ∧ m ≤ ((s.part p).certs role).length)
  s.command q cmdSetQuorum { named := some p, params := ok } (fun s =>
    if s.extensionsFull then s.fails .noResource
    else s.storeChanged p (fun x => x.setQuorum role m) q.io)

end Sys2Proof.Machine
end

