-- ==== Sys2Proof/Machine/Partitions.lean ====
section
/-! DEFINITION. Queues and partitions (04 R112, R114, 03 R81, R87), the tick's period, drains, the power cap and DORMANT
(02 R39, R59, 06 R163 to R168, 04 R115, 18 R457). -/

namespace Sys2Proof.Machine

/-! ### Queues -/

/-- CREATE_QUEUE's row; the other kind's bytes are reserved. -/
def cmdCreateQueue (completion : Bool) : Cmd :=
  { code := 0x0301, roles := [.host], zero := false, states := statesFOM, cellJob := false
    bytes := if completion then [(8, 2), (14, 18)] else [(8, 7), (16, 16)] }

/-- The lowest free number of a kind in a function (R81). -/
def State.freeNumber (s : State) (f : Nat) (completion : Bool) : Option Nat :=
  let lo := if completion then 5 else 1
  ((List.range (1024 - lo)).map (· + lo)).find? (fun n => (s.queue? (queueKey f completion n)).isNone)

/-- The queue that a CREATE_QUEUE of function `f` asks for. -/
def newQueue (q : Req) (num : Nat) : Queue :=
  let completion := q.b 8 1 == 1
  let mode := q.b 14 1
  { fn := q.fn.toNat, completion, num, log := q.b 9 1, dual := !completion && bit mode 0, requeue := !completion && bit mode 1
    degrade := !completion && bit mode 2, ie := completion && bit mode 0, vec := BitVec.ofNat 6 (q.b 15 1), cq := q.b 10 2
    quota := q.b 12 1, weight := q.b 13 1, base := BitVec.ofNat 64 (q.b 16 8), record := BitVec.ofNat 64 (q.b 24 8) }

/-- A created queue of a function that has not been destroyed. -/
def State.hasQueue (s : State) (f : Nat) (completion : Bool) (n : Nat) : Bool :=
  (s.queue? (queueKey f completion n)).any (fun x => !x.destroyed)

/-- CREATE_QUEUE's parameters. -/
def State.queueParams (s : State) (q : Req) : Bool :=
  let f := q.fn.toNat
  let mode := q.b 14 1
  let x := s.part f
  let common := decide (q.b 8 1 ≤ 1) && decide (1 ≤ q.b 9 1 ∧ q.b 9 1 ≤ 16) && q.b 24 8 % 16 == 0
  if q.b 8 1 = 1 then common && decide (mode ≤ 1) && decide (q.b 15 1 ≤ 63) && q.b 16 8 % 32 == 0
  else common && s.hasQueue f true (q.b 10 2) && decide (1 ≤ q.b 12 1 ∧ q.b 12 1 ≤ max x.qA x.qB) &&
    decide (1 ≤ q.b 13 1 ∧ q.b 13 1 ≤ 64) && decide (mode ≤ 7) && !(bit mode 2 && !bit mode 0) && q.b 16 8 % 64 == 0

/-- CREATE_QUEUE. -/
def execCreateQueue (q : Req) (s : State) : Answer :=
  let f := q.fn.toNat
  let completion := q.b 8 1 == 1
  s.command q (cmdCreateQueue completion) { params := s.queueParams q } (fun s =>
    match s.freeNumber f completion with
    | some n =>
      if 1024 ≤ s.poolUsed completion then s.fails .noResource
      else (s.setQueue (queueKey f completion n) (newQueue q n)).succeeds (le 2 n)
    | none => s.fails .noResource)

def cmdDestroyQueue : Cmd :=
  { code := 0x0302, roles := [.host], zero := false, states := statesFOM, cellJob := false, bytes := [(8, 1), (10, 2)] }

/-- A submission queue is destroyed (R87): the open chain and what was not admitted end, admitted jobs run on. -/
def State.destroySq (s : State) (f n : Nat) : State :=
  match s.queue? (queueKey f false n) with
  | none => s
  | some x =>
    let s := s.setQueue (queueKey f false n) { x with destroyed := true }
    let s := (s.endChain x false).fetchDrop (fun g q => g == f && q == n)
    let js := (s.jobs.filter (fun p => p.2.fn == f && p.2.q == n && !p.2.admitted)).map (fun p => p.1)
    (s.each js (fun s j => s.endUnadmitted j .queueDestroyed s.nextTick)).reap f n

/-- DESTROY_QUEUE. -/
def execDestroyQueue (q : Req) (s : State) : Answer :=
  let f := q.fn.toNat
  let completion := q.b 8 1 == 1
  let n := q.b 10 2
  s.command q cmdDestroyQueue { params := decide (q.b 8 1 ≤ 1) && s.hasQueue f completion n } (fun s =>
    if completion then
      if s.queues.any (fun p => p.2.fn == f && !p.2.completion && p.2.cq == n) then s.fails .notIdle
      else (s.delQueue (queueKey f true n)).succeeds []
    else (s.destroySq f n).fetch.succeeds [])

/-! ### Partitions -/

def cmdSetPartition : Cmd :=
  { code := 0x0303, roles := [.officer], zero := true, states := statesFBOM, cellJob := false, bytes := [(8, 3)] }

/-- SET_PARTITION (R114). The new quotas bind admission from the next boundary, which is the next time it is decided; CREATE_QUEUE's
limit and GET_PARTITION see them at once: the rule leaves that open (log entry 65). -/
def execSetPartition (q : Req) (s : State) : Answer :=
  let p := q.b 8 1
  let ok := decide (1 ≤ p ∧ p ≤ 63) && decide (q.b 9 1 ≤ 128) && decide (q.b 10 1 ≤ 128)
  s.command q cmdSetPartition { params := ok } (fun s =>
    if s.extensionsFull then s.fails .noResource
    else s.storeChanged p (fun x => { x with qA := q.b 9 1, qB := q.b 10 1 }) q.io)

def cmdGetPartition : Cmd :=
  { code := 0x0304, roles := [.host], zero := false, states := everyState, cellJob := false, bytes := [(8, 1)] }

/-- Slots of a cache that a partition's keys use, extensions among them (09 R236, R238). -/
def State.slotsUsed (s : State) (p : Nat) (priv : Bool) : Nat :=
  ((s.heart.slots.filter (fun x => x.2.occupied && !x.2.isExt && x.2.partition == p &&
    decide (privBase ≤ x.1) == priv)).map (fun x => 1 + b2n x.2.extended)).sum

/-- GET_PARTITION's results. -/
def State.partitionBytes (s : State) (p : Nat) : Bytes :=
  let x := s.part p
  le 1 x.qA ++ le 1 x.qB ++ le 2 (s.queues.filter (fun q => q.2.fn == p)).length ++ le 4 (s.slotsUsed p false) ++
    le 4 (s.slotsUsed p true) ++ le 8 x.nextReceipt ++ le 1 x.officers.length ++ le 1 x.mOfficer ++ le 1 x.auditors.length ++
    le 1 x.mAuditor ++ le 1 x.operators.length

/-- GET_PARTITION: a VF's own partition, any on the PF. -/
def execGetPartition (q : Req) (s : State) : Answer :=
  let p := q.b 8 1
  s.command q cmdGetPartition { named := some p, anyOnPf := true, params := decide (p ≤ 63) }
    (fun s => s.succeeds (s.partitionBytes p))

/-! ### The tick and the cells -/

def cmdSetTick : Cmd :=
  { code := 0x0401, roles := [.operator], zero := true, states := statesFOM, cellJob := false, bytes := [(8, 2)] }

/-- SET_TICK: the changeover is the next boundary that opens a multiple of 10,000 (02 R39). -/
def execSetTick (q : Req) (s : State) : Answer :=
  let p := q.b 8 2
  s.command q cmdSetTick { params := decide (50 ≤ p ∧ p ≤ 400) && p % 10 == 0 } (fun s =>
    let c := (s.nextTick + 9999) / 10000 * 10000
    ({ s with sched := { s.sched with pend := some (p, c) } }).succeeds (le 6 c))

/-- The cells of a 256-bit mask. -/
def maskCells (mask : Bytes) : List Nat := allCells.filter (fun c => bit (num mask) c)

/-- A cell is drained, is being drained, or will be at a boundary to come. -/
def State.goingDrained (s : State) (c : Nat) : Bool :=
  let x := s.cell c
  [CellSt.drained, .draining].contains x.st || x.markedDrained || s.sched.drains.any (fun d => d.2.2.contains c)

/-- Cells that a drain of `cells` would leave neither drained nor FAILED in groves that are not lost (06 R163). -/
def State.leftBy (s : State) (cells : List Nat) : Nat :=
  (allCells.filter (fun c =>
    !(s.grove (groveOf c)).lost && !s.goingDrained c && (s.cell c).st != .failed && !cells.contains c)).length

/-- DRAIN_CELLS' row for one mode. -/
def cmdDrainCells : Cmd :=
  { code := 0x0402, roles := [.operator], zero := true, states := statesFOM, cellJob := false, bytes := [(8, 1), (16, 32)] }

/-- DRAIN_CELLS in a mode (06 R163, R164): fenced and tested cells are marked at once, the others change at boundary B. -/
def State.drainCells (s : State) (q : Req) (evict : Bool) : Answer :=
  let cells := maskCells (q.str 16 32)
  let ok := q.b 8 1 == b2n evict && decide (8 ≤ s.leftBy cells)
  s.command q cmdDrainCells { params := ok } (fun s =>
    let newly := cells.filter (fun c => !s.goingDrained c && (s.cell c).st != .failed)
    let b := s.tickAt (s.clock.cd18 + 50)
    let s := s.each cells (fun s c =>
      if [CellSt.fenced, .selftest].contains (s.cell c).st then s.modCell c (fun x => { x with markedDrained := true }) else s)
    ({ s with sched := { s.sched with drains := s.sched.drains ++ [(b, evict, cells)] } }).succeeds (le 6 b ++ le 2 newly.length))

/-- DRAIN_CELLS: FINISH lets a resident long job run to its end. -/
def execDrainCellsFinish (q : Req) (s : State) : Answer := s.drainCells q false
/-- DRAIN_CELLS: EVICT stops it at the last budget end before the boundary. -/
def execDrainCellsEvict (q : Req) (s : State) : Answer := s.drainCells q true

def cmdRestoreCells : Cmd :=
  { code := 0x0403, roles := [.operator], zero := true, states := statesFOM, cellJob := false, bytes := [(16, 32)] }

/-- RESTORE_CELLS for the cells of one grove; those named while it is powering up take plans 3 ms after this command (06 R166, R168). -/
def State.restoreGrove (s : State) (g : Bool) (cells : List Nat) : State :=
  if s.groveServes g then s.each cells (fun s c => s.startTest c true)
  else match (s.grove g).rising with
    | some old => s.modGrove g (fun y => { y with rising := some (cells.foldl (fun t c => tblSet t c s.clock.cd18) old) })
    | none => s.raiseGrove g cells

/-- RESTORE_CELLS: the answer waits for a grove that is powered up. When no named cell is DRAINED or FAILED no boundary is
stated, and the tick reported is free (log entry 3). -/
def execRestoreCells (q : Req) (s : State) : Answer :=
  match s.precheck q cmdRestoreCells {} with
  | .error a => a
  | .ok s =>
    let cells := (maskCells (q.str 16 32)).filter (fun c => [CellSt.drained, .failed].contains (s.cell c).st)
    let of (g : Bool) : List Nat := cells.filter (fun c => groveOf c == g)
    let groves := [false, true].filter (fun g => of g != [])
    let ups := groves.filter (fun g => !s.groveServes g)
    let near := if groves.any (fun g => s.groveServes g) then s.tickAt (s.clock.cd18 + 1000) else 0
    let tick := if ups = [] then near else max near (s.tickAt (s.clock.cd18 + 3 * 25000))
    let s := (s.each groves (fun s g => s.restoreGrove g (of g))).touchSession q
    let wait := ups.filter (fun g => (s.grove g).rising.isSome)
    let failed := wait.length != ups.length
    if wait != [] then
      .next { s with trunk := { s.trunk with restores := s.trunk.restores ++ [{ req := q, tick, groves := wait, failed }] } }
    else if failed then .next (s.respond q 0x0403 .cellFault [])
    else if cells = [] then .next (s.drawn.respond q 0x0403 .ok (s.freeBytes 6))
    else .next (s.respond q 0x0403 .ok (le 6 tick))

/-! ### Power -/

def cmdSetPowerCap : Cmd :=
  { code := 0x0404, roles := [.operator], zero := true, states := statesFOM, cellJob := false, bytes := [(8, 1)] }

/-- SET_POWER_CAP: 0 for none, or 10 to 30 W. -/
def execSetPowerCap (q : Req) (s : State) : Answer :=
  let w := q.b 8 1
  s.command q cmdSetPowerCap { params := w == 0 || decide (10 ≤ w ∧ w ≤ 30) } (fun s =>
    ({ s with
      sched := { s.sched with cap := w }
      trunk := { s.trunk with power := if w = 0 then .full else .capped } }).succeeds [])

def cmdEnterDormant : Cmd :=
  { code := 0x0405, roles := [.operator], zero := true, states := statesFBOM, cellJob := false, bytes := [] }

/-- Whether anything but this command is at work, root signatures among it (R115, 01 R27, 18 R456). -/
def State.busyBeside (s : State) (q : Req) : Bool :=
  let mine (f m : Nat) : Bool := q.fn.toNat == f && (match q.via with
    | .mailbox x => x.toNat == m
    | .admin _ _ => false)
  s.jobs != [] || s.internalJobs != 0 || s.queues.any (fun p => p.2.waiting != [] || p.2.chain != []) ||
    s.fns.any (fun p => p.2.adm.waiting != [] || p.2.mbox.any (fun b => b.2.state == .busy && !mine p.1 b.1)) ||
    s.inExecution != [] || s.sessions.any (fun p => !p.2.isOpen) || s.seed.mode != .normal

/-- The slots lose their supply; an SD card that stays is identified again (17 R428, R452). -/
def State.slotsDown (s : State) : State :=
  let s := if s.sdPresent then { s with sd := { st := .identifying, journal := s.sd.journal } }.emit .sdPowerDown else s
  if s.icc.active then { s with icc := { s.icc with active := false } }.emit .iccPowerDown else s

/-- R457: the open record is committed, both groves are wiped and gated, the tick stops, the trunk's clocks are gated. -/
def State.sleep (s : State) : State :=
  let s := s.commitOpen 0
  let s := s.each [false, true] (fun s g =>
    let s := s.clearCells g (fun y => y.st)
    (s.wipeGrove g).modGrove g (fun y => { y with powered := false, linkUp := false, rising := none }))
  let s := s.seedEmpty.slotsDown
  { s with
    seed := { s.seed with source := false, restarting := false }
    rf := { s.rf with field := if s.rf.mode = .watch then s.rf.field else .none }
    elec := { s.elec with lockUntil := none }
    sched := { s.sched with running := false }
    trunk := { s.trunk with power := .dormant, waking := false } }

/-- ENTER_DORMANT: the response is written first (R115). -/
def execEnterDormant (q : Req) (s : State) : Answer :=
  match s.precheck q cmdEnterDormant {} with
  | .error a => a
  | .ok s => if s.busyBeside q then .next (s.answer q 0x0405 .notIdle []) else .next (s.answer q 0x0405 .ok []).sleep

end Sys2Proof.Machine
end

