-- ==== Sys2Proof/Machine/Keys.lean ====
section
/-! DEFINITION. Key commands (04 R112, 09 R236, R240 to R247). Key blocks are in KeyForm. -/

namespace Sys2Proof.Machine

/-! ### Wrapping keys (R243, R245, R258) -/

/-- What a wrapping handle names: its key's bytes and algorithm, and whether it is a master key. -/
structure Wrap where
  key : Bytes
  alg : Nat
  forms : Bool
  master : Bool
  deriving DecidableEq, Repr

/-- Orders 4 to 6 for a wrapping handle; `modes` are the modes of use that serve. The active master key serves as a K1 key (R258). -/
def State.wrapKey (s : State) (h : Handle) (modes : List Nat) : Except Status Wrap :=
  match s.findNamed h with
  | .error e => .error e
  | .ok (.master i) =>
    let m := s.master (handlePart h) i
    if m.st = .active then .ok { key := m.key, alg := 3, forms := false, master := true } else .error .keyUsage
  | .ok (.slot n) =>
    let x := s.slot n
    if x.code = 5 ∧ modes.contains x.mode ∧ (isAes x.alg ∨ isTdes x.alg) ∧ (x.expiry = 0 ∨ s.sched.tick ≤ x.expiry) then
      .ok { key := x.key, alg := x.alg, forms := x.forms, master := false }
    else .error .keyUsage

/-- The key that a block carries, with its fixed field where a '11' block gives it, or the status of R243. Byte 35 bit [7] comes
from the block (`KeyBlock.meaning`, log entry 62). -/
def unwrap (w : Wrap) (block : Bytes) : Except Status (Slot × Option Bytes) :=
  match openBlock w.alg w.key block w.forms with
  | none => .error .blockInvalid
  | some b =>
    match b.meaning block with
    | none => .error .blockInvalid
    | some m =>
      if weaker w.alg m.alg then .error .keyUsage
      else .ok ({ key := b.key, alg := m.alg, usage := BitVec.ofNat 16 m.usage, forms := m.forms }, m.fixed)

/-! ### Installing (R236, R247, R254) -/

/-- What is to be installed, and where. -/
structure Install where
  key : Slot
  /-- The fixed field that a block gave; a symmetric key without one draws it (R237). -/
  fixed : Option Bytes := none
  deriving DecidableEq, Repr

/-- The key goes into its slot and the journal; the answer is its handle, then `more`. -/
def State.installKey (s : State) (p t : Nat) (i : Install) (ok : Bool) (more : Bytes) (send : State → State) : Ran :=
  let priv := isPriv i.key.alg
  match s.target t priv (!priv && decide (32 < i.key.key.length)) with
  | .error e => s.fails e
  | .ok n =>
    let drawn := if priv then some (s, []) else match i.fixed with
      | some f => some (s, f)
      | none => s.trunkDraw 4
    match drawn with
    | none => s.fails .randomUnavailable
    | some (s, f) =>
      let x := { i.key with partition := p, fixed := BitVec.ofNat 32 (num f) }
      let s := s.install n x ok
      let s := ((send s).commitItem (.slot n (s.slot n)) ok).announce n
      (s, commitStatus ok, le 4 (mkHandle p n (s.slot n).gen).toNat ++ more)

/-- What every command that installs a key requires (16 R417, R422, R247). -/
def State.mayInstall (s : State) (p : Nat) : Option Status :=
  if s.keyReadOnly then some .keyReadOnlyTwin
  else if (s.activeMaster p).isNone then some .keyNotFound
  else none

/-- A usage limit of TK-48 mode (08 R213); in native mode its bytes are reserved. -/
def limitOk (mode limit : Nat) : Bool := if mode = 1 then decide (1 ≤ limit ∧ limit < 2 ^ 63) else mode == 0 && limit == 0

/-- A target slot number that some cache has, or any free slot (R236; R103 order 8). -/
def targetOk (t : Nat) : Bool := t == 0xFFFFFFFF || decide (t < 0x12000)

/-! ### KEY_IMPORT -/

def cmdKeyImport : Cmd :=
  { code := 0x0501, roles := [.operator], zero := false, states := statesFOM, cellJob := true
    bytes := [(8, 8), (16, 13), (32, 8)] }

/-- KEY_IMPORT. -/
def execKeyImport (q : Req) (s : State) : Answer :=
  let w : Handle := BitVec.ofNat 32 (q.b 8 4)
  let p := s.ownPart q
  let mode := q.b 28 1
  let limit := q.b 32 8
  let n := q.b 24 4
  let c : Checks := { named := some (handlePart w), params := limitOk mode limit && targetOk (q.b 12 4), lengths := decide (1 ≤ n ∧ n ≤ 8192) }
  s.command q cmdKeyImport c (fun s =>
    let s := s.emit (.hostRead q.fn.toNat (q.b 16 8) n)
    match q.io.object with
    | none => s.fails .malformedEntry
    | some block =>
      match s.mayInstall p with
      | some st => s.fails st
      | none =>
        match s.wrapKey w [1, 3] with
        | .error e => s.fails e
        | .ok wk =>
          match unwrap wk (padTo n block) with
          | .error e => s.fails e
          | .ok (x, fixed) => s.installKey p (q.b 12 4) { key := { x with tk48 := mode == 1, limit }, fixed } q.io.flashOk [] id)

/-! ### KEY_GENERATE (R244) -/

def cmdKeyGenerate : Cmd :=
  { code := 0x0502, roles := [.operator], zero := false, states := statesFOM, cellJob := true
    bytes := [(8, 10), (24, 14), (40, 12)] }

/-- The length of a generated HMAC or KMAC key from byte 17; 0 stands for 32. -/
def generatedLen (alg b17 : Nat) : Option Nat :=
  if alg = 8 ∨ alg = 9 then (if b17 = 0 then some 32 else if 16 ≤ b17 ∧ b17 ≤ 64 then some b17 else none)
  else if b17 = 0 then some 32
  else none

/-- New key bytes: from the trunk's generator, or for RSA a prime pair out of the pool. -/
def State.newKey (s : State) (alg n : Nat) : Except Status (State × Bytes) :=
  if 0x20 ≤ alg ∧ alg ≤ 0x22 then
    match (tblGet s.heart.primes (alg - 0x20)).getD [] with
    | [] => .error .noResource
    | pair :: rest => .ok ({ s with heart := { s.heart with primes := tblSet s.heart.primes (alg - 0x20) rest } }, pair)
  else
    match s.trunkDraw (drawLen alg n) with
    | none => .error .randomUnavailable
    | some (s, r) => .ok (s, keyFrom alg n r)

/-- The slot that a request names suits the key: it exists and is of the key's cache (R103 order 8, R234). -/
def State.slotFits (s : State) (t : Nat) (priv pair : Bool) : Bool :=
  match s.target t priv pair with
  | .error .badParameter => false
  | _ => true

/-- KEY_GENERATE. -/
def execKeyGenerate (q : Req) (s : State) : Answer :=
  let alg := q.b 8 2
  let usage := q.b 10 2
  let mode := q.b 16 1
  let limit := q.b 24 8
  let p := s.ownPart q
  let len := keyLen alg ((generatedLen alg (q.b 17 1)).getD 32)
  let pair := isSym alg && decide (32 < len)
  let ok := (isSym alg || isPriv alg) && usageOk usage && limitOk mode limit && (generatedLen alg (q.b 17 1)).isSome &&
    s.slotFits (q.b 12 4) (isPriv alg) pair
  s.command q cmdKeyGenerate { params := ok } (fun s =>
    let pub := if isPriv alg then publicLen alg else 0
    match s.mayInstall p with
    | some st => s.fails st
    | none =>
      if s.seed.mode = .raw then s.fails .randomUnavailable
      else if q.b 48 4 < pub then s.fails .badLength
      else
        match s.target (q.b 12 4) (isPriv alg) pair with
        | .error e => s.fails e
        | .ok _ =>
          match s.newKey alg len with
          | .error e => s.fails e
          | .ok (s, key) =>
            let x : Slot := { key, alg, usage := BitVec.ofNat 16 usage, tk48 := mode == 1, limit, expiry := q.b 32 6 }
            let send (s : State) : State :=
              if pub = 0 then s else s.emit (.hostWrite q.fn.toNat (q.b 40 8) (publicOf alg key))
            s.installKey p (q.b 12 4) { key := x } q.io.flashOk (le 4 pub) send)

/-! ### KEY_EXPORT (R245) -/

def cmdKeyExport : Cmd :=
  { code := 0x0503, roles := [.operator], zero := false, states := statesOM, cellJob := false, bytes := [(8, 20)] }

/-- Whether a key may leave under a wrapping key. -/
def mayExport (x : Slot) (w : Wrap) : Bool :=
  x.exportable != 0 && !(x.exportable == 2 && !w.master) && !weaker w.alg x.alg

/-- KEY_EXPORT. -/
def execKeyExport (q : Req) (s : State) : Answer :=
  let h : Handle := BitVec.ofNat 32 (q.b 8 4)
  let w : Handle := BitVec.ofNat 32 (q.b 12 4)
  let named := if handlePart h = s.ownPart q then handlePart w else handlePart h
  s.command q cmdKeyExport { named := some named } (fun s =>
    match s.findNamed h, s.wrapKey w [0, 1, 4] with
    | .error e, _ => s.fails e
    | .ok (.master _), _ => s.fails .keyUsage
    | .ok (.slot _), .error e => s.fails e
    | .ok (.slot n), .ok wk =>
      if !mayExport (s.slot n) wk then s.fails .keyUsage
      else
        let block := wrapBlock (s.slot n).keyBlock wk.alg wk.key (s.freeBytes 16)
        if q.b 24 4 < block.length then s.fails .badLength
        else (s.drawn.emit (.hostWrite q.fn.toNat (q.b 16 8) block)).succeeds (le 4 block.length))

/-! ### KEY_DELETE and KEY_INFO (R237, R246) -/

def cmdKeyDelete : Cmd :=
  { code := 0x0504, roles := [.operator], zero := false, states := statesFOM, cellJob := false, bytes := [(8, 4)] }

/-- KEY_DELETE. -/
def execKeyDelete (q : Req) (s : State) : Answer :=
  let h : Handle := BitVec.ofNat 32 (q.b 8 4)
  s.command q cmdKeyDelete { named := some (handlePart h) } (fun s =>
    if s.keyReadOnly then s.fails .keyReadOnlyTwin
    else
      match s.findNamed h with
      | .error e => s.fails e
      | .ok (.master _) => s.fails .keyUsage
      | .ok (.slot n) =>
          let s := (s.emptySlot n).commitItem (.emptied n (s.slot n).gen (s.slot n).partition) q.io.flashOk
          (s, commitStatus q.io.flashOk, []))

def cmdKeyInfo : Cmd :=
  { code := 0x0505, roles := [.host], zero := false, states := statesOM, cellJob := false, bytes := [(8, 4)] }

/-- The counter that KEY_INFO reports: the last value issued, or the uses that the module may still charge (08 R213, 16 R420);
all ones for a draw-locked key (R262). -/
def State.infoCounter (s : State) (n : Nat) : Nat :=
  let x := s.slot n
  if x.drawLocked then 2 ^ 63 - 1
  else if x.tk48 then (match tblGet s.twin.ranges n with
    | some _ => s.mayCharge n x
    | none => x.limit - x.counter)
  else x.counter

/-- KEY_INFO's results. -/
def State.keyInfoBytes (s : State) (n : Nat) : Bytes :=
  let x := s.slot n
  le 2 x.alg ++ le 2 x.usage.toNat ++ le 1 (b2n x.tk48) ++ le 1 (b2n x.persistent + 2 * b2n x.unreplicated) ++ le 2 0 ++
    le 8 (s.infoCounter n) ++ le 6 x.expiry

/-- KEY_INFO. A master-key handle reports algorithm 0x50, usage K1 with mode B (R240, R258). -/
def execKeyInfo (q : Req) (s : State) : Answer :=
  let h : Handle := BitVec.ofNat 32 (q.b 8 4)
  s.command q cmdKeyInfo { named := some (handlePart h) } (fun s =>
    match s.findNamed h with
    | .error e => s.fails e
    | .ok (.master _) => s.succeeds (le 2 0x50 ++ le 2 0x0105 ++ le 1 0 ++ le 1 1)
    | .ok (.slot n) => s.succeeds (s.keyInfoBytes n))

end Sys2Proof.Machine
end

