-- ==== Sys2Proof/Machine/Volume.lean ====
section
/-! DEFINITION. The SD volume (17 R430 to R436): headers, segments, objects, and how a write or read ends when the card is
removed or a transfer fails. -/

namespace Sys2Proof.Machine

/-- What a command finds in the SD slot (04 R118, 17 R425). -/
def State.sdGate (s : State) (writes : Bool) : Option Status :=
  match s.sd.st with
  | .ready => if writes && s.sd.readOnly then some .mediaReadOnly else none
  | .failed => some .mediaError
  | _ => some .noMedia

/-- The volume header (R430). -/
def Sd.header (x : Sd) : Bytes :=
  let h := le 4 0x4B5A564C ++ le 2 1 ++ le 2 0 ++ padTo 16 (x.volume.getD []) ++ le 8 x.nextBlock ++ le 8 x.lastSeq ++
    le 8 x.capacity
  padTo 512 (h ++ sha384 h)

/-- Copy 0 and then copy 1 of the header are written. -/
def State.writeHeader (s : State) : State := (s.emit (.sdWrite 0 s.sd.header)).emit (.sdWrite 1 s.sd.header)

/-- The slot is empty: its record, and the power-down of R429 (R435, R451). -/
def State.sdGone (s : State) (phase code : Nat) : State :=
  let s := s.logEvent 0x0A02 0 0 0xFF (le 1 phase ++ le 4 code)
  { s with sd := { journal := s.sd.journal } }.emit .sdPowerDown

/-- The slot is powered down and stays so until its switch has opened and closed again (R429, R440). -/
def State.releaseSd (s : State) : State := { s with sd := { st := .released, journal := s.sd.journal } }.emit .sdPowerDown

/-- One object on its way to the card. -/
structure Writing where
  kind : Nat
  partition : Nat
  object : Bytes
  payload : Bytes
  deriving DecidableEq, Repr

/-- Payload bytes of a segment at most (R431). -/
def segmentMax : Nat := 2 ^ 20

def Writing.segments (w : Writing) : Nat := max 1 ((w.payload.length + segmentMax - 1) / segmentMax)

/-- The payload of segment `i`. -/
def Writing.part (w : Writing) (i : Nat) : Bytes := (w.payload.drop (i * segmentMax)).take segmentMax

/-- Blocks of segment `i`: header, payload, commit. -/
def Writing.blocks (w : Writing) (i : Nat) : Nat := 2 + max 1 (((w.part i).length + 511) / 512)

/-- A segment's header block (R431); `chain` is the chain of the previous one. -/
def Writing.header (w : Writing) (i seq : Nat) (chain : Bytes) : Bytes :=
  le 4 0x4B5A5347 ++ le 1 w.kind ++ le 1 (b2n (i == 0) + 2 * b2n (i + 1 == w.segments)) ++ le 2 0 ++ padTo 16 w.object ++
    le 8 seq ++ le 4 i ++ le 4 (w.part i).length ++ le 8 Config.serial.toNat ++ le 1 w.partition ++ le 7 0 ++ padTo 48 chain

/-- K_A of an object under a master key, and the IV of a segment (R432). -/
def archiveKey (master object : Bytes) : Bytes := kmac256 master (padTo 16 object) (asciiOf "KZ-ARCH") 32
def segmentIv (i : Nat) : Bytes := be 4 i ++ le 8 0

/-- The chain of a segment: over the previous chain, header bytes 0 to 103 and the payload blocks as stored (R431). -/
def segmentChain (prev header blocks : Bytes) : Bytes := sha384 (padTo 48 prev ++ header ++ blocks)

/-- The key of a partition's active master slot. -/
def State.masterKey (s : State) (p : Nat) : Bytes := ((s.activeMaster p).map (fun m => (s.master p m).key)).getD []

/-- Segment `i` as it goes to the card, with its chain: kind 1 encrypted with its tag, kind 2's LAST signed (R432). -/
def State.segment (s : State) (w : Writing) (i seq : Nat) (chain : Bytes) : State × Bytes × Bytes :=
  let h := w.header i seq chain
  let k := archiveKey (s.masterKey w.partition) w.object
  let stored := if w.kind = 1 then gcmCrypt k (segmentIv i) (w.part i) else w.part i
  let padded := padTo (512 * (w.blocks i - 2)) stored
  let c := segmentChain chain h padded
  let tag := if w.kind = 1 then gcmTag k (segmentIv i) h stored 16 else le 16 0
  let signs := w.kind == 2 && i + 1 == w.segments && s.attestKey
  let (s, sig) := if signs then s.p384Signature (s.slot attestSlot).key c else (s, le 96 0)
  (s, padTo 512 h ++ padded ++ padTo 512 (le 4 0x4B5A434D ++ le 1 (b2n signs) ++ le 3 0 ++ le 8 seq ++ c ++ tag ++ sig), c)

/-- Segment `i` is confirmed: the write position moves on, and with the LAST one the header (R430), unless the slot is released (R429). -/
def State.writeSegment (s : State) (w : Writing) (i : Nat) (chain : Bytes) (released : Bool) : State × Bytes :=
  let (s, data, c) := s.segment w i s.sd.writeSeq chain
  let s := s.emit (.sdWrite s.sd.writeBlock data)
  let seq := s.sd.writeSeq
  let next := s.sd.writeBlock + w.blocks i
  let s := { s with sd := { s.sd with writeBlock := next, writeSeq := seq + 1 } }
  if i + 1 = w.segments ∧ !released then ({ s with sd := { s.sd with nextBlock := next, lastSeq := seq } }.writeHeader, c) else (s, c)

/-- Segments `i` on, `n` of them, while there is room: the state and how many were not written. -/
def State.writeSegments (released : Bool) : Nat → State → Writing → Nat → Bytes → State × Nat
  | 0, s, _, _, _ => (s, 0)
  | n + 1, s, w, i, chain =>
    if s.sd.capacity < s.sd.writeBlock + w.blocks i then (s, n + 1)
    else
      let (s, c) := s.writeSegment w i chain released
      State.writeSegments released n s w (i + 1) c

/-- The 16 entries of the media journal; a seventeenth drops the oldest (R436). -/
def State.journalAdd (s : State) (object : Bytes) : State :=
  let x := s.sd
  let e : MediaJ := { volume := x.volume.getD [], seq := x.writeSeq, block := x.writeBlock, object }
  let j := x.journal ++ [e]
  let j := j.drop (j.length - 16)
  { s with sd := { x with journal := j } }.storeAdd (.media j)

/-- What a command that writes an object needs before its first segment: a ready card with a header, and an identifier. -/
def State.openObject (s : State) (kind partition : Nat) (payload : Bytes) : Except (State × Status) (State × Writing) :=
  match s.sdGate true, s.sd.volume with
  | some st, _ => .error (s, st)
  | none, none => .error (s, .blockInvalid)
  | none, some _ =>
    match s.trunkDraw 16 with
    | none => .error (s, .randomUnavailable)
    | some (s, object) => .ok (s, { kind, partition, object, payload })

/-- Write an object as segments; how it ends is the environment's (R427, R428, R435). `code` is the command's. -/
def State.writeObject (s : State) (kind partition : Nat) (payload : Bytes) (io : Io) (code : Nat) : State × Status :=
  match s.openObject kind partition payload with
  | .error e => e
  | .ok (s, w) =>
    let all := w.segments
    let k := match io.sd with
      | .done => all
      | .removedBetween => min (max 1 io.segments) (all - 1)
      | .released => min (max 1 io.segments) all
      | _ => min io.segments (all - 1)
    let (s, left) := State.writeSegments (io.sd == .released) k s w 0 []
    if left ≠ 0 then (s, .noResource)
    else match io.sd with
      | .done => (s, .ok)
      | .removedInBlocks => (s.sdGone 2 code, .mediaRemoved)
      | .removedInBusy => ((s.journalAdd w.object).sdGone 3 code, .commitUnknown)
      | .removedBetween => (s.sdGone 4 code, .mediaRemoved)
      | .released => (s.releaseSd, .mediaRemoved)
      | .transferFailed => (s, .mediaError)

/-- A write that an event ends at a segment boundary: its object stays open (R452). -/
def State.writeCut (s : State) (kind partition : Nat) (payload : Bytes) (io : Io) : State :=
  match s.openObject kind partition payload with
  | .error _ => s
  | .ok (s, w) => (State.writeSegments false (min io.segments (w.segments - 1)) s w 0 []).1

/-- A segment as it is read: header bytes 0 to 103, the payload as stored, and its tag. -/
structure Segment where
  header : Bytes
  stored : Bytes
  tag : Bytes
  deriving DecidableEq, Repr

/-- The first segment of these blocks is valid, apart from its tag or signature: magics, length, sequences and chain (R431). -/
def segmentHeld (bs : Bytes) : Bool :=
  let h := bs.take 104
  let n := field h 36 4
  let len := 512 * ((n + 511) / 512)
  let commit := piece bs (512 + len) 512
  field h 0 4 == 0x4B5A5347 && n != 0 && decide (n ≤ segmentMax) && decide (1024 + len ≤ bs.length) &&
    field commit 0 4 == 0x4B5A434D && field commit 8 8 == field h 24 8 &&
    piece commit 16 48 == segmentChain (piece h 56 48) h (piece bs 512 len)

/-- The segments of a complete object from its blocks (R431, R433): valid, consecutive in sequence, numbered from index `i`,
chained, and the last one LAST. -/
def readSegments (kind : Nat) : Nat → Nat → Bytes → Option Nat → Bytes → Option (List Segment)
  | 0, _, _, _, _ => none
  | fuel + 1, i, prev, seq, bs =>
    let h := bs.take 104
    let n := field h 36 4
    let len := 512 * ((n + 511) / 512)
    let padded := piece bs 512 len
    let commit := piece bs (512 + len) 512
    let this := field h 24 8
    let ok := segmentHeld bs && field h 4 1 == kind && bit (field h 5 1) 0 == (i == 0) && seq.all (fun q => this == q + 1) &&
      field h 32 4 == i && padTo 48 prev == piece h 56 48
    let seg : Segment := { header := h, stored := padded.take n, tag := piece commit 64 16 }
    let rest := bs.drop (1024 + len)
    if !ok then none
    else if bit (field h 5 1) 1 then (if rest = [] then some [seg] else none)
    else (readSegments kind fuel (i + 1) (piece commit 16 48) (some this) rest).map (fun l => seg :: l)

/-- The segments of an object's blocks. -/
def segmentsOf (kind : Nat) (bs : Bytes) : Option (List Segment) :=
  match readSegments kind (bs.length / 1536 + 1) 0 [] none bs with
  | some l => if l.all (fun x => piece x.header 8 16 == piece (l.headD x).header 8 16) then some l else none
  | none => none

/-- The contents of an archive of a partition under its active master key: every tag verifies (R432). -/
def archivePlain (master : Bytes) (p : Nat) (l : List Segment) : Option Bytes :=
  let key := archiveKey master (piece (l.headD { header := [], stored := [], tag := [] }).header 8 16)
  let opened (x : Segment) : Bool := field x.header 48 1 == p &&
    gcmTag key (segmentIv (field x.header 32 4)) x.header x.stored 16 == x.tag
  if l.all opened then some (l.flatMap (fun x => gcmCrypt key (segmentIv (field x.header 32 4)) x.stored)) else none

/-- Read an object's blocks from the card: its segments, or how the read ended (R433, R435). The object is `none` when the volume has
no complete one that the command asks for. -/
def State.readObject (s : State) (kind : Nat) (io : Io) (code : Nat) : State × Except Status (List Segment) :=
  match s.sdGate false, s.sd.volume with
  | some st, _ => (s, .error st)
  | none, none => (s, .error .blockInvalid)
  | none, some _ =>
    match io.sd with
    | .done => (s, match io.object.bind (segmentsOf kind) with
      | some l => .ok l
      | none => .error .blockInvalid)
    | .transferFailed => (s, .error .mediaError)
    | .released => (s.releaseSd, .error .mediaRemoved)
    | _ => (s.sdGone 1 code, .error .mediaRemoved)

/-! ### The volume of an inserted card (R430, R434, R436) -/

/-- A copy of the volume header is valid: its magic and check verify. -/
def headerOk (h : Bytes) : Bool := field h 0 4 == 0x4B5A564C && piece h 48 48 == sha384 (padTo 48 (h.take 48))

/-- The valid copy with the higher last sequence. -/
def headerOf (copy0 copy1 : Bytes) : Option Bytes :=
  match headerOk copy0, headerOk copy1 with
  | true, true => some (if field copy0 32 8 < field copy1 32 8 then copy1 else copy0)
  | true, false => some copy0
  | false, true => some copy1
  | false, false => none

/-- Blocks of a segment by its header block. -/
def segmentBlocks (h : Bytes) : Nat := 2 + (field h 36 4 + 511) / 512

/-- The scan over header and commit blocks from a block and a last sequence: the write position and the sequence of the last valid
segment. Payload blocks are not read, so that a chain is followed from block to block only (R434, DEDUCED, log entry 72). -/
def scanSegments : List (Bytes × Bytes) → Nat → Nat → Bytes → Nat × Nat
  | [], block, seq, _ => (block, seq)
  | (h, c) :: rest, block, seq, chain =>
    let first := bit (field h 5 1) 0
    let ok := field h 0 4 == 0x4B5A5347 && field c 0 4 == 0x4B5A434D && field h 24 8 == seq + 1 && field c 8 8 == seq + 1 &&
      field h 36 4 != 0 && decide (field h 36 4 ≤ segmentMax) && piece h 56 48 == (if first then le 48 0 else chain)
    if ok then scanSegments rest (block + segmentBlocks h) (seq + 1) (piece c 16 48) else (block, seq)

/-- A segment read back is valid, with its tag under K_A or its signature under the attestation key where its kind has one (R431,
R436). -/
def State.segmentValid (s : State) (bs : Bytes) : Bool :=
  let h := bs.take 104
  let n := field h 36 4
  let stored := piece bs 512 n
  let commit := piece bs (512 + 512 * ((n + 511) / 512)) 512
  let key := archiveKey (s.masterKey (field h 48 1)) (piece h 8 16)
  segmentHeld bs &&
    (field h 4 1 != 1 || gcmTag key (segmentIv (field h 32 4)) h stored 16 == piece commit 64 16) &&
    (field commit 4 1 != 1 || p384Holds (publicOf 0x29 (s.slot attestSlot).key) (piece commit 16 48) (piece commit 80 96))

end Sys2Proof.Machine
end

