-- ==== Sys2Proof/Machine/Ceremony.lean ====
section
/-! DEFINITION. Master keys and their ceremonies (09 R258 to R261), archives (R262). -/

namespace Sys2Proof.Machine

/-! ### Shares (R259) -/

/-- The key check value: the first 4 bytes of AES-CMAC under the master key over 16 zero bytes. -/
def checkValue (key : Bytes) : Bytes := (cmac (aes key) (le 16 0)).take 4

/-- The value at `x` of the polynomial with the given coefficients, the constant first. -/
def gfEval (x : Byte) : Bytes → Byte
  | [] => 0
  | a :: t => a ^^^ gfMul x (gfEval x t)

/-- The share of a key at point `x`: byte i is the value of the polynomial whose constant is key byte i and whose other coefficients are
bytes i, 32 + i, 64 + i and so on of `poly`. -/
def shareAt (key poly : Bytes) (x : Nat) : Bytes :=
  (List.range 32).map (fun i => gfEval (BitVec.ofNat 8 x)
    (key.getD i 0 :: (List.range (poly.length / 32)).map (fun d => poly.getD (32 * d + i) 0)))

/-- The factor of the share at `x` in the interpolation at 0 through the points `xs`. -/
def shareWeight (xs : Bytes) (x : Byte) : Byte :=
  (xs.filter (fun y => y != x)).foldl (fun acc y => gfMul acc (gfMul y (gfInv (x ^^^ y)))) 1

/-- The key that shares at different points give. -/
def shareJoin (shares : List (Nat × Bytes)) : Bytes :=
  let xs := shares.map (fun p => BitVec.ofNat 8 p.1)
  (List.range 32).map (fun i => shares.foldl (fun acc p =>
    acc ^^^ gfMul (p.2.getD i 0) (shareWeight xs (BitVec.ofNat 8 p.1))) 0)

/-- The 64-byte share record of point `x`; the threshold M is one more than the polynomials' degree. -/
def shareRecord (p slot n x gen : Nat) (key poly : Bytes) : Bytes :=
  padTo 64 (le 1 1 ++ le 1 p ++ le 1 slot ++ le 1 (poly.length / 32 + 1) ++ le 1 n ++ le 1 x ++ le 2 gen ++
    le 8 Config.serial.toNat ++ checkValue key ++ shareAt key poly x)

/-! ### The card channel (17 R442) -/

/-- The module's ephemeral key of a channel. -/
def State.ephemeral (s : State) : Option (State × Bytes) :=
  (s.trunkDraw (drawLen 0x29 48)).map (fun p => (p.1, keyFrom 0x29 48 p.2))

/-- The channel key: KMAC256 of the shared x-coordinate over both points. -/
def channelKey (own cardPoint : Bytes) : Bytes :=
  match p384.mul (num own) (p384.decode cardPoint) with
  | some (x, _) => kmac256 (be 48 x) (publicOf 0x29 own ++ cardPoint) (asciiOf "KZ-CARD") 32
  | none => []

/-- A share record as PUT SHARE carries it: encrypted, and its tag. -/
def sealShare (key share : Bytes) : Bytes := gcmCrypt key (le 12 0) share ++ gcmTag key (le 12 0) [] (gcmCrypt key (le 12 0) share) 16

/-! ### The card of MASTER_KEY (R260, 17 R442) -/

def cmdMasterKey : Cmd :=
  { code := 0x0506, roles := [.officer], zero := false, states := statesFBOM, cellJob := false, bytes := [(8, 2)] }

/-- The card's certificate is a Security Officer's of the partition. -/
def State.officerCard (s : State) (p : Nat) (a : CardAnswer) : Bool := (s.part p).officers.any (fun c => c.2 == a.cert)

/-- The card's certificate is a Security Officer's of the partition, and its channel stands: the signature over both points verifies
and its point is one of the curve (17 R442). -/
def State.custodian (s : State) (p : Nat) (a : CardAnswer) : Bool :=
  s.officerCard p a && a.channelOk && (p384.decode a.point).isSome

/-- The exchange of operations 0 and 1: the contact slot, or the reader when that slot is empty. `rest` are the commands after OPEN
CHANNEL, from the channel's key. `none` when no carrier can be used; otherwise the state after the exchange and how it ended. -/
def State.ceremonyCard (s : State) (p : Nat) (io : Io) (rest : Bytes → List (Nat × Bytes)) : Option (State × Status) :=
  let reader := !s.iccPresent
  if !s.carrierReady reader then none
  else
    match s.ephemeral with
    | none => some (s, .randomUnavailable)
    | some (s, own) =>
      let outcome := (cardOn reader io.card).outcome
      let good := outcome != .answered || s.custodian p io.card
      let open_ := (0x34, publicOf 0x29 own)
      let s := s.exchange reader io.card [] (if good then open_ :: rest (channelKey own io.card.point) else if s.officerCard p io.card then [open_] else [])
      some (s, if outcome = .answered && !good then .cardRejected else cardStatus outcome)

/-- Master-key slots of a partition are committed in one entry (R254); the first one makes a new image (R264). The journal area takes
no entry before its erase has ended (R255; log entry 68). -/
def State.commitMasters (s : State) (p : Nat) (l : List (Nat × Master)) (ok : Bool) : State × Bool :=
  let ok := ok && !s.heart.erasing
  let s := if ok then s.newImage else s
  let s := s.each l (fun s m => s.setMaster p m.1 m.2)
  (s.commitItems (l.map (fun m => .master (p * 8 + m.1) m.2)) ok, ok)

/-- The same for one slot, with its answer. -/
def State.commitMaster (s : State) (p i : Nat) (m : Master) (ok : Bool) (shares : Nat) : Ran :=
  let (s, ok) := s.commitMasters p [(i, m)] ok
  (s, commitStatus ok, le 1 shares)

/-- What the operations share: role, partition, slot number. A zeroisation in progress answers for every key (R264);
without an image its root key must be drawn (R252). -/
def State.masterCmd (s : State) (q : Req) (op : Nat) (run : State → Nat → Nat → Master → Ran) : Answer :=
  let p := s.ownPart q
  let i := q.b 9 1
  s.command q cmdMasterKey { params := q.b 8 1 == op && decide (i ≤ 7) } (fun s =>
    if s.keyReadOnly then s.fails .keyReadOnlyTwin
    else if !s.heart.serving then s.fails .keyNotFound
    else if s.heart.bbkr.image = [] ∧ (s.trunkDraw (48 + 32 * max 1 (s.part p).mOfficer)).isNone then s.fails .randomUnavailable
    else run s p i (s.master p i))

/-! ### Operation 0: generate and split -/

/-- The slot as the first call leaves it: a drawn key and polynomials of degree M − 1, the next generation, pending for the session. -/
def State.beginMaster (s : State) (p i : Nat) (m : Master) (h : BitVec 32) : Option State :=
  if m.st = .pending then some s
  else (s.trunkDraw (32 * max 1 (s.part p).mOfficer)).map (fun r =>
    r.1.setMaster p i { m with
      st := .pending, key := r.2.take 32, poly := r.2.drop 32, gen := m.gen + 1, written := 0, session := h, shares := [] })

/-- MASTER_KEY operation 0: one share goes to the card present. A slot that is neither empty nor this session's pending one is
refused; a card removed in PUT SHARE leaves its point to the next card (17 R452). -/
def execMasterKeyGenerate (q : Req) (s : State) : Answer :=
  s.masterCmd q 0 (fun s p i m =>
    let n := (s.part p).officers.length
    if !(m.st == .empty || (m.st == .pending && m.session == q.session)) then s.fails .badParameter
    else if m.st = .empty ∧ 511 ≤ m.gen then s.fails .noResource
    else
      let begun := (s.beginMaster p i m q.session).getD s
      let k := begun.master p i
      let x := k.written + 1
      let put (key : Bytes) : List (Nat × Bytes) := [(0x36, sealShare key (shareRecord p i n x k.gen k.key k.poly))]
      if k.st ≠ .pending then s.fails .randomUnavailable
      else
        match begun.ceremonyCard p q.io put with
        | none => s.fails .noMedia
        | some (t, .ok) =>
          if n ≤ x then t.commitMaster p i { k with st := .loaded, written := 0, session := 0, poly := [] } q.io.flashOk x
          else (t.setMaster p i { k with written := x }).succeeds (le 1 x)
        | some (t, .mediaRemoved) => t.fails .mediaRemoved
        | some (t, st) => (t.setMaster p i m).fails st)

/-! ### Operation 1: load -/

/-- Shares read so far that carry the newest one's check value; a point counts once (17 R452). -/
def Master.addShare (m : Master) (x : Nat) (share check : Bytes) : Master :=
  if m.shares.any (fun y => y.1 == x && y.2.drop 32 == check) then m else { m with shares := m.shares ++ [(x, share ++ check)] }

/-- MASTER_KEY operation 1, on an empty slot. -/
def execMasterKeyLoad (q : Req) (s : State) : Answer :=
  s.masterCmd q 1 (fun s p i m =>
    if m.st ≠ .empty then s.fails .badParameter
    else if 511 ≤ m.gen then s.fails .noResource
    else
      match s.ceremonyCard p q.io (fun _ => [(0x38, le 1 p ++ le 1 i)]) with
      | none => s.fails .noMedia
      | some (s, .ok) =>
        let r := padTo 64 q.io.card.share
        if field r 0 1 ≠ 1 ∨ field r 1 1 ≠ p ∨ field r 2 1 ≠ i then s.fails .cardRejected
        else
          let check := piece r 16 4
          let m := if m.session = q.session then m else { m with shares := [], session := q.session }
          let m := m.addShare (field r 5 1) (piece r 20 32) check
          let same := m.shares.filter (fun y => y.2.drop 32 == check)
          if same.length < field r 3 1 then (s.setMaster p i m).succeeds (le 1 same.length)
          else
            let key := shareJoin (same.map (fun y => (y.1, y.2.take 32)))
            let clean := { m with shares := [], session := 0 }
            if checkValue key == check then
              let gen := max (m.gen + 1) (field r 6 2 % 512)
              s.commitMaster p i { clean with st := .loaded, key, gen } q.io.flashOk same.length
            else (s.setMaster p i clean).fails .cardRejected
      | some (s, st) => s.fails st)

/-! ### Operations 2 and 3 (R258, R261) -/

/-- Slots of a partition whose records are persistent. -/
def State.records (s : State) (p : Nat) : List Nat :=
  (s.heart.slots.filter (fun x => x.2.occupied && !x.2.isExt && x.2.persistent && x.2.partition == p)).map (fun x => x.1)

/-- MASTER_KEY operation 2: a loaded slot becomes active, and the records under the previous key are re-wrapped. -/
def execMasterKeyActivate (q : Req) (s : State) : Answer :=
  s.masterCmd q 2 (fun s p i m =>
    if m.st ≠ .loaded then s.fails .badParameter
    else
      let todo := s.records p
      let old := s.activeMaster p
      let kept := match old with
        | some k => [(k, { s.master p k with st := .loaded, depends := todo != [] })]
        | none => []
      let (s, ok) := s.commitMasters p (kept ++ [(i, { m with st := .active, depends := false })]) q.io.flashOk
      let s := if old.isSome ∧ todo ≠ [] then
          { s with heart := { s.heart with rewrap := tblSet s.heart.rewrap p todo } }
        else s
      (s, commitStatus ok, le 1 0))

/-- MASTER_KEY operation 3: a loaded slot is emptied; not the active one, nor one that a record depends on. -/
def execMasterKeyRetire (q : Req) (s : State) : Answer :=
  s.masterCmd q 3 (fun s p i m =>
    if m.st = .active ∨ m.depends then s.fails .notIdle
    else if m.st ≠ .loaded then s.fails .badParameter
    else s.commitMaster p i { gen := m.gen } q.io.flashOk 0)

/-- The records of a partition are all under the active key: the mark says so, and no slot is depended on (R261). -/
def State.rewrapDone (s : State) (p : Nat) : State :=
  let s := (List.range 8).foldl (fun s i => s.setMaster p i { s.master p i with depends := false }) s
  { s with heart := { s.heart with rewrap := tblDel s.heart.rewrap p } }.commitItem (.mark p) true

/-- REWRAP_BATCH: one journal entry with 256 records of a partition under its active key; after the last the mark. -/
def execRewrapBatch (partition : BitVec 6) (s : State) : Answer :=
  let p := partition.toNat
  match tblGet s.heart.rewrap p with
  | none => .next s
  | some todo =>
    if !s.heart.serving then .next s
    else
      let batch := (todo.take 256).filter (fun n => (s.slot n).occupied && (s.slot n).persistent && (s.slot n).partition == p)
      let s := if batch = [] then s else s.commitItems (batch.map (fun n => .slot n (s.slot n))) true
      let s := { s with heart := { s.heart with rewrap := tblSet s.heart.rewrap p (todo.drop 256) } }
      if todo.length ≤ 256 then .next (s.rewrapDone p) else .next s

/-! ### Archives (R262) -/

def cmdArchive : Cmd :=
  { code := 0x0507, roles := [.officer], zero := false, states := [.blank, .operational, .maintenance], cellJob := false
    bytes := [(8, 2)] }

/-- What an archive holds, in order: its head, every persistent record in the form of R253, every ceiling of those records. The
padding of the key blocks is free (log entry 3). -/
def State.archiveBytes (s : State) (p i : Nat) : Bytes :=
  let m := s.master p i
  let bytes (c : Change1) : Bytes := s.heart.itemBytes s.sched.tick (s.freeBytes 16) c
  le 1 p ++ le 8 Config.serial.toNat ++ padTo 16 s.heart.bbkr.image ++ le 6 s.sched.tick ++ le 1 i ++ le 2 m.gen ++
    checkValue m.key ++ (s.records p).flatMap (fun n => bytes (.slot n (s.slot n))) ++
    (s.records p).flatMap (fun n => bytes (.ceiling n (s.slot n).ceiling))

/-- ARCHIVE operation 0. Without an active master key there is none to archive under: KEY_NOT_FOUND (log entry 65). A ZEROIZE-class
response ends it at the next segment boundary (17 R452). -/
def execArchiveBackup (q : Req) (s : State) : Answer :=
  let p := q.b 9 1
  let payload := s.archiveBytes p ((s.activeMaster p).getD 0)
  s.command q cmdArchive { named := some p, params := q.b 8 1 == 0 && decide (p ≤ 63) } (fun s =>
    match s.activeMaster p with
    | none => s.fails .keyNotFound
    | some _ =>
      let (s, st) := s.drawn.writeObject 1 p payload q.io 0x0507
      (s, st, le 8 ({ kind := 1, partition := p, object := [], payload } : Writing).segments))
    (cut := fun s => if (s.activeMaster p).isSome then s.drawn.writeCut 1 p payload q.io else s)

/-- The records and ceilings of an archive's contents; `fuel` bounds their number. -/
def archiveItems (master : Bytes) (now : Nat) : Nat → Bytes → List Change1
  | 0, _ => []
  | fuel + 1, bs =>
    let n := field bs 1 4
    match field bs 0 1 with
    | 1 =>
      let l := field bs 5 2
      let x := Slot.ofBytes (piece bs (7 + l) 35) now
      let key := ((openBlock 3 master (piece bs 7 l) false).map (fun b => b.key)).getD []
      .slot n { x with key } :: archiveItems master now fuel (bs.drop (42 + l))
    | 4 => .ceiling n (field bs 5 8) :: archiveItems master now fuel (bs.drop 13)
    | _ => []

/-- The ceiling that an archive gives for a slot. -/
def ceilingOf (l : List Change1) (n : Nat) : Nat :=
  (l.findSome? (fun i => match i with
    | .ceiling m c => if m = n then some c else none
    | _ => none)).getD 0

/-- A key that GCM or CTR encryption accepts: a restored one is draw-locked. -/
def Slot.encrypts (x : Slot) : Bool := x.code == 0x02 && isAes x.alg && x.mayEncrypt

/-- Install one archived record where its slot is empty, open and at a lower generation; any other is skipped with a record. The block
below the archived ceiling counts as used, so that the next ceiling is committed at once (R250, R262). -/
def State.restoreRecord (s : State) (p n : Nat) (x : Slot) (ceiling : Nat) (ok : Bool) : State :=
  let y := s.slot n
  let room := !(isSym x.alg && decide (32 < x.key.length)) || (s.slot (n + 1)).free
  if decide (n < 0x12000) && n != attestSlot && y.free && decide (y.highest < x.gen) && x.partition == p &&
      (isSym x.alg || isPriv x.alg) && room then
    let locked := x.drawLocked || x.encrypts
    let s := s.setSlot n { y with gen := x.gen - 1, top := x.gen - 1, closed := false }
    let s := s.install n { x with drawLocked := locked } ok
    let s := s.modSlot n (fun z => { z with ceiling := ceiling, counter := ceiling })
    let s := s.commitItem (.slot n (s.slot n)) ok
    (s.commitCeiling n (s.nextCeiling n (s.slot n)) ok).announce n
  else s.logEvent 0x0704 0xFF 0 0xFF (le 4 (mkHandle p n x.gen).toNat)

/-- ARCHIVE operation 1. The archive's contents are what K_A opens (17 R432); the check value must be the active master's. -/
def execArchiveRestore (q : Req) (s : State) : Answer :=
  let p := q.b 9 1
  s.command q cmdArchive { named := some p, params := q.b 8 1 == 1 && decide (p ≤ 63) } (fun s =>
    match s.mayInstall p with
    | some st => s.fails st
    | none =>
      match s.readObject 1 q.io 0x0507 with
      | (s, .error e) => s.fails e
      | (s, .ok segs) =>
        let key := s.masterKey p
        match archivePlain key p segs with
        | none => s.fails .blockInvalid
        | some plain =>
          if field plain 0 1 ≠ p ∨ piece plain 34 4 ≠ checkValue key then s.fails .blockInvalid
          else
            let items := archiveItems key s.sched.tick (plain.length / 13) (plain.drop 38)
            let s := s.each items (fun s i => match i with
              | .slot n x => s.restoreRecord p n x (ceilingOf items n) q.io.flashOk
              | _ => s)
            (s, commitStatus q.io.flashOk, le 8 segs.length))

end Sys2Proof.Machine
end

