-- ==== Sys2Proof/Machine/Records.lean ====
section
/-! DEFINITION. The ring log's commands: reading, streaming, clearing, snapshots and export (15 R397 to R402, 17 R437). -/

namespace Sys2Proof.Machine

/-! ### Held records in write order (R388, R400) -/

/-- Records of the permanent area, then of the circulating area from its oldest slot. -/
def Log.permanent (l : Log) : List Rec := (l.held.filter (fun p => decide (p.1 < permanentSlots))).map (fun p => p.2)
def Log.circulating (l : Log) : List Rec :=
  let at_ := permanentSlots + l.pos
  ((l.held.filter (fun p => decide (at_ ≤ p.1))) ++
    (l.held.filter (fun p => decide (permanentSlots ≤ p.1) && decide (p.1 < at_)))).map (fun p => p.2)
/-- Held records in write order. -/
def Log.flash (l : Log) : List Rec := l.permanent ++ l.circulating
/-- Committed records in write order; those that wait for bank 3 come last. -/
def Log.ordered (l : Log) : List Rec := l.flash ++ l.waiting

/-- Number `a` comes before number `b` (R388). -/
def before (a b : Nat) : Bool :=
  if a ≤ permanentSlots then decide (permanentSlots < b) || decide (a < b)
  else decide (permanentSlots < b) && decide ((b + 2 ^ 32 - a) % 2 ^ 32 < 2 ^ 31) && a != b

/-- The held record that follows number `n` in write order. -/
def Log.after (l : Log) (n : Nat) : Option Rec :=
  match l.flash.dropWhile (fun r => r.seq != n) with
  | _ :: r :: _ => some r
  | _ => none

/-! ### LOG_READ -/

def roleLog : List Role := [.operator, .auditor]

def cmdLogRead : Cmd :=
  { code := 0x0601, roles := roleLog, zero := true, states := everyState, cellJob := false, bytes := [(8, 4)] }

/-- The record that LOG_READ names, and whether it is returned open. A record whose mark is not written yet is (R405). -/
def Log.named (l : Log) (n : Nat) : Option (Rec × Bool) :=
  let open_ := l.waiting ++ l.opened.toList
  if n = 0 then
    match l.circulating, l.permanent with
    | r :: _, _ => some (r, false)
    | [], r :: _ => some (r, false)
    | [], [] => none
  else if n = 0xFFFFFFFF then
    match open_.getLast? with
    | some r => some (r, true)
    | none => l.flash.getLast?.map (fun r => (r, false))
  else
    match l.flash.find? (fun r => r.seq == n) with
    | some r => some (r, false)
    | none => (open_.find? (fun r => r.seq == n)).map (fun r => (r, true))

/-- The answer of LOG_READ: the record and the number of the one that follows it. -/
def State.logAnswer (s : State) (q : Req) : Ran :=
  match s.log.named (q.b 8 4) with
  | none => s.fails .badParameter
  | some (r, o) =>
    if !o && !q.io.flashOk then s.fails .uncorrectable
    else s.succeeds (le 4 ((s.log.after r.seq).map (fun x => x.seq) |>.getD 0) ++ le 4 0 ++ r.bytes o)

/-- A record that LOG_READ names stands in bank 3, which works on something else: the read waits for the end of that operation (R382). -/
def State.logReadWaits (s : State) (q : Req) : Bool :=
  (s.log.named (q.b 8 4)).any (fun r => !r.2) && (s.bank 3).ops != [] && s.trunk.resuming != some .read

/-- LOG_READ. -/
def execLogRead (q : Req) (s : State) : Answer :=
  let c : Checks := { params := (s.log.named (q.b 8 4)).isSome }
  if s.logReadWaits q then
    match s.precheck q cmdLogRead c with
    | .error a => a
    | .ok s => .next (s.hold q 0x0601 0 .flash)
  else s.command q cmdLogRead c (fun s => s.logAnswer q)

/-! ### LOG_STREAM (R401) -/

def cmdLogStream : Cmd :=
  { code := 0x0602, roles := roleLog, zero := true, states := everyState, cellJob := false, bytes := [(8, 8)] }

/-- LOG_STREAM: a running stream ends first. -/
def execLogStream (q : Req) (s : State) : Answer :=
  let n := q.b 12 4
  s.command q cmdLogStream { params := decide (1 ≤ n ∧ n ≤ 131072) } (fun s =>
    let s := s.endStream
    let last := ((s.log.ordered.getLast?).map (fun r => r.seq)).getD 0
    let x : Stream := { next := q.b 8 4, stop := last, left := n, first := 0, last := 0, sent := 0, skipped := 0 }
    ({ s with log := { s.log with stream := some x } }).succeeds [])

/-- The next record of a stream: not before its number, not after the newest at its start. -/
def Stream.pick (x : Stream) (l : List Rec) : Option Rec :=
  if x.left = 0 then none else l.find? (fun r => !before r.seq x.next && !before x.stop r.seq)

/-- LOG_STREAM_ENTRY: the stream adds an entry of a held record while fewer than 32 wait in the PF's LOG queue; it waits for one that
is committed and not held yet, and ends after the last. -/
def execLogStreamEntry (readOk : Bool) (s : State) : Answer :=
  match s.log.stream with
  | none => .next s
  | some x =>
    if 32 ≤ ((s.fn 0).service 2).waiting.length || s.dormant then .next s
    else
      match x.pick s.log.flash with
      | none => .next (if (x.pick s.log.waiting).isSome then s else s.endStream)
      | some r =>
        let y : Stream := { x with next := nextNumber r.seq, left := x.left - 1 }
        if readOk then
          let y := { y with first := if x.sent = 0 then r.seq else x.first, last := r.seq, sent := x.sent + 1 }
          let s := { s with log := { s.log with stream := some y } }
          .next (s.svcPost 0 2 r.code (if r.partition = 0xFF then 0 else r.partition) (r.bytes false))
        else .next { s with log := { s.log with stream := some { y with skipped := x.skipped + 1 } } }

/-! ### LOG_CLEAR (R402) -/

def cmdLogClear : Cmd :=
  { code := 0x0603, roles := [.auditor], zero := true, states := [.operational, .maintenance, .recovery], cellJob := false
    bytes := [] }

/-- Circulating sectors, as sectors of bank 3, that do not read as erased, one apart. -/
def State.dirtySectors (s : State) (but : Nat) : List Nat :=
  ((List.range circulating.sectors).map (circulating.first + ·)).filter (fun n => n != but && !s.sectorErased n)

/-- Step 2 of R402: the write position moves to the next sector. While records fill the permanent area it stays where it is. -/
def State.clearMove (s : State) : State :=
  let next := s.nextSector circulating s.log.pos
  let pos := if permanentSlots < s.log.nextSeq then next * sectorSlots else s.log.pos
  let toErase := s.dirtySectors (circulating.first + pos / sectorSlots)
  { s with log := { s.log with
    pos, toErase, held := s.log.held.filter (fun p => decide (p.1 < permanentSlots)), clearing := true, lastClear := s.log.nextSeq } }

/-- LOG_CLEAR: every circulating record below the clear record is no longer held. -/
def execLogClear (q : Req) (s : State) : Answer :=
  s.command q cmdLogClear {} (fun s =>
    let s := (s.commitOpen 0).drainLog
    let gone := s.log.circulating
    let n := s.log.nextSeq
    let lo := (gone.head?.map (fun r => r.seq)).getD 0
    let hi := (gone.getLast?.map (fun r => r.seq)).getD 0
    let s := s.clearMove
    let r := s.record 0x0903 0xFF 0 0xFF 0 (le 4 lo ++ le 4 hi ++ le 4 q.session.toNat)
    let (s, r) := s.numbered r
    let s := ((s.commitRec r).drainLog).entered circulating (s.log.pos / sectorSlots * sectorSlots)
    (s, commitStatus q.io.flashOk, le 4 n))

/-- LOG_CLEAR_ERASE: the next sector that holds cleared records is erased in the background, one at a time, so that records go on being
written (R402). -/
def execLogClearErase (s : State) : Answer :=
  let isErase (o : FlashOp) : Bool := match o with
    | .erase _ _ => true
    | _ => false
  match s.log.toErase with
  | [] => .next { s with log := { s.log with clearing := false } }
  | n :: _ =>
    if (s.bank 3).ops.any isErase then .next s
    else
      let s := s.flashIssue 3 (.erase ((s.bank 3).phys n) false)
      .next { s with log := { s.log with clearing := s.log.toErase != [] } }

/-! ### LOG_SNAPSHOT (R397, R398) -/

/-- LOG_SNAPSHOT's row for an operation. -/
def cmdSnapshot (op : Nat) : Cmd :=
  { code := 0x0607, roles := if op = 0 then [.host] else [.officer], zero := op != 0
    states := if op = 0 then everyState else [.factory, .blank, .operational, .maintenance, .recovery], cellJob := false
    bytes := if op = 1 then [(8, 3), (16, 8)] else [(8, 3)] }

/-- Known selectors up to the first 0, and nothing after it. -/
def selectorsOk (l : List Nat) : Bool :=
  let t := l.takeWhile (· ≠ 0)
  t.all (fun x => decide (x ≤ 0x0E)) && (l.drop t.length).all (· == 0)

/-- The selectors in force, as eight bytes. -/
def State.selectorBytes (s : State) (code : Nat) : Bytes := padTo 8 ((s.selectors code).map (fun x => BitVec.ofNat 8 x))

def State.snapshotAnswer (s : State) (code : Nat) (ok : Bool) : Ran :=
  (s, commitStatus ok, le 8 0 ++ s.selectorBytes code)

/-- A change of the selectors of one code, and of what the configuration store holds of it (R257). -/
def State.setSelectors (s : State) (code : Nat) (l : Option (List Nat)) (io : Io) : State :=
  let t := match l with
    | some l => tblSet s.log.selectors code l
    | none => tblDel s.log.selectors code
  { s with log := { s.log with selectors := t } }.storeTake (.selectors code l) io

/-- LOG_SNAPSHOT operation 0: read. -/
def execLogSnapshotRead (q : Req) (s : State) : Answer :=
  s.command q (cmdSnapshot 0) { params := q.b 10 1 == 0 } (fun s => s.snapshotAnswer (q.b 8 2) true)

/-- LOG_SNAPSHOT operation 1: set. A list equal to the default is no entry of the 64. -/
def execLogSnapshotSet (q : Req) (s : State) : Answer :=
  let code := q.b 8 2
  let l := (List.range 8).map (fun i => q.b (16 + i) 1)
  let t := l.takeWhile (· ≠ 0)
  s.command q (cmdSnapshot 1) { params := q.b 10 1 == 1 && selectorsOk l } (fun s =>
    if t = [1, 2, 3, 10] then
      (s.setSelectors code none q.io).snapshotAnswer code q.io.flashOk
    else if (tblGet s.log.selectors code).isNone ∧ 64 ≤ s.log.selectors.length then s.fails .noResource
    else (s.setSelectors code (some t) q.io).snapshotAnswer code q.io.flashOk)

/-- LOG_SNAPSHOT operation 2: restore the default. -/
def execLogSnapshotRestore (q : Req) (s : State) : Answer :=
  let code := q.b 8 2
  s.command q (cmdSnapshot 2) { params := q.b 10 1 == 2 } (fun s =>
    (s.setSelectors code none q.io).snapshotAnswer code q.io.flashOk)

/-! ### LOG_EXPORT (17 R432, R437) -/

def cmdLogExport : Cmd :=
  { code := 0x0608, roles := roleLog, zero := true, states := everyState, cellJob := false, bytes := [(8, 8)] }

/-- The held records of an export: from the first number on, at most `count`. -/
def Log.exported (l : Log) (first count : Nat) : List Rec :=
  (l.flash.filter (fun r => !before r.seq first)).take count

/-- LOG_EXPORT: one kind 2 object of the held records. -/
def execLogExport (q : Req) (s : State) : Answer :=
  let n := q.b 12 4
  let recs := s.log.exported (q.b 8 4) n
  s.command q cmdLogExport { params := decide (1 ≤ n ∧ n ≤ 131072) && recs != [] } (fun s =>
    let seq := s.sd.writeSeq
    let (s, st) := s.writeObject 2 0xFF (recs.flatMap (fun r => r.bytes false)) q.io 0x0608
    (s, st, le 4 ((recs.head?.map (fun r => r.seq)).getD 0) ++ le 4 ((recs.getLast?.map (fun r => r.seq)).getD 0) ++
      le 4 recs.length ++ le 8 seq))

end Sys2Proof.Machine
end

