-- ==== Sys2Proof/Machine/BarkFam.lean ====
section
/-! DEFINITION. The bark's commands and events (14, 04 R116). -/

namespace Sys2Proof.Machine

/-! ### TAMPER_CLEAR (04 R116, 14 R370) -/

def cmdTamperClear : Cmd :=
  { code := 0x0604, roles := [.officer], zero := true, states := [.factory, .blank, .operational, .maintenance, .recovery]
    cellJob := false, bytes := [(8, 4)] }

/-- A source that is active, or has been inactive for less than 1 s. -/
def State.recent (s : State) (src : Nat) : Bool :=
  bit s.bark.tact.toNat src || (match tblGet s.bark.inactiveAt src with
    | some t => decide (s.since t < second)
    | none => false)

/-- The number whose bits are the listed ones. -/
def maskOf (l : List Nat) : Nat := (l.map (fun i => 2 ^ i)).sum

/-- One bit is cleared with its halt and ALERT# bits, and its source is armed again. -/
def Bark.rearm (b : Bark) (src : Nat) : Bark :=
  { b with
    tstky := clearBit b.tstky src, thalt := clearBit b.thalt src, tntf := clearBit b.tntf src
    tarm := if b.enabled src then setBit b.tarm src else b.tarm
    tcount := tblDel b.tcount src, executed := tblDel b.executed src }

/-- TAMPER_CLEAR: the clear stands even when its record is lost, which COMMIT_UNKNOWN reports. Mask bits 28 to 31 have no source and
are ignored: the row does not say what they do (log entry 72). -/
def execTamperClear (q : Req) (s : State) : Answer :=
  let asked := (List.range 28).filter (fun i => bit (q.b 8 4) i)
  s.command q cmdTamperClear {} (fun s =>
    let refused := asked.filter (fun i => s.recent i)
    let cleared := asked.filter (fun i => !s.recent i)
    let s := { s with bark := cleared.foldl Bark.rearm s.bark }
    let p := le 4 (maskOf cleared) ++ le 4 (maskOf refused) ++ le 4 q.session.toNat
    let full := s.logFull
    (s.logEvent 0x0703 0xFF 0 0xFF p, if full then .commitUnknown else .ok, le 4 (maskOf cleared) ++ le 4 (maskOf refused)))

/-! ### BARK_CONFIG and BARK_STATUS (R371) -/

def cmdBarkConfig : Cmd :=
  { code := 0x0605, roles := [.officer], zero := true, states := [.factory, .blank, .operational, .maintenance, .recovery]
    cellJob := false, bytes := [(8, 2), (12, 4)] }

/-- The states that a class is configured for. -/
def configStates : List Life := [.blank, .operational, .maintenance, .recovery]

/-- Modes that a source has. -/
def modeOk (src mode : Nat) : Bool := if src < 8 then decide (mode ≤ 2) else if src < 12 then decide (mode ≤ 1) else mode == 0

/-- The mode of a loop or switch written into LMODE. -/
def Bark.setMode (b : Bark) (src mode : Nat) : Bark :=
  if src < 8 then { b with lmodeLoop := BitVec.ofNat 16 (setBits b.lmodeLoop.toNat (2 * src + 1) (2 * src) mode) }
  else if src < 12 then { b with lmodeCsw := BitVec.ofNat 4 (setBits b.lmodeCsw.toNat (src - 8) (src - 8) mode) }
  else b

/-- TARM of a loop or switch: enabled, and not disarmed by its bit. A disabled one is never active (R372). -/
def Bark.armMode (b : Bark) (src : Nat) : Bark :=
  if 12 ≤ src then b
  else if !b.enabled src then { b with tarm := clearBit b.tarm src, tact := clearBit b.tact src }
  else if !bit b.tstky.toNat src then { b with tarm := setBit b.tarm src }
  else { b with tarm := clearBit b.tarm src }

/-- A configuration of one source goes into the always-on registers; a loop's old detector stays active at first (R364). -/
def Bark.configure (b : Bark) (src mode : Nat) (classes : List Cls) : Bark :=
  let old := b.mode src
  let b := { b with cls := ((List.range 4).zip classes).foldl (fun (t : Tbl Cls) (p : Nat × Cls) => tblSet t (src * 4 + p.1) p.2) b.cls }
  let b := if src < 8 ∧ old ≠ mode then { b with moving := tblSet b.moving src old } else b
  (b.setMode src mode).armMode src

/-- BARK_CONFIG. Mode 0 for a loop or switch that is disabled already disables nothing, and is taken in every state (DEDUCED, log entry
29). -/
def execBarkConfig (q : Req) (s : State) : Answer :=
  let src := q.b 8 1
  let mode := q.b 9 1
  let classes := (List.range 4).map (fun i => Cls.ofCode (q.b (12 + i) 1))
  let cs := classes.filterMap id
  let fixedOk := match (sourceRow src).fixed with
    | some c => cs.all (fun x => x == c)
    | none => true
  let disables := decide (src < 12) && mode == 0 && s.bark.mode src != 0 && !(s.life == .factory || s.life == .blank)
  let ok := decide (src ≤ 27) && modeOk src mode && cs.length == 4 && fixedOk && !disables
  s.command q cmdBarkConfig { params := ok } (fun s =>
    let s := s.storeTake (.bark src mode cs) q.io
    let s := { s with bark := s.bark.configure src mode cs }
    (s, commitStatus q.io.flashOk, le 4 0 ++ configStates.map (fun l => BitVec.ofNat 8 (s.bark.inForce src l).code)))

def cmdBarkStatus : Cmd :=
  { code := 0x0606, roles := [.host], zero := false, states := everyState, cellJob := false, bytes := [] }

/-- LMODE (R367). -/
def Bark.lmode (b : Bark) : Nat := b.lmodeLoop.toNat + b.lmodeCsw.toNat * 2 ^ 16

/-- BARK_STATUS. -/
def execBarkStatus (q : Req) (s : State) : Answer :=
  s.command q cmdBarkStatus {} (fun s =>
    let b := s.bark
    s.succeeds (le 4 b.tstky.toNat ++ le 4 b.thalt.toNat ++ le 4 b.tntf.toNat ++ le 4 b.tarm.toNat ++ le 4 b.tact.toNat ++
      le 1 (b2n s.lockout) ++ le 1 b.alcs.toNat ++ le 2 0 ++ le 4 s.bsec ++ le 4 b.lmode ++
      (List.range 32).flatMap (fun i => le 4 ((tblGet b.tstamp i).getD 0).toNat) ++
      (List.range 32).flatMap (fun i => le 2 ((tblGet b.tcount i).getD 0).toNat)))

/-! ### Events -/

/-- Sources that can occur on the backup cell (R373). -/
def onBackup (src : Nat) : Bool := decide (src ≤ 14) || src == 18 || src == 19 || src == 26

/-- A clock domain is meant to run, and so is monitored (R365, 01 R15). On the backup cell only the always-on domain's own clock is. -/
def State.monitors (s : State) (cd : Nat) : Bool :=
  let main := s.trunk.powerGood
  match cd with
  | 1 => main && !s.dormant
  | 2 => s.groveA.powered
  | 3 => s.groveB.powered
  | 4 => s.groveA.powered
  | 5 => s.groveB.powered
  | 6 => s.groveA.powered
  | 7 => s.groveB.powered
  | 8 => main && !s.trunk.perst
  | 9 => s.twin.step != .down
  | 10 => main && !s.dormant
  | 11 => main && !s.dormant
  | 12 => s.sdPresent && !s.dormant
  | 13 => s.icc.active && !s.dormant
  | 14 => s.rf.mode == .reader || s.rf.mode == .watch
  | 16 => main
  | 17 => true
  | 18 => main
  | _ => false

/-- The condition of a source (R363), as far as its detail and the module's state show it: VIN above 62.0 V, a die at 105 °C or above, the
sensor below −45 °C, a monitored domain, one of the five machines, TCK at RDP 1. What the filters saw before is the environment's (log entry
59). -/
def State.meets (s : State) (a : Alarm) : Bool :=
  match a.source with
  | 15 => decide (62000 < a.detailB.toNat)
  | 17 => decide (1050 ≤ a.detailB.toInt)
  | 18 => decide (a.detailB.toInt < -450)
  | 19 => s.monitors a.detailA.toNat
  | 22 => decide (a.detailA.toNat ≤ 4)
  | 25 => s.trunk.rdp == 1
  | _ => true

/-- Detail words as R375 gives them: what a source does not show is 0. -/
def State.shown (s : State) (a : Alarm) : Alarm :=
  let i := a.source
  let random := decide (i < 8) && s.bark.mode i == 2
  let mesh := i == 12 || i == 13
  let floating := a.detailA &&& 0x80000000
  let da : BitVec 32 :=
    if random then floating ||| 1
    else if i < 8 then 1
    else if mesh then a.detailA &&& 0x8000000F
    else if [16, 17, 18, 19, 22].contains i then a.detailA else 0
  let db : BitVec 32 :=
    if random || mesh then BitVec.ofNat 32 (min 32 a.detailB.toNat)
    else if [15, 17, 18, 19].contains i then a.detailB else 0
  { source := i, detailA := da, detailB := db }

/-- BARK_ALARM_GROUP: the sources that became active in one CD17 cycle. -/
def execBarkAlarmGroup (group : List Alarm) (s : State) : Answer :=
  let seen := group.filter (fun a => s.meets a && (s.trunk.powerGood || onBackup a.source))
  .next (s.alarmGroup (seen.map s.shown))

/-- BARK_SOURCE_INACTIVE: a source's input has returned to its good state. -/
def execBarkSourceInactive (source : BitVec 5) (s : State) : Answer :=
  let i := source.toNat
  if bit s.bark.tact.toNat i then
    .next { s with bark := { s.bark with
      tact := clearBit s.bark.tact i, inactiveAt := tblSet s.bark.inactiveAt i s.clock.cd18 } }
  else .next s

/-- LOOP_MODE_TRANSITION_END: a loop's new detector has made its 16 comparisons; a mismatch or a floating level among them alarms (R364).
Which of the two it was, and how many mismatches, only the loop shows: a pseudo-random loop's details are free (R375, log entry 3). -/
def execLoopModeTransitionEnd (loop : BitVec 4) (mismatch : Bool) (s : State) : Answer :=
  let i := loop.toNat
  if (tblGet s.bark.moving i).isNone then .next s
  else
    let random := s.bark.mode i == 2
    let s := s.drawn
    let s := if mismatch then s.alarmGroup [{
        source := i, detailA := if random && s.freeNat % 2 == 1 then 0x80000001 else 1
        detailB := if random then BitVec.ofNat 32 (s.freeNat / 2 % 17) else 0 }] else s
    .next { s with bark := ({ s.bark with moving := tblDel s.bark.moving i }).armMode i }

/-- SEQUENCER_INVALID_STATE: the always-on domain erases the BBKR and sets bit 22, whatever class is in force (R366). -/
def execSequencerInvalidState (s : State) : Answer :=
  let s := { s with heart := { s.heart with bbkr := {} } }
  let s := s.alarmGroup [{ source := 22, detailA := 4, detailB := 0 }]
  .next { s with bark := { s.bark with tstky := setBit s.bark.tstky 22 } }

/-! ### The loops' generators (R364) -/

/-- One step of x^31 + x^28 + 1. -/
def lfsrStep (x : BitVec 31) : BitVec 31 := (x <<< 1) ||| (BitVec.ofBool (x.getLsbD 30 != x.getLsbD 27)).setWidth 31

/-- A generator after `n` steps. -/
def lfsrAfter : Nat → BitVec 31 → BitVec 31
  | 0, x => x
  | n + 1, x => lfsrAfter n (lfsrStep x)

/-- The level that LOOPi_OUT drives: low when disabled, high when static, else the Manchester code of the generator at
4 kbit/s, two half-bits of 3,125 CD18 cycles (19 R482; log entry 9). -/
def State.loopOut (s : State) (i : Nat) : Bool :=
  let half := s.since s.bark.lfsrAt / 3125
  match s.bark.mode i with
  | 0 => false
  | 1 => true
  | _ => ((lfsrAfter (half / 2) (s.bark.lfsr.getD i 1)).getLsbD 30) != (half % 2 == 1)

/-- The trunk seeds every generator with a non-zero value from its Seed generator (t3 of 13 R347). -/
def State.seedLoops (s : State) : State :=
  let (s, bs) := (s.trunkTake 64).getD (s, [])
  { s with bark := { s.bark with
    lfsr := (List.range 16).map (fun i => lfsrOf (field bs (4 * i) 4)), lfsrAt := s.clock.cd18 } }

/-- AON_POR: the always-on domain restarts after it lost all supply: its registers take their reset values, the BBKR and the
tag's content are lost (R367, R371, 17 R447). What flash holds stays. -/
def execAonPor (s : State) : Answer :=
  if s.trunk.powerGood then .next s
  else
    .next { s with
      bark := { lkoRecord := s.bark.lkoRecord, lfsrAt := s.clock.cd18 }
      heart := { s.heart with bbkr := {} }
      trunk := { s.trunk with tstkySinceTransit := true }
      rf := { s.rf with page := [], shadow := [], contentLost := true, tagEn := true, swapPend := false, busyErr := false }
      elec := { s.elec with lockUntil := none }
      clock := { s.clock with bsecBase := 2 ^ 32 - s.clock.cd18 / second % 2 ^ 32 } }

end Sys2Proof.Machine
end

