-- ==== Sys2Proof/Machine/LifeCycle.lean ====
section
/-! DEFINITION. The life cycle (13): what every reset wipes, LC_CHANGE and its steps, FW_UPDATE and SET_RDP. -/

namespace Sys2Proof.Machine

/-! ### What every reset wipes (R344, 18 R455) -/

/-- A paired module that starts without a session is in its split role, with its lease ended (16 R422); the counters and
changes of a session that the reset cuts off go as at a loss. -/
def State.twinReset (s : State) : State :=
  let s := if s.twin.step = .session then s.twinHalves else s
  let t := match s.stored.pairing with
    | some x => s.twin.withPairing x
    | none => s.twin.withPairing ({} : Twin).pairing
  let role : TwinRole := if t.role = .solo then .solo else if t.leads then .splitPrimary else .splitSecondary
  { s with twin := {
      role, identity := t.identity, epoch := t.epoch, set := t.set, domain := t.domain, partner := t.partner
      partnerDigest := t.partnerDigest, promoted := t.promoted, replSeq := t.replSeq, persistedSeq := t.persistedSeq
      unreplicated := t.unreplicated, ranges := t.ranges
      ceilings := if t.step = .session then t.staleAll.ceilings else t.ceilings } }

/-- A function after the reset: all its registers are at their reset values (03 R99, R100). The PCIe power state is kept by an
internal reset, which keeps configuration space (R341). -/
def keptFns (t : Tbl Fn) : Tbl Fn := (t.filter (fun p => p.2.d3hot)).map (fun p => (p.1, { d3hot := true }))

/-- A partition's volatile parts; its receipt series waits for t7 (05 R147). -/
def Part.volatile (x : Part) : Part :=
  { x with
    first := 0, count := 0, frontier := [], closing := [], roots := [], wJobs := 0, wClass := List.replicate 8 0
    peakIntake := 0, peakWait := 0 }

/-- The jobs that run when a reset comes complete with HALTED_BY_ALARM (09 R263); when the host interface is in reset already, without a
completion (03 R100). -/
def State.haltRunning (s : State) (silent : Bool) : State :=
  let running := s.jobs.filter (fun p => [p.2.copyA, p.2.copyB].any (fun k => k.any (fun k => k.place == .running)))
  s.each (running.map (fun p => p.1)) (fun s j => (s.modJob j (fun x => { x with silent := x.silent || silent })).endNow j .haltedByAlarm)

/-- The wipe of R344. What flash, the BBKR and the always-on registers hold stays. -/
def State.resetWipe (s : State) : State :=
  let s := s.twinReset.slotsDown
  let held := s.stored
  { s with
    sched := {}
    trunk := { s.trunk with
      ready := false, starting := false, bootCode := 0, change := none, runB := false, runRecovery := false
      mregs := List.replicate 8 (List.replicate 48 0), extPending := [], power := .full, waking := false, svcBells := []
      rung := [], reads := [], restores := [], held := [], resuming := none, resetKeys := [], dark := false, fetching := none, fetchLast := 0 }
    fns := [], queues := [], jobs := [], posted := [], stage := [], groveA := {}, groveB := {}, cells := [], mem := [], dramBad := []
    sessions := [], parts := tblMap (fun p x => (x.withEnrolled ((tblGet held.parts p).getD {})).volatile) s.parts
    heart := {
      slots := keepGenerations s.heart.slots, masters := tblMap (fun _ m => { gen := m.gen }) s.heart.masters
      bbkr := s.heart.bbkr, journal := s.heart.journal, reopens := s.heart.reopens }
    seed := {}
    bark := { s.bark with held := [], heldPosted := [] }
    log := { s.log with
      reopened := false, opened := none, waiting := [], ckptQueue := [], early := [], lost := 0, firstLoss := 0, seconds := [], stream := none
      clearing := s.log.toErase != [], selectors := held.selectors }
    flash := { s.flash with xip := false, banks := tblMap (fun _ x => { x with ops := [], erasing := none, failedOnce := [] }) s.flash.banks }
    sd := { s.sd with journal := held.media }
    rf := { s.rf with mode := .off, field := .none, cardHeld := false, rewrite := false }
    elec := { m := s.elec.m }
    clock := { s.clock with energyJ := 0, energyNj := 0 } }

/-! ### Transitions (R340) -/

/-- The least role of a transition; none for a pair that is not in the table. -/
def authority (src dst : Life) : Option Role :=
  match src, dst with
  | .factory, .transit => some .officer
  | .transit, .blank => some .host
  | .blank, .operational => some .officer
  | .operational, .maintenance => some .officer
  | .maintenance, .operational => some .officer
  | .operational, .blank => some .officer
  | .maintenance, .blank => some .officer
  | .operational, .recovery => some .officer
  | .maintenance, .recovery => some .officer
  | .recovery, .operational => some .officer
  | .recovery, .maintenance => some .officer
  | .recovery, .blank => some .officer
  | .transit, .factory => some .host
  | .blank, .factory => some .host
  | .retired, .factory => some .host
  | .transit, .retired => some .host
  | .retired, .retired => none
  | _, .retired => some .officer
  | _, _ => none

/-- Whether a change into a state zeroises. -/
def zeroises (dst : Life) : Bool := dst == .blank || dst == .retired || dst == .factory
/-- Whether a change into a state removes the enrolments. -/
def removesEnrolments (dst : Life) : Bool := dst == .transit || dst == .retired || dst == .factory

/-- Both signatures over bytes 0 to 127 verify under Yiljan's keys (R349). -/
def imageSigned (img : Bytes) : Bool :=
  let key (lattice : Bool) (n : Nat) : Bytes := (List.range n).map (Config.firmwareKey lattice)
  p384Holds (key false 97) (img.take 128) (piece img 128 96) &&
    dsaVerify 9 (key true (pubLen 9 0)) (dsaMessage 0 0 [] (img.take 128)) (piece img 224 4627)

/-- The checks of R349 on an image: magic, length, body digest, both signatures, and a security version not below the minimum. -/
def State.imageChecks (s : State) (img : Bytes) : Bool :=
  field img 0 4 == 0x4B5A4657 && decide (s.trunk.minSecver ≤ field img 12 4) && field img 20 4 + 8192 == img.length &&
    piece img 24 48 == sha384 (img.drop 8192) && imageSigned img

/-- A stored image passes the checks of R349 now. Of one that no FW_UPDATE wrote the bytes are not given, and it passes while its security
version is not below the minimum (log entry 7). -/
def State.verifies (s : State) (x : Image) : Bool :=
  x.good && decide (s.trunk.minSecver ≤ x.secver) && x.stored.all s.imageChecks

/-- The condition of a transition. -/
def State.condition (s : State) (q : Req) (dst : Life) : Bool :=
  match s.life, dst with
  | .factory, .transit => s.trunk.devidCert != []
  | .transit, .blank => !s.trunk.tstkySinceTransit
  | .blank, .operational => (s.activeMaster 0).isSome
  | .recovery, .operational => s.verifies s.trunk.imageA || s.verifies s.trunk.imageB
  | .recovery, .maintenance => s.verifies s.trunk.imageA || s.verifies s.trunk.imageB
  | _, .factory =>
    s.trunk.rdp == 1 && s.buttonHeld q && decide (s.trunk.rework < 15)
  | _, _ => true

/-- An active source that would have a stronger class in the target state than it last executed (14 R372). -/
def State.sourceForbids (s : State) (dst : Life) : Bool :=
  (List.range 28).any (fun i => s.bark.enabled i && bit s.bark.tact.toNat i && (match tblGet s.bark.executed i with
    | none => true
    | some c => decide (c.code < (s.bark.inForce i dst).code)))

/-! ### LC_CHANGE (R341) -/

/-- LC_CHANGE's row for a target. Under LOCKOUT the change into RETIRED needs role H on the PF (04 R112). -/
def State.lcCmd (s : State) (dst : Option Life) : Cmd :=
  let a := dst.bind (fun d => authority s.life d)
  let retires := dst == some .retired
  { code := 0x0701, roles := [if s.lockout && retires then .host else a.getD .officer], zero := true
    states := if a.isSome then everyState else [], cellJob := false, bytes := [(8, 4)], underLockout := retires }

/-- LC_CHANGE: once accepted it refuses new commands, waits for those in execution, and its response is written before the transition
begins (04 R111). -/
def execLcChange (q : Req) (s : State) : Answer :=
  let dst := Life.ofCode (q.b 8 2)
  match s.precheck q (s.lcCmd dst) { params := q.b 10 2 == s.life.code } with
  | .error a => a
  | .ok s =>
    match dst with
    | none => .next (s.answer q 0x0701 .stateRefused [])
    | some d =>
      if s.condition q d && !s.sourceForbids d then
        .next ({ s.touchSession q with trunk := { s.trunk with change := some { target := d, timedOut := false, waits := some q } } }.changeNext)
      else .next (s.answer q 0x0701 .stateRefused [])

/-- LC_CHANGE_JOB_TIMEOUT: 200 ms have passed; jobs that have not ended are stopped at their next budget end. -/
def execLcChangeJobTimeout (s : State) : Answer :=
  match s.trunk.change with
  | none => .next s
  | some c =>
    if c.waits.isSome then .next s
    else
    let s := { s with trunk := { s.trunk with change := some { c with timedOut := true } } }
    .next (s.each (s.jobs.map (fun p => p.1)) (fun s j => s.stopJob j .queueDestroyed))

/-- Every closed root of a partition is posted. -/
def State.postRoots (s : State) (p : Nat) : State := s.each (s.part p).closing (fun s _ => s.postRoot p)

/-- The enrolment store is emptied: certificates, quorum values and quotas (R340). -/
def State.dropEnrolments (s : State) : State :=
  { s with parts := tblMap (fun _ x => x.withEnrolled {}) s.parts }.storeAdd .noEnrolments

/-- The module is in a life-cycle state: RDP 0 is for FACTORY alone (R338), the lockout mark ends with RETIRED, and TSTKY is watched anew
from the change into TRANSIT (R340). -/
def State.takeLife (s : State) (dst : Life) : State :=
  let b := s.bark
  { s with
    trunk := { s.trunk with
      life := dst, rdp := if dst != .factory && s.trunk.rdp == 0 then 1 else s.trunk.rdp
      tstkySinceTransit := s.trunk.tstkySinceTransit && dst != .transit }
    bark := { b with
      alcs := BitVec.ofNat 16 dst.code, lko := b.lko && dst != .retired, lkoRecord := b.lkoRecord && dst != .retired } }

/-- Step 4: what the transition removes, the snapshot and bark configurations' return to their defaults (15 R398, 14 R371), the DevID of a
change into FACTORY with the store under the key of the new one (R343, log entry 16). -/
def State.leaveLife (s : State) (dst : Life) : State :=
  let s := if zeroises dst then s.zeroise else s
  let s := if removesEnrolments dst then s.dropEnrolments else s
  let s := if dst = .factory ∨ dst = .retired then (s.storeAdd .barkDefaults).storeAdd .selectorDefaults else s
  if dst = .factory then
    { s with trunk := { s.trunk with rework := s.trunk.rework + 1, devidCert := [] } }.storeSnapshot s.stored
  else s

/-- Step 5: `n` copies of the new code are written, one after another, each read back (R339, R341). -/
def State.writeLife (s : State) (dst : Life) (n : Nat) : State :=
  let c : LifeCopy := { code := BitVec.ofNat 16 dst.code, mac := some (BitVec.ofNat 16 dst.code) }
  { s with trunk := { s.trunk with lifeCopies := List.replicate (min n 3) c ++ s.trunk.lifeCopies.drop n } }

/-- Steps 4 and 5, and the new state. A change into FACTORY lowers RDP (R346). -/
def State.enterLife (s : State) (dst : Life) : State :=
  let s := ((s.leaveLife dst).writeLife dst 3).takeLife dst
  if dst = .factory then { s with trunk := { s.trunk with rdp := 0 } } else s

/-- What is left to do before step 4: the roots still to be posted, the twin's CLOSE, and the records and checkpoints still to be written
(log entry 25). -/
def State.closeForChange (s : State) : State :=
  let s := s.each allFns (fun s p => s.postRoots p)
  let s := if s.twin.step = .session then (s.twinSend 0x0B [3]).twinLoss 3 else s
  (s.commitOpen 0).drainLog

/-- LC_INTERNAL_RESET: the jobs have ended; steps 4 to 6. VF Enable and the link stay (R341). `Change.cut`: a power loss, a PERST# or a
LOCKOUT-class response comes when so many copies are written. The module is then in its old state when the second is not written: a
transition under LOCKOUT is abandoned, and what step 4 removed is gone; it is in the new state when the second is (R342, R360). A
ZEROIZE-class response lets the transition continue. -/
def execLcInternalReset (s : State) : Answer :=
  match s.trunk.change with
  | none => .next s
  | some c =>
    if s.jobs != [] || s.posted != [] || c.waits.isSome then .next s
    else
      let s := s.closeForChange
      let fns := keptFns s.fns
      let early := ((s.leaveLife c.target).writeLife c.target c.cut.copies)
      match c.cut.during with
      | .gone => .next early
      | .lockout =>
        if c.cut.copies < 2 then .next { early with trunk := { early.trunk with change := none } }
        else .next { (s.enterLife c.target).resetWipe with fns }
      | .none => .next { (s.enterLife c.target).resetWipe with fns }
      | .zeroize => .next { (s.enterLife c.target).zeroise.resetWipe with fns }

/-! ### FW_UPDATE (R349, R350, 17 R433) -/

def cmdFwUpdate : Cmd :=
  { code := 0x0702, roles := [.officer], zero := true, states := [.operational, .maintenance, .recovery], cellJob := false
    bytes := [(8, 1), (16, 12)] }

/-- Custom-function packages of a body: what their headers declare, where their code goes, and the package itself, at most 64 KiB.
The layout is not given (R148, 11 R317, log entry 26). -/
def customsOf (img : Bytes) : List Custom :=
  (List.range (field img 72 2)).map (fun i =>
    let v (k : Nat) : Nat := Config.stdNat .imageCheck [img, le 2 i, le 1 k]
    let some_ (k : Nat) : List Nat := (List.range 256).filter (fun a => Config.stdHolds .imageCheck [img, le 2 i, le 1 k, le 1 a])
    { code := 0x8000 + v 0 % 0x8000, partition := v 1 % 64, w := 1 + v 2 % 1000000, isC := v 3 % 2 == 1
      algsA := some_ 4, usagesA := some_ 5, algsB := some_ 6, usagesB := some_ 7, entry := 0x0200000000 + v 11 % 128 * 65536 + v 8 % 65536 / 4 * 4
      page := v 11 % 128, package := piece img (8192 + v 9 % (img.length - 8192 + 1)) (v 10 % 65537) })

/-- A quorum of the partition's Security Officers has countersigned package `i` (R148). Where its countersignatures stand is not
given (log entry 26). -/
def State.countersigned (s : State) (img : Bytes) (i p : Nat) : Bool :=
  let x := s.part p
  decide (max 1 x.mOfficer ≤ (x.officers.filter (fun c => Config.stdHolds .imageCheck [img, le 2 i, c.2])).length)

/-- The checks of R349, and the countersignatures of its packages (R148). -/
def State.imageOk (s : State) (img : Bytes) : Bool :=
  s.imageChecks img && ((customsOf img).zipIdx).all (fun c => s.countersigned img c.2 c.1.partition)

/-- The image with a boot record in a state. -/
def imageOf (img : Bytes) (boot : Boot) (good : Bool) : Image :=
  { boot, fwver := BitVec.ofNat 32 (field img 8 4), secver := field img 12 4, seedcfg := BitVec.ofNat 2 (field img 16 1)
    header := img.take 128, bodyDigest := piece img 24 48, customs := customsOf img, stored := some img, good }

/-- The bank that an operational image goes into: the one whose image is not ACTIVE, and bank 1 in RECOVERY. -/
def State.updateBank (s : State) : Nat := if s.life = .recovery ∨ s.trunk.imageA.boot = .active then 1 else 0

/-- A program of an operational image's bank fails (15 R380). -/
def State.imageFails (s : State) (bank : Nat) : State := if bank = 0 then s.programFails 0 256 3776 else s.programFails 1 0 4032

/-- An operational image is written, verified, and marked PENDING last. -/
def State.writeOperational (s : State) (img : Bytes) (flashOk : Bool) : Ran :=
  let ok := s.imageOk img
  let bank := s.updateBank
  let x := imageOf img (if ok && flashOk then .pending else .inactive) ok
  let s := if bank = 1 then { s with trunk := { s.trunk with imageB := x } } else { s with trunk := { s.trunk with imageA := x } }
  if !ok then s.fails .blockInvalid
  else if !flashOk then (s.imageFails bank).fails .commitUnknown
  else s.succeeds (le 4 x.fwver.toNat ++ le 1 bank)

/-- A recovery image goes into the recovery area, out of which the recovery firmware executes. -/
def State.writeRecovery (s : State) (img : Bytes) (flashOk : Bool) : Ran :=
  if s.flash.xip || s.life == .recovery then s.fails .bankBusySelf
  else if !s.imageOk img then s.fails .blockInvalid
  else
    let x := imageOf img .inactive true
    let s := { s with trunk := { s.trunk with recovery := x } }
    if flashOk then s.succeeds (le 4 x.fwver.toNat ++ le 1 0) else (s.programFails 0 0 256).fails .commitUnknown

/-- FW_UPDATE with the image read from its source. -/
def State.update (s : State) (img : Bytes) (flashOk : Bool) : Ran :=
  match field img 4 1 with
  | 1 => s.writeOperational img flashOk
  | 2 => s.writeRecovery img flashOk
  | _ => s.fails .blockInvalid

/-- FW_UPDATE is cut off while it writes (13 R360): the image that it was writing is not selected, and an erase flag is left set. Which sector's
is open (log entry 3). -/
def State.updateCut (s : State) (img : Option Bytes) : State :=
  match img.map (fun b => field b 4 1) with
  | some 1 =>
    let bank := s.updateBank
    let s := if bank = 1 then { s with trunk := { s.trunk with imageB := {} } } else { s with trunk := { s.trunk with imageA := {} } }
    s.drawn.setBank bank ((s.bank bank).flag (if bank = 0 then 256 + s.freeNat % 3776 else s.freeNat % 4032))
  | some 2 =>
    if s.flash.xip || s.life == .recovery then s
    else { s with trunk := { s.trunk with recovery := {} } }.drawn.setBank 0 ((s.bank 0).flag (s.freeNat % 256))
  | _ => s

/-- FW_UPDATE. -/
def execFwUpdate (q : Req) (s : State) : Answer :=
  let source := q.b 8 1
  let n := q.b 24 4
  s.command q cmdFwUpdate { params := decide (source ≤ 1), lengths := decide (1 ≤ n ∧ n ≤ 64 * mib) } (fun s =>
    if source = 0 then
      let s := s.emit (.hostRead q.fn.toNat (q.b 16 8) n)
      match q.io.object with
      | none => s.fails .malformedEntry
      | some img => s.update (padTo n img) q.io.flashOk
    else
      match s.readObject 3 q.io 0x0702 with
      | (s, .error st) => s.fails st
      | (s, .ok segs) =>
        let img := segs.flatMap (fun x => x.stored)
        if segs.all (fun x => field x.header 32 4 != 0 || field x.header 24 8 == q.b 16 8) then
          if img.length = n then s.update img q.io.flashOk else s.fails .badLength
        else s.fails .blockInvalid)
    (cut := fun s => s.updateCut (if source = 0 then q.io.object else (q.io.object.bind (segmentsOf 3)).map (fun l => l.flatMap (fun x => x.stored))))

/-! ### The test port (R345, IEEE 1149.1) -/

/-- What an instruction of the test port acts as at an RDP level: nothing answers at level 2, a private debug instruction is BYPASS at
level 1. No command of the table drives J6, which lies inside the bark (log entry 66). -/
def scanActs (rdp : BitVec 2) (i : ScanInstr) : Option ScanInstr :=
  match rdp.toNat, i with
  | 0, i => some i
  | 1, .debug => some .bypass
  | 1, i => some i
  | _, _ => none

/-- What the TAP's instruction acts as now. -/
def State.tapActs (s : State) : Option ScanInstr := scanActs s.trunk.rdp s.trunk.tap

/-! ### SET_RDP (R346) -/

def cmdSetRdp : Cmd :=
  { code := 0x0703, roles := [.officer], zero := true, states := statesFOM, cellJob := false, bytes := [(8, 1)] }

/-- SET_RDP raises the level at once. At level 2 the TAP is held in reset (R345). -/
def execSetRdp (q : Req) (s : State) : Answer :=
  let l := q.b 8 1
  s.command q cmdSetRdp { params := decide (1 ≤ l ∧ l ≤ 2) && decide (s.trunk.rdp.toNat ≤ l) } (fun s =>
    ({ s with trunk := { s.trunk with rdp := BitVec.ofNat 2 l, tap := if l = 2 then .idcode else s.trunk.tap } }).succeeds [])

end Sys2Proof.Machine
end

