-- ==== Sys2Proof/Machine/TwinFam.lean ====
section
/-! DEFINITION. The twin (16): the handshake, sessions and roles, replication, counters' exchange, and the twin's commands. A
frame whose tag fails is given with a session that is not the current one, which has the same effect (log entry 27). -/

namespace Sys2Proof.Machine

/-! ### Conditions (R411) -/

def Twin.paired (t : Twin) : Bool := t.role != .solo

/-- A session may be attempted, as far as this module decides it. -/
def State.mayTwin (s : State) : Bool :=
  s.twin.paired && s.twin.lanes != 0 && (s.life == .blank || s.life == .operational || s.life == .maintenance) &&
    !s.lockout && !s.seed.fail && s.trunk.ready

/-- No partition holds a master key (R413). -/
def State.twinEmpty (s : State) : Bool := s.heart.masters.all (fun p => p.2.st == .empty || p.2.st == .pending)

/-- Slots that hold a native key of a partition. -/
def State.nativeSlots (s : State) : List Nat :=
  (s.heart.slots.filter (fun p => p.2.occupied && !p.2.isExt && !p.2.tk48 && p.1 != attestSlot)).map (fun p => p.1)

/-! ### Frames heard (R407, R412) -/

/-- A frame is discarded and counted. -/
def State.twinDiscard (s : State) : State := { s with twin := { s.twin with discarded := s.twin.discarded + 1 } }

/-- Accept a frame other than HEARTBEAT, if its session is the current one and its counter new; after a loss or an abandoned attempt no
session is current (R414). A first frame under new keys restarts the count. Accepted frames wake a dormant module (R414). -/
def State.hear (s : State) (session : BitVec 32) (counter : Nat) : Option State :=
  let t := s.twin
  let restarts := t.fresh && counter == 1
  if session = t.session ∧ [LinkStep.auth, .role, .session].contains t.step ∧ (restarts ∨ t.seen < counter) then
    some { s.wake with twin := { t with seen := counter, fresh := t.fresh && !restarts, frameTick := s.sched.tick } }
  else none

/-! ### The handshake (R411) -/

/-- The payload of HELLO or REKEY: serial, identity, domain, ECDH point, ML-KEM part. -/
def State.helloBytes (s : State) (point kem : Bytes) : Bytes :=
  le 8 Config.serial.toNat ++ le 1 (b2n s.twin.identity) ++ padTo 16 s.twin.domain ++ point ++ kem

/-- Draw fresh ephemeral keys and make a HELLO or REKEY frame: the initiator's ML-KEM part is an encapsulation key; the responder's is a
ciphertext under the partner's. -/
def State.twinEphemeral (s : State) (kind : Nat) (partnerKem : Bytes) : Option State :=
  match s.trunkTake (56 + if s.twin.identity then 32 else 64) with
  | none => none
  | some (s, r) =>
    let d := keyFrom 0x29 48 (r.take 56)
    let (secret, kem) := if s.twin.identity then kemEncaps 3 partnerKem (r.drop 56)
      else (r.drop 56, (kemKeys 3 (piece r 56 32)).1)
    let payload := s.helloBytes (publicOf 0x29 d) kem
    some { s with twin := { s.twin with
      own := d ++ secret
      hello := frameHead kind payload.length (s.twin.sent + 1) s.twin.session.toNat ++ payload } }

/-- The payload of the frame made last. -/
def Twin.helloPayload (t : Twin) : Bytes := t.hello.drop 16

/-- What follows the first 25 bytes of a partner's payload is usable: a point of the curve, and for the responder an encapsulation key
that passes its check. -/
def Twin.keysOk (t : Twin) (keys : Bytes) : Bool :=
  (p384.decode (keys.take 97)).isSome && (if t.identity then kemKeyOk 3 (keys.drop 97) else (keys.drop 97).length == 1568)

/-- Keys and transcript digest from both frames, the initiator's first; counters restart with new keys (R411, R412). `keys` are the
partner's point and ML-KEM part. -/
def State.deriveKeys (s : State) (partner keys before : Bytes) : State :=
  let t := s.twin
  let both := sha384 (if t.identity then partner ++ t.hello else t.hello ++ partner)
  let x := ((p384.mul (num (t.own.take 48)) (p384.decode (keys.take 97))).map (fun q => q.1)).getD 0
  let shared := if t.identity then t.own.drop 48 else kemDecaps 3 (piece t.own 48 32) (piece t.own 80 32) (keys.drop 97)
  { s with twin := { t with
      keys := kmac256 (be 48 x ++ shared) (both ++ before) (asciiOf "KZ-TWIN") 96, transcript := both, sent := 0, hbSent := 0 } }

/-- Send AUTH: the DevID certificate and the signature over the transcript digest. -/
def State.sendAuth (s : State) : State :=
  let (s, sig) := s.p384Signature (devidKey s.trunk.rework) s.twin.transcript
  s.twinSend 2 (s.trunk.devidCert ++ sig)

/-- The initiator sends HELLO. -/
def State.startHandshake (s : State) : State :=
  if s.mayTwin && !s.twin.identity && !s.dormant && s.twin.step != .session then
    let n := BitVec.ofNat 32 s.freeNat
    let s := { s.drawn with twin := { s.twin with session := n, sent := 0, seen := 0, hello := [] } }
    match s.twinEphemeral 1 [] with
    | none => s
    | some s => ({ s with twin := { s.twin with step := .hello, helloAt := s.clock.cd18 } }).twinSend 1 s.twin.helloPayload
  else s

/-- TWIN_LINK_TRAINED: on one lane or two; the initiator attempts a session. -/
def execTwinLinkTrained (lanes : BitVec 2) (s : State) : Answer :=
  let n := lanes.toNat
  if n = 0 ∨ 2 < n ∨ s.twin.step = .session then .next s
  else
    let s := { s with twin := { s.twin with lanes := n, step := .trained } }
    .next s.startHandshake

/-- TWIN_HANDSHAKE_RETRY: the initiator tries again. -/
def execTwinHandshakeRetry (s : State) : Answer :=
  if s.twin.step = .down ∨ s.twin.step = .trained then .next s.startHandshake else .next s

/-- TWIN_HANDSHAKE_TIMEOUT: an attempt that has not ended 1 s after its HELLO is abandoned. -/
def execTwinHandshakeTimeout (s : State) : Answer :=
  if [LinkStep.hello, .auth, .role].contains s.twin.step then
    .next { s with twin := { s.twin with step := .trained } }
  else .next s

/-- An attempt fails a check at a step of R411: the initiator counts it, and slows down after three in a row. -/
def State.authFails (s : State) (step : Nat) : State :=
  let s := { s with twin := { s.twin with step := .trained } }
  if s.twin.identity then s
  else
    let n := s.twin.authFails + 1
    let s := { s with twin := { s.twin with authFails := n, slow := decide (3 ≤ n) } }
    if n % 3 = 0 then s.notify 0x0302 0xFF (le 1 step ++ le 7 0 ++ le 8 s.twin.offered.toNat) else s

/-- HELLO: the responder answers with its own; both derive keys and send AUTH. A point off the curve or an encapsulation key that
fails its check ends the attempt. -/
def execHello (session : BitVec 32) (serial : BitVec 64) (identity : Bool) (domain : Bytes) (keys : Bytes) (s : State) :
    Answer :=
  let t := s.twin
  let payload := le 8 serial.toNat ++ le 1 (b2n identity) ++ padTo 16 domain ++ keys
  let partner := frameHead 1 payload.length 1 session.toNat ++ payload
  let agrees := serial == t.partner && identity != t.identity && padTo 16 domain == padTo 16 t.domain
  let heard (s : State) : State := { s.wake with twin := { s.twin with
    offered := serial, agrees, frameTick := s.sched.tick, fresh := false, hbFresh := false, seen := 0, hbSeen := 0 } }
  if !s.mayTwin || t.step == .session || !(t.identity || (t.step == .hello && session == t.session)) then .next s.twinDiscard
  else if !t.keysOk keys then .next ((heard s).authFails 2)
  else if t.identity then
    let s := { (heard s) with twin := { (heard s).twin with session, sent := 0 } }
    match s.twinEphemeral 1 (keys.drop 97) with
    | none => .next s
    | some s =>
      let s := s.twinSend 1 s.twin.helloPayload
      let s := (s.deriveKeys partner keys []).sendAuth
      .next { s with twin := { s.twin with step := .auth, helloAt := s.clock.cd18 } }
  else
    let s := ((heard s).deriveKeys partner keys []).sendAuth
    .next { s with twin := { s.twin with step := .auth } }

/-- Payload of ROLE: role held, epoch, sequence persisted, unreplicated count, empty; then the positions of R421 (log 16). -/
def State.roleBytes (s : State) : Bytes :=
  le 1 s.twin.role.code ++ le 4 s.twin.epoch.toNat ++ le 8 s.twin.persistedSeq ++ le 4 s.twin.unreplicated.length ++
    le 1 (b2n s.twinEmpty) ++ s.tkSlots.flatMap (fun n => le 4 n ++ le 8 (s.slot n).counter)

/-- AUTH: the partner's certificate and signature are checked; ROLE follows. -/
def execAuth (session : BitVec 32) (counter : Nat) (cert : Bytes) (signature : Bytes) (s : State) : Answer :=
  match s.hear session counter with
  | none => .next s.twinDiscard
  | some s =>
    if s.twin.step ≠ .auth then .next s
    else if s.twin.agrees && sha384 cert == s.twin.partnerDigest && p384Holds (certPublic cert) s.twin.transcript signature then
      .next (({ s with twin := { s.twin with step := .role } }).twinSend 3 s.roleBytes)
    else .next (s.authFails 3)

/-! ### Roles (R413) and replication (R416) -/

/-- The change item that a kept number stands for, as the module holds it now. -/
def State.itemOf (s : State) (no : Nat) : Change1 :=
  if no < 0x20000 then (if (s.slot no).occupied then .slot no (s.slot no) else .emptied no (s.slot no).gen 0)
  else if no < 0x20400 then .master (no - 0x20000) ((tblGet s.heart.masters (no - 0x20000)).getD {})
  else .mark (no - 0x20400)

/-- An item's bytes in REPL. A native key carries the ceiling held for the receiver's half: 0 none, 1 current, 2 stale
(18 R461, 16 R419). -/
def State.replBytes (s : State) (item : Change1) : Bytes :=
  let base := item.bytes s.sched.tick
  match item with
  | .slot n _ =>
    match tblGet s.twin.ceilings n with
    | some (c, stale) => base ++ le 1 (if stale then 2 else 1) ++ le 8 c
    | none => base ++ le 9 0
  | _ => base

/-- Send one item under a sequence number. -/
def State.sendItem (s : State) (seq : Nat) (item : Change1) : State :=
  let s := { s with twin := { s.twin with awaiting := s.twin.awaiting ++ [(seq, item)] } }
  s.twinSend 5 (le 8 seq ++ s.replBytes item)

/-- Every persistent item (R416). -/
def State.syncItems (s : State) : List Change1 :=
  let slots := s.heart.slots.filter (fun p => !p.2.isExt && p.1 != attestSlot)
  slots.filterMap (fun p =>
      if p.2.occupied then (if p.2.persistent then some (Change1.slot p.1 p.2) else none)
      else if p.2.gen ≠ 0 then some (.emptied p.1 p.2.gen 0) else none) ++
    (s.heart.masters.filter (fun p => p.2.st == .loaded || p.2.st == .active)).map (fun p => Change1.master p.1 p.2)

/-- The next replication sequence. -/
def State.nextSeq (s : State) : State × Nat :=
  ({ s with twin := { s.twin with replSeq := s.twin.replSeq + 1 } }, s.twin.replSeq + 1)

/-- Marks that begin and end a full synchronisation (log entry 16). -/
def syncStart : Bytes := [6]
def syncEnd : Bytes := [7]

/-- A full synchronisation is sent. -/
def State.sendSync (s : State) : State :=
  let s := { s with twin := { s.twin with unreplicated := [] } }
  let (s, q) := s.nextSeq
  let s := s.twinSend 5 (le 8 q ++ syncStart)
  let s := s.each s.syncItems (fun s i =>
    let (s, q) := s.nextSeq
    s.sendItem q i)
  let (s, q) := s.nextSeq
  s.twinSend 5 (le 8 q ++ syncEnd)

/-- The primary resends from the sequence after the last that the partner persisted, or synchronises in full when it no
longer holds one of them. -/
def State.resend (s : State) (persisted : Nat) : State :=
  let kept := s.twin.unreplicated
  let covered := (List.range (s.twin.replSeq - persisted)).all (fun i => kept.any (fun a => a.seq == persisted + 1 + i))
  if !covered then s.sendSync
  else
    let s := { s with twin := { s.twin with unreplicated := [] } }
    s.each kept (fun s a =>
      if persisted < a.seq then s.sendItem a.seq (s.itemOf a.no) else s.modSlot a.no (fun x => { x with unreplicated := false }))

/-- The loser's unreplicated changes are discarded, each with its record and entry (R423, R424). -/
def State.discardAll (s : State) : State :=
  let gone := s.twin.unreplicated
  let s := { s with twin := { s.twin with unreplicated := [] } }
  s.each gone (fun s a =>
    if a.change = 0 then s else s.notify 0x0305 0xFF (le 4 a.handle ++ le 1 a.change ++ le 3 0 ++ le 8 a.seq))

/-- Whether this module is the primary after the ROLE exchange. Where R413 does not decide, identity 0 is (log entry 28). -/
def State.wins (s : State) (primaryHeld : Bool) (epoch : Nat) (partnerEmpty : Bool) : Bool :=
  if s.twinEmpty && partnerEmpty then !s.twin.identity
  else if s.twinEmpty != partnerEmpty then !s.twinEmpty
  else if s.twin.epoch.toNat ≠ epoch then decide (epoch < s.twin.epoch.toNat)
  else if s.twin.leads != primaryHeld then s.twin.leads
  else !s.twin.identity

/-- Use numbers start in no range at a session: A is the highest number that either module charged (R420, R421). -/
def State.joinRanges (s : State) (positions : List (Nat × Nat)) : State :=
  s.each s.tkSlots (fun s n =>
    let c := (s.slot n).counter
    let other := ((positions.find? (fun p => p.1 == n)).map (fun p => p.2)).getD 0
    s.setRange n { alloc := max c other, top := c })

/-- The session stands: role, epoch, and everything of an earlier session gone. -/
def Twin.stand (t : Twin) (prim : Bool) (epoch now tick : Nat) : Twin :=
  let t := { t with step := .session, leaseEnded := true, promoted := false, authFails := 0, slow := false, lossReason := 0 }
  let t := { t with ceilAcked := [], unacked := [], awaiting := [], rekeyPending := false, sessionAt := now, hbTick := tick }
  { t with role := if prim then .primary else .secondary, epoch := BitVec.ofNat 32 epoch }

/-- What the primary sends when a session stands: a full synchronisation, what the partner lacks, or nothing. -/
def State.bringUp (s : State) (sync : Bool) (persisted : Nat) : State :=
  if sync then s.sendSync
  else if s.twin.unreplicated.isEmpty && persisted == s.twin.replSeq then s
  else s.resend persisted

/-- The ROLE exchange is complete: roles and epoch are fixed by R413, and the session stands. -/
def State.formSession (s : State) (primaryHeld : Bool) (epoch persisted : Nat) (empty : Bool) (positions : List (Nat × Nat)) :
    State :=
  let own := s.twin.epoch.toNat
  let prim := s.wins primaryHeld epoch empty
  let single := s.twinEmpty != empty
  let both := s.twinEmpty && empty
  let differ := own != epoch && !single && !both
  let s := if differ && !prim then s.discardAll else s
  let seq := if prim then max s.twin.replSeq s.twin.persistedSeq else s.twin.replSeq
  let t := s.twin.stand prim (max own epoch + b2n single) s.clock.cd18 s.sched.tick
  let s := { s with twin := { t with partnerPersisted := persisted, replSeq := seq } }
  let s := (s.storeAdd (.pairing s.twin.pairing)).joinRanges positions
  let s := s.notify 0x0300 0xFF (le 1 s.twin.role.code ++ le 3 0 ++ le 4 s.twin.epoch.toNat ++ le 8 s.twin.partner.toNat)
  let s := if prim && !both then s.bringUp (single || differ) persisted else s
  let s := s.each s.nativeSlots (fun s n => s.sendCeil n (s.slot n).ceiling)
  s.each s.tkSlots (fun s n => s.rangeAfter n)

/-- ROLE. The partner's count of unreplicated changes does not enter R413. -/
def execRole (session : BitVec 32) (counter : Nat) (primaryHeld : Bool) (epoch : BitVec 32) (persisted : Nat)
    (_unreplicated : Nat) (empty : Bool) (positions : List (Nat × Nat)) (s : State) : Answer :=
  match s.hear session counter with
  | none => .next s.twinDiscard
  | some s =>
    if s.twin.step ≠ .role then .next s else .next (s.formSession primaryHeld epoch.toNat persisted empty positions)

/-! ### The end of an unpairing (R410, R421) -/

/-- L of a TK-48 key becomes the top of the numbers that the module may still charge (R421). -/
def State.settleRanges (s : State) : State :=
  s.each s.tkSlots (fun s n =>
    match tblGet s.twin.ranges n with
    | none => s
    | some r =>
      let top := max r.top r.nextTop
      (s.modSlot n (fun x => { x with limit := top })).setRange n { r with alloc := top, pending := false, wanted := false })

/-- Steps 2 and 3 of R410: CLOSE while a session stands, then SOLO with the identity and the keys. -/
def State.unpaired (s : State) (q : Req) : State :=
  let s := if s.twin.step = .session then
      let held := s.twin.ceilings
      let s := (s.twinSend 0x0B [1]).twinHalves
      { s with twin := { s.twin with ceilings := held } }
    else s
  let s := s.settleRanges
  let t := s.twin
  let s := { s with twin := {
    identity := t.identity, ranges := t.ranges, ceilings := t.ceilings, lanes := t.lanes, replies := t.replies
    step := if t.lanes = 0 then .down else .trained, discarded := t.discarded } }
  let s := { s with heart := { s.heart.anchor with slots := tblMap (fun _ x => { x with unreplicated := false }) s.heart.slots } }
  let s := s.storeTake (.pairing s.twin.pairing) q.io
  ((s.extend 4 (le 1 (b2n s.twin.identity))).releaseReplies).answer q 0x0801 (commitStatus q.io.flashOk) []

/-- An unpairing goes on once its ceilings are acknowledged, or the link is lost; an LC_CHANGE may have waited for the answers that a loss
released. -/
def State.unpairNext (s : State) : State :=
  match s.twin.unpairing with
  | none => s.changeNext
  | some q =>
    if s.twin.step = .session ∧ s.twin.unacked.any (fun u => !u.grant) then s
    else ({ s with twin := { s.twin with unpairing := none } }.unpaired q).changeNext

/-- Changes have been acknowledged: the anchor moves, and the answers that waited for them are written (R416). -/
def State.replicated (s : State) : State := s.anchored.releaseReplies.changeNext

/-! ### Heartbeats and loss (R414, R422) -/

/-- HEARTBEAT: counts as heard, and does not wake the module. -/
def execHeartbeat (session : BitVec 32) (counter : Nat) (s : State) : Answer :=
  let t := s.twin
  let restarts := t.hbFresh && counter == 1
  if session = t.session ∧ (restarts ∨ t.hbSeen < counter) ∧ t.step = .session then
    .next { s with twin := { t with
      hbSeen := counter, hbFresh := t.hbFresh && !restarts, hbTick := s.sched.tick, frameTick := s.sched.tick } }
  else .next s.twinDiscard

/-- HEARTBEAT_SEND: role code, twin epoch, DORMANT flag, every 1 ms of a session. -/
def execHeartbeatSend (s : State) : Answer :=
  if s.twin.step = .session then
    .next (s.twinSend 4 (le 1 s.twin.role.code ++ le 4 s.twin.epoch.toNat ++ le 1 (b2n s.dormant)))
  else .next s

/-- TWIN_LINK_LOSS: no frame for 5 ms, or no lock for 5 ms. -/
def loseLink (s : State) : Answer :=
  if s.twin.step = .session then .next ((s.wake).twinLoss 0).unpairNext else .next { s with twin := { s.twin with step := .down } }

/-- CLOSE: a loss with its reason. -/
def takeClose (session : BitVec 32) (counter : Nat) (reason : BitVec 8) (s : State) : Answer :=
  match s.hear session counter with
  | none => .next s.twinDiscard
  | some s => .next (s.twinLoss reason.toNat).unpairNext

/-- TWIN_LEASE_EXPIRY: the split primary's 600 s are over. -/
def execTwinLeaseExpiry (s : State) : Answer :=
  if s.twin.role = .splitPrimary ∧ !s.twin.leaseEnded ∧ !s.twin.promoted then
    .next (({ s with twin := { s.twin with leaseEnded := true } }).notify 0x0303 0xFF (le 4 0 ++ le 4 s.twin.epoch.toNat))
  else .next s

/-! ### Items received (R415, R416, R419) -/

/-- Set up a native key for this module's half (R419): the same key keeps its own position. -/
def ownHalf (old x : Slot) (flag held : Nat) : Slot :=
  if old.occupied && old.gen == x.gen && old.key == x.key then
    { x with counter := old.counter, ceiling := old.ceiling, drawLocked := old.drawLocked }
  else if flag = 1 then { x with counter := held, ceiling := held + x.block }
  else if flag = 2 then { x with counter := held, ceiling := held, drawLocked := true }
  else { x with counter := 0, ceiling := x.block }

/-- A slot item takes its place. -/
def State.placeSlot (s : State) (n : Nat) (x : Slot) (bs : Bytes) (persisted : Bool) : State :=
  let old := s.slot n
  let tail := bs.drop (40 + x.key.length)
  let same := old.occupied && old.gen == x.gen && old.key == x.key
  let y := if x.tk48 then { x with counter := if same then max old.counter x.counter else x.counter, ceiling := x.counter }
    else ownHalf old x (field tail 0 1) (field tail 1 8)
  let y := { y with persistent := persisted, unreplicated := false }
  let s := if old.occupied then s.emptySlot n else s
  let s := s.takeRecord n y
  if same then s else s.announce n

/-- Apply a change item to the caches. -/
def State.placeItem (s : State) (bs : Bytes) (persisted : Bool) : State :=
  match Change1.ofBytes bs s.sched.tick with
  | some (.slot n x) => s.placeSlot n x bs persisted
  | some (.emptied n g _) => s.takeEmpty n g
  | some (.master n m) => { s with heart := { s.heart with masters := tblSet s.heart.masters n m } }
  | some (.mark p) => { s with heart := { s.heart with rewrap := tblDel s.heart.rewrap p } }
  | _ => s

/-- The number of the change that an item's bytes make. -/
def State.noOf (s : State) (bs : Bytes) : Option Nat := (Change1.ofBytes bs s.sched.tick).map Change1.slotNo

/-- The synchronisation has ended: what it did not name is emptied (R416); generations stay (09 R235). -/
def State.endSync (s : State) (flashOk : Bool) : State :=
  let named := s.twin.named
  let slots := (s.heart.slots.filter (fun p =>
    p.2.occupied && !p.2.isExt && p.1 != attestSlot && !named.contains p.1)).map (fun p => p.1)
  let s := s.each slots (fun s n => (s.emptySlot n).commitItem (.emptied n (s.slot n).gen (s.slot n).partition) flashOk)
  let masters := tblMap (fun n m => if named.contains (0x20000 + n) then m else { gen := m.gen }) s.heart.masters
  let n := s.twin.synced
  let s := { s with
    heart := { s.heart with masters }
    twin := { s.twin with syncing := false, synced := 0, named := [] } }
  s.logEvent 0x0306 0xFF 0 0xFF (le 8 n)

/-- REPL: the secondary applies the item, journals it, and acknowledges it with whether it is persisted. -/
def execRepl (session : BitVec 32) (counter : Nat) (sequence : Nat) (item : Bytes) (flashOk : Bool) (s : State) : Answer :=
  match s.hear session counter with
  | none => .next s.twinDiscard
  | some s =>
    if s.twin.step ≠ .session ∨ s.twin.role ≠ .secondary then .next s
    else
      let s := if item = syncStart then { s with twin := { s.twin with syncing := true, synced := 0, named := [] } }
        else if item = syncEnd then s.endSync flashOk
        else
          let s := s.placeItem item flashOk
          let s := { s with twin := { s.twin with
            synced := s.twin.synced + b2n s.twin.syncing
            named := if s.twin.syncing then (s.noOf item).toList ++ s.twin.named else s.twin.named } }
          match s.noOf item with
          | some no => s.commitItem (s.itemOf no) flashOk
          | none => s
      let s := if flashOk then { s with twin := { s.twin with persistedSeq := sequence } } else s
      .next (s.twinSend 6 (le 8 sequence ++ le 1 (b2n flashOk)))

/-- The number with which CEIL and GRANT frames are acknowledged: their counter, with bit 63 set (log entry 16). -/
def frameAck (counter : Nat) : Nat := 2 ^ 63 + counter

/-- An allocation has been acknowledged; a request that waited is served. -/
def State.granted (s : State) (n : Nat) : State :=
  match tblGet s.twin.ranges n with
  | none => s
  | some r =>
    let s := s.setRange n { r with pending := false }
    if r.wanted then s.allocate n true else (s.rangeAfter n).ceilingAfter n

/-- ACK: of a REPL, a CEIL or a GRANT. -/
def takeAck (session : BitVec 32) (counter : Nat) (sequence : Nat) (persisted : Bool) (s : State) : Answer :=
  match s.hear session counter with
  | none => .next s.twinDiscard
  | some s =>
    match s.twin.awaiting.find? (fun a => a.1 == sequence), s.twin.unacked.find? (fun a => frameAck a.counter == sequence) with
    | some a, _ =>
      let s := { s with twin := { s.twin with
        awaiting := s.twin.awaiting.filter (fun b => b.1 != sequence)
        partnerPersisted := if persisted then sequence else s.twin.partnerPersisted } }
      match a.2 with
      | .slot n _ => .next (if (s.slot n).occupied then s.modSlot n (fun x => { x with unreplicated := false }) else s).replicated
      | _ => .next s.replicated
    | none, some u =>
      let s := { s with twin := { s.twin with unacked := s.twin.unacked.filter (fun b => b.counter != u.counter) } }
      if u.grant then .next (s.granted u.slot)
      else
        let v := max u.value ((tblGet s.twin.ceilAcked u.slot).getD 0)
        .next { s with twin := { s.twin with ceilAcked := tblSet s.twin.ceilAcked u.slot v } }.unpairNext
    | none, none => .next s

/-! ### Counters (R418, R420) -/

/-- CEIL: the partner's new ceiling is held, and acknowledged. -/
def execCeil (session : BitVec 32) (counter : Nat) (handle : BitVec 32) (ceiling : BitVec 64) (s : State) : Answer :=
  match s.hear session counter with
  | none => .next s.twinDiscard
  | some s =>
    if s.twin.step ≠ .session then .next s
    else
      let n := handleSlot handle
      let s := { s with twin := { s.twin with ceilings := tblSet s.twin.ceilings n (ceiling.toNat, false) } }
      .next (s.twinSend 6 (le 8 (frameAck counter) ++ le 1 1))

/-- GRANT: an allocation of the primary, to the receiver or to the primary itself. -/
def execGrant (session : BitVec 32) (counter : Nat) (handle : BitVec 32) (first last : BitVec 64) (toReceiver : Bool)
    (s : State) : Answer :=
  match s.hear session counter with
  | none => .next s.twinDiscard
  | some s =>
    if s.twin.step ≠ .session ∨ s.twin.role ≠ .secondary then .next s
    else
      let n := handleSlot handle
      let r := (tblGet s.twin.ranges n).getD {}
      let r := { r with alloc := max r.alloc last.toNat }
      let r := if toReceiver then { r with nextFirst := first.toNat, nextTop := last.toNat, pending := false } else r
      .next (((s.setRange n r).twinSend 6 (le 8 (frameAck counter) ++ le 1 1)).ceilingAfter n)

/-- REQ: the secondary needs a range; the primary allocates it, after a pending allocation. -/
def execReq (session : BitVec 32) (counter : Nat) (handle : BitVec 32) (s : State) : Answer :=
  match s.hear session counter with
  | none => .next s.twinDiscard
  | some s =>
    let n := handleSlot handle
    if s.twin.step ≠ .session ∨ s.twin.role ≠ .primary then .next s
    else
      match tblGet s.twin.ranges n with
      | none => .next s
      | some r => if r.pending then .next (s.setRange n { r with wanted := true }) else .next (s.allocate n true)

/-! ### Rekeying (R412) -/

/-- Send REKEY with fresh ephemeral keys, or none while the draw waits (10 R274); outside NORMAL and after the fatal Seed alarm the
module closes the session (18 R461). -/
def State.rekey (s : State) (partnerKem : Bytes) : Option State :=
  if s.seed.mode != .normal || s.seed.fail then some ((s.twinSend 0x0B [4]).twinLoss 4).unpairNext
  else (s.twinEphemeral 0x0A partnerKem).map (fun s =>
    ({ s with twin := { s.twin with rekeyPending := true } }).twinSend 0x0A s.twin.helloPayload)

/-- Both REKEY frames are there: each module uses the new keys from now on (R412). -/
def State.rekeyed (s : State) (counter : Nat) (keys : Bytes) : State :=
  let payload := le 8 s.twin.partner.toNat ++ le 1 (b2n (!s.twin.identity)) ++ padTo 16 s.twin.domain ++ keys
  let s := s.deriveKeys (frameHead 0x0A payload.length counter s.twin.session.toNat ++ payload) keys s.twin.transcript
  { s with twin := { s.twin with
    rekeyPending := false, rekeyWaits := false, rekeyIn := none, fresh := true, hbFresh := true, sessionAt := s.clock.cd18 } }

/-- The responder answers a REKEY with its own. -/
def State.rekeyBack (s : State) (counter : Nat) (keys : Bytes) : State :=
  match s.rekey (keys.drop 97) with
  | none => { s with twin := { s.twin with rekeyIn := some (counter, keys) } }
  | some s => if s.twin.step = .session then s.rekeyed counter keys else s

/-- The initiator's rekey has fallen due. In DORMANT it waits for the wake (R412). -/
def State.rekeyOut (s : State) : State :=
  if s.dormant then { s with twin := { s.twin with rekeyWaits := true } }
  else (s.rekey []).getD { s with twin := { s.twin with rekeyWaits := true } }

/-- A rekey that has waited, for the wake or for Seed, is tried again. -/
def State.rekeyRetry (s : State) : State :=
  if s.twin.step ≠ .session ∨ s.dormant then s
  else match s.twin.rekeyIn with
    | some (counter, keys) => s.rekeyBack counter keys
    | none => if s.twin.rekeyWaits ∧ !s.twin.rekeyPending then s.rekeyOut else s

/-- TWIN_REKEY_DUE: 3,600 s or 2^40 frames. The responder's part needs the initiator's encapsulation key, so that the initiator begins
(log entry 27). -/
def execTwinRekeyDue (s : State) : Answer :=
  if s.twin.step ≠ .session ∨ s.twin.rekeyPending ∨ s.twin.identity then .next s else .next s.rekeyOut

/-- REKEY: the partner's ephemeral keys; the responder sends its own, and each uses the new keys from now on. -/
def execRekey (session : BitVec 32) (counter : Nat) (keys : Bytes) (s : State) : Answer :=
  match s.hear session counter with
  | none => .next s.twinDiscard
  | some s =>
    if s.twin.step ≠ .session ∨ !s.twin.keysOk keys ∨ (!s.twin.identity ∧ !s.twin.rekeyPending) then .next s
    else .next (if s.twin.identity then s.rekeyBack counter keys else s.rekeyed counter keys)

/-! ### The commands (R409, R410, R423) -/

def statesBOM : List Life := [.blank, .operational, .maintenance]

def cmdTwinPair : Cmd :=
  { code := 0x0801, roles := [.officer], zero := true, states := statesBOM, cellJob := false
    bytes := [(8, 1), (16, 12)] }

/-- The pairing statement of a set, its last 228 bytes (R409). -/
def statement (set : Bytes) : Bytes := set.drop (set.length - 228)

/-- The checks of R409 for the module as identity `id`. -/
def State.setOk (s : State) (set : Bytes) (id : Nat) : Bool :=
  let d := statement set
  decide (228 < set.length) && field d 0 2 == 1 && field d (20 + 56 * id) 8 == Config.serial.toNat &&
    piece d (28 + 56 * id) 48 == sha384 s.trunk.devidCert && field d 20 8 != field d 76 8 &&
    p384Holds (certPublic (set.take (set.length - 228))) (d.take 132) (piece d 132 96)

/-- A module whose identity changes sets its native keys up for its new half (R419). -/
def State.changeIdentity (s : State) (id : Bool) : State :=
  if s.twin.identity = id then s
  else
    let s := s.each s.nativeSlots (fun s n =>
      let x := s.slot n
      let y := match tblGet s.twin.ceilings n with
        | none => { x with counter := 0, ceiling := x.block }
        | some (c, false) => { x with counter := c, ceiling := c + x.block }
        | some (_, true) => { x with drawLocked := true }
      s.setSlot n y)
    { s with twin := { s.twin with identity := id } }

/-- A partition holds a key or a master key. -/
def State.holdsKeys (s : State) : Bool :=
  s.heart.slots.any (fun p => p.2.occupied && p.1 != attestSlot) || s.heart.masters.any (fun p => p.2.st != .empty)

/-- TWIN_PAIR operations 0 and 1. -/
def State.pair (s : State) (q : Req) (op : Nat) : Answer :=
  let n := q.b 24 4
  s.command q cmdTwinPair { params := q.b 8 1 == op, lengths := decide (1 ≤ n ∧ n ≤ 16384) } (fun s =>
    let s := s.emit (.hostRead q.fn.toNat (q.b 16 8) n)
    match q.io.object with
    | none => s.fails .malformedEntry
    | some bs =>
      let set := padTo n bs
      if s.twin.paired || (op == 1 && s.holdsKeys) then s.fails .stateRefused
      else if !s.setOk set op then s.fails .badParameter
      else if s.extensionsFull then s.fails .noResource
      else
        let d := statement set
        let other := 1 - op
        let s := s.changeIdentity (op == 1)
        let s := { s with twin := { s.twin with
          role := if op = 0 then .primary else .secondary, epoch := if op = 0 then 1 else 0, set, domain := piece d 4 16
          partner := BitVec.ofNat 64 (field d (20 + 56 * other) 8), partnerDigest := piece d (28 + 56 * other) 48
          promoted := false, leaseEnded := true, lossAt := s.clock.cd18 } }
        let s := s.extend 4 (set ++ le 1 op)
        (s.storeTake (.pairing s.twin.pairing) q.io, commitStatus q.io.flashOk, []))

/-- TWIN_PAIR operation 0: pair as PRIMARY. -/
def execTwinPairPrimary (q : Req) (s : State) : Answer := s.pair q 0
/-- TWIN_PAIR operation 1: pair as SECONDARY, with no key in any partition. -/
def execTwinPairSecondary (q : Req) (s : State) : Answer := s.pair q 1

/-- TWIN_PAIR operation 2: in a session, CEIL for every native key first; then CLOSE, SOLO. -/
def execTwinUnpair (q : Req) (s : State) : Answer :=
  match s.precheck q cmdTwinPair { params := q.b 8 1 == 2 } with
  | .error a => a
  | .ok s =>
    if !s.twin.paired || s.twin.unpairing.isSome then .next (s.answer q 0x0801 .stateRefused [])
    else if s.extensionsFull then .next (s.answer q 0x0801 .noResource [])
    else
      let s := if s.twin.step = .session then s.each s.nativeSlots (fun s n => s.sendCeil n (s.slot n).ceiling) else s
      .next { s with twin := { s.twin with unpairing := some q } }.unpairNext

def cmdTwinStatus : Cmd :=
  { code := 0x0802, roles := [.host], zero := false, states := everyState, cellJob := false, bytes := [] }

/-- TWIN_STATUS. -/
def execTwinStatus (q : Req) (s : State) : Answer :=
  s.command q cmdTwinStatus {} (fun s =>
    s.succeeds (le 1 s.twin.role.code ++ le 1 (b2n (s.twin.step == .session)) ++ le 4 s.twin.epoch.toNat ++
      le 4 s.twin.unreplicated.length ++ le 6 s.twin.hbTick))

def cmdTwinPromote : Cmd :=
  { code := 0x0803, roles := [.officer], zero := true, states := statesOM, cellJob := false, bytes := [(8, 4)] }

/-- TWIN_PROMOTE: 601 s after the loss, or after a start in split role. -/
def execTwinPromote (q : Req) (s : State) : Answer :=
  let e := q.b 8 4
  s.command q cmdTwinPromote {} (fun s =>
    if s.twin.role ≠ .splitSecondary ∨ s.since s.twin.lossAt < 601 * second then s.fails .stateRefused
    else if e ≠ s.twin.epoch.toNat then s.fails .badParameter
    else
      let n : BitVec 32 := BitVec.ofNat 32 (e + 1)
      let s := { s with twin := { s.twin with
        epoch := n, role := .splitPrimary, promoted := true, leaseEnded := true
        replSeq := max s.twin.replSeq s.twin.persistedSeq } }
      let s := s.storeTake (.pairing s.twin.pairing) q.io
      (s.notify 0x0304 0xFF (le 4 0 ++ le 4 n.toNat), commitStatus q.io.flashOk, le 4 n.toNat))

end Sys2Proof.Machine
end

