-- ==== Sys2Proof/Machine/Boot.lean ====
section
/-! DEFINITION. PERST#, power, start-up and the wake from DORMANT (03 R100, 13 R347 to R351, 15 R403, R404, 18 R459, 19 R464
to R467). -/

namespace Sys2Proof.Machine

/-! ### Writing the ring log out (R100, 15 R404) -/

/-- Records kept in trunk SRAM during DORMANT go the way of others (15 R388). -/
def State.admitEarly (s : State) : State :=
  if s.log.reopened then
    let early := s.log.early
    ({ s with log := { s.log with early := [] } }).each early (fun s r => s.acceptRec r)
  else s

/-- `n` of the waiting records are written. -/
def State.flushRecords : Nat → State → State
  | 0, s => s
  | n + 1, s => State.flushRecords n s.writeRecord

/-- Checkpoints that wait are written. -/
def State.flushCheckpoints (s : State) : State :=
  let s := s.each s.log.ckptQueue (fun s c => (s.firstUnit c).secondUnit c)
  { s with log := { s.log with ckptQueue := [] } }

/-- Write `n` of the waiting records; one LOG_LOST record covers the others. -/
def State.writeOut (s : State) (flags n : Nat) : State :=
  let flagged (r : Rec) : Rec := if flags = flagHoldUp && !bit r.flags 6 then { r with flags := r.flags + flagHoldUp } else r
  let s := State.flushRecords n { s with log := { s.log with waiting := s.log.waiting.map flagged } }
  match s.log.waiting with
  | [] => s
  | r :: rest =>
    let s := { s with log := { s.log with waiting := [], lost := 0, firstLoss := 0 } }
    let l := s.record 0x0902 0xFF 0 0xFF (flagSummary + flags)
      (le 4 (s.log.lost + rest.length + 1) ++ le 4 (if s.log.lost = 0 then r.op else s.log.firstLoss))
    let (s, l) := s.numbered l
    { s with log := { s.log with waiting := [l] } }.writeRecord

/-- The trunk runs again, so that what waits can be committed. -/
def State.ungate (s : State) : State := { s with trunk := { s.trunk with power := if s.sched.cap = 0 then .full else .capped } }

/-- The trunk's part of both ways into reset: the open record is committed, and the waiting records follow. -/
def State.closeLog (s : State) (flags : Nat) : State :=
  let s := (if s.dormant then s.ungate else s).admitEarly
  s.commitOpen flags

/-- Records that 10 ms leave room for: at least 36 at 0.26 ms each, the others as fast as flash was (log entry 3). -/
def State.writtenInTime (s : State) : State × Nat :=
  let n := s.log.waiting.length
  if n ≤ 36 then (s, n) else (s.drawn, 36 + s.freeNat % (n - 35))

/-- PERST_ASSERT: the host interface enters reset, so that nothing more leaves through it; the jobs that run end (09 R263), the ring log is
written out, then the module resets. During a shutdown the shutdown completes first (19 R486). -/
def execPerstAssert (s : State) : Answer :=
  if !s.trunk.powerGood || s.trunk.shutdown then .next { s with trunk := { s.trunk with perst := true } }
  else
    let out := s.out
    let s := (s.haltRunning true).stopFlash
    let s := if s.log.reopened then
        let (s, n) := (s.flushCheckpoints.closeLog 0).writtenInTime
        s.writeOut 0 n
      else s
    let s := { s with out }.resetWipe
    .next { s with trunk := { s.trunk with perst := true, numVfs := 0 } }

/-! ### Main power (R404, 19 R464 to R466) -/

/-- POWER_GOOD: VIN has been good for 10 ms and the store is charged; MADDR is sampled. -/
def execPowerGood (maddr : Bool) (m : Meters) (s : State) : Answer :=
  if s.trunk.powerGood then .next s
  else .next { s with
    trunk := { s.trunk with powerGood := true, maddr, bootCode := 0 }
    elec := { s.elec with m } }

/-- Roots are signed and posted as far as the hold-up leaves time; the others are lost (05 R146). -/
def State.postRootsFor (s : State) (n : Nat) : State :=
  let all := s.parts.flatMap (fun p => p.2.closing.map (fun _ => p.1))
  let s := s.each (all.take n) (fun s p => s.postRoot p)
  { s with parts := tblMap (fun _ x => { x with closing := [] }) s.parts }

/-- POWER_FAIL_WARNING: the steps of R404, with the records and roots that the hold-up leaves time for. In DORMANT the tick that is recorded
is the one that wall time gives (02 R37). -/
def execPowerFailWarning (writable : Nat) (signable : Nat) (s : State) : Answer :=
  if !s.trunk.powerGood || s.trunk.shutdown then .next s
  else
    let s := { s with elec := { s.elec with lockUntil := none } }.stopFlash
    let s := if s.log.reopened then
        let s := if s.dormant then { s with sched := s.sched.advance s.clock.cd18 } else s
        let s := (s.closeLog flagHoldUp).writeCheckpoint 2 s.sched.tick
        let s := s.closeTrees s.sched.windowOpen s.sched.tick true
        (s.postRootsFor signable).writeOut flagHoldUp writable
      else s
    .next { s with
      trunk := { s.trunk with shutdown := true, waking := false, bootCode := 0x1F }
      sched := { s.sched with running := false } }

/-- SHUTDOWN_IDLE: flash is idle, and the module holds itself in reset until input power is good again. -/
def execShutdownIdle (s : State) : Answer :=
  if s.trunk.shutdown then
    let s := (s.haltRunning false).resetWipe
    .next { s with trunk := { s.trunk with shutdown := false, powerGood := false, numVfs := 0 } }
  else .next s

/-! ### Parts of the start (R347 to R351) -/

/-- Start-up does not reach READY (R348). -/
def State.bootFails (s : State) (code : Nat) : State :=
  { s with trunk := { s.trunk with starting := false, bootCode := BitVec.ofNat 8 code } }

/-- Start-up has reached a step: codes 0x01 for t0 to 0x08 for t7 (19 R472). -/
def State.bootStep (s : State) (code : Nat) : State := { s with trunk := { s.trunk with bootCode := BitVec.ofNat 8 code } }

/-- The keys that the trunk draws at a reset, before the groves leave it and DRAM is zero-filled (01 R12, R22). -/
def State.drawResetKeys (s : State) : State :=
  match s.trunkTake trunkKeyLen with
  | some (s, k) => { s with trunk := { s.trunk with resetKeys := k } }
  | none => s

/-- The code that at least two copies with a valid CMAC agree on, if it is one of the seven (R339). -/
def State.lifeVote (s : State) : Option Life :=
  let good := s.trunk.lifeCopies.filter (fun c => c.mac == some c.code)
  (good.find? (fun c => decide (2 ≤ (good.filter (fun d => d.code == c.code)).length))).bind (fun c => Life.ofCode c.code.toNat)

/-- R339: without two copies that agree, the invalid-state alarm, the zeroisation of a change into RETIRED, and RETIRED, in which RDP is not 0
(R338). No rule has the copies written. The alarm's detail is open (log entry 3). -/
def State.lifeLost (s : State) : State :=
  ((s.drawn.alarmGroup [{ source := 22, detailA := BitVec.ofNat 32 s.freeNat, detailB := 0 }]).zeroise).takeLife .retired

/-- t1: the copies are read, and the state that they agree on is the module's (R339, R342). -/
def State.readLife (s : State) (read : List (Nat × LifeCopy)) : State :=
  let s := s.each read (fun s r => { s with trunk := { s.trunk with lifeCopies := s.trunk.lifeCopies.set r.1 r.2 } })
  match s.lifeVote with
  | none => s.lifeLost
  | some l => if l = s.life then s else s.takeLife l

/-- An unfinished erase of bank `b` is made again. A sector that no usable one has is a refreshed one, and a free replacement now (R379). -/
def State.resumeErase (s : State) (b p : Nat) : State :=
  let s := s.eraseContents b p
  let x := s.bank b
  let x := { x.clearMark p with free := if (x.logical p).isNone then insertFree p x.free else x.free }
  (s.setBank b x).logEvent 0x0907 b 0 0xFF (le 2 p)

/-- t2: every sector whose flag word has no clear mark is erased again (15 R381). -/
def State.resumeErases (s : State) : State :=
  s.each (List.range 4) (fun s b => s.each (s.bank b).unfinished (fun s p => s.resumeErase b p))

/-- A PENDING image that has had its three starts is REJECTED; another start counts (R350). -/
def Image.start (x : Image) : Image :=
  if x.boot = .pending then (if 3 ≤ x.starts then { x with boot := .rejected } else { x with starts := x.starts + 1 }) else x

/-- Bank 1's image is selected first: it is PENDING, or bank 0's is neither PENDING nor ACTIVE. -/
def selectsB (a b : Image) : Bool := b.boot == .pending || (a.boot != .pending && b.boot == .active && a.boot != .active)

/-- t4: the image that runs, or none. `true` is bank 1. `readA` and `readB`: the images read without UNCORRECTABLE. -/
def State.selectImage (s : State) (readA readB : Bool) : State × Option Bool :=
  let a : Image := s.trunk.imageA.start
  let b : Image := s.trunk.imageB.start
  let s := { s with trunk := { s.trunk with imageA := a, imageB := b } }
  let okA : Bool := readA && s.verifies a
  let okB : Bool := readB && s.verifies b
  let first := selectsB a b
  if (if first then okB else okA) = true then (s, some first)
  else if (if first then okA else okB) = true then (s.notify 0x0204 0xFF (le 1 (b2n first)), some (!first))
  else (s, none)

/-- The image that runs is measured into MREG0 (R353). -/
def State.measureImage (s : State) : State :=
  let d := (List.range 48).map (Config.measured 0)
  ((s.extend 0 d).extend 0 s.image.header).extend 0 s.image.bodyDigest

/-- The recovery firmware starts: it executes in place, and measures itself (R352, 15 R384). The bytes of one that no FW_UPDATE wrote are open
(log entry 7). -/
def State.runRecovery (s : State) : State :=
  let s := { s with trunk := { s.trunk with runRecovery := true }, flash := { s.flash with xip := true } }
  (s.measureImage).extend 6 (s.image.stored.getD ((List.range 48).map (Config.measured 3)))

/-- t4. The state, or the boot-progress code of a failure. -/
def State.bootImage (s : State) (r : BootResult) : State × Option Nat :=
  let recover (s : State) : State × Option Nat :=
    if r.recovery && s.verifies s.trunk.recovery then (s.runRecovery, none) else (s, some 0x15)
  if s.life = .recovery then recover s
  else
    match s.selectImage r.imageA r.imageB with
    | (s, some b) =>
      let s := { s with trunk := { s.trunk with runB := b } }
      (s.measureImage, none)
    | (s, none) =>
      if s.life = .operational ∨ s.life = .maintenance then
        recover (((s.enterLife .recovery).notify 0x0205 0xFF (le 1 0xFF)).bootStep 0x14)
      else (s, some 0x15)

/-- Power a grove up with wiped memory; its generator is instantiated (R347 t5, 10 R281). -/
def State.groveUp (s : State) (g : Bool) : State :=
  let s := s.wipeGrove g
  let s := s.modGrove g (fun y => { y with powered := true, linkUp := true })
  if s.seedAlive then s.feedFree (if g then 2 else 1) else s

/-- t5: the groves leave reset, and the leaf kernel and the microprogram store are measured. -/
def State.bootGroves (s : State) (packageBad : List Nat) : State :=
  let s := (((s.groveUp false).groveUp true).installPackages false packageBad).installPackages true packageBad
  (s.extend 1 ((List.range Config.leafKernelLength).map Config.leafKernel)).extend 1 ((List.range 48).map (Config.measured 2))

/-- Every named cell has made its self-test: those that failed are FAILED, a grove without a passing cell is lost (R348). -/
def State.testCells (s : State) (g : Bool) (cells failed : List Nat) : State :=
  let s := s.each cells (fun s c =>
    if failed.contains c then s.failCell c else s.modCell c (fun x => { x with st := .idle, plansFrom := 0 }))
  if (s.ableCells g).isEmpty then s.loseGrove g else s

/-! ### Heartwood's image (09 R255) -/

/-- The records of a partition that a master key on its way out still wraps are to be re-wrapped (R261). -/
def State.resumeRewrap (s : State) (p : Nat) : State :=
  let ms := (List.range 8).map (s.master p)
  if ms.any (fun m => m.st == .active) ∧ ms.any (fun m => m.depends) then
    { s with heart := { s.heart with rewrap := tblSet s.heart.rewrap p (s.records p) } }
  else s

/-- One item of the journal is applied to the caches. A record that stands under the active key is off its partition's list. -/
def State.replayItem (s : State) (i : Change1) : State :=
  match i with
  | .slot n x =>
    let todo := ((tblGet s.heart.rewrap x.partition).map (fun l => l.filter (· != n)))
    let s := match todo with
      | some l => { s with heart := { s.heart with rewrap := tblSet s.heart.rewrap x.partition l } }
      | none => s
    s.takeRecord n { x with occupied := true, persistent := true, unreplicated := false, commitFailed := false }
  | .emptied n g _ => s.takeEmpty n g
  | .master n m =>
    let gen := if m.st = .empty then max m.gen (s.master (n / 8) (n % 8)).gen else m.gen
    ({ s with heart := { s.heart with masters := tblSet s.heart.masters n { m with gen } } }).resumeRewrap (n / 8)
  | .ceiling n c => if (s.slot n).occupied then s.modSlot n (fun x => { x with ceiling := c }) else s
  | .mark p =>
    let s := (List.range 8).foldl (fun s i => s.setMaster p i { s.master p i with depends := false }) s
    { s with heart := { s.heart with rewrap := tblDel s.heart.rewrap p } }
  | .snapStart => s
  | .snapEnd => s

/-- Entries that apply: in sequence order while each verifies, up to one past the anchor. -/
def Heart.applies (h : Heart) : List JEntry :=
  (h.journal.takeWhile (fun e => e.good && e.image == h.bbkr.image)).filter (fun e => decide (e.seq ≤ h.bbkr.seq + 1))

/-- After a reset a key issues above its committed ceiling, and TK-48 numbers up to it count as charged (R250, R251). -/
def Slot.restart (x : Slot) : Slot :=
  if x.occupied && !x.isExt then
    let c := if x.tk48 then min x.ceiling x.limit else x.ceiling
    { x with counter := c, ceiling := c }
  else x

/-- t7: heartwood loads its image, or starts with empty caches and has the journal area erased. The anchor moves to the last entry that
applies, the others are ignored; a key whose block the restart leaves used up has its next ceiling committed (R250). -/
def State.loadImage (s : State) (ok : Bool) : State :=
  let es := s.heart.applies
  let anchored := es.any (fun e => e.seq == s.heart.bbkr.seq && e.chain == s.heart.bbkr.chain)
  if ok && s.heart.bbkr.image != [] && anchored then
    let s := s.each es (fun s e => s.each e.items State.replayItem)
    let s := s.each s.twin.unreplicated (fun s a =>
      if (s.slot a.no).occupied then s.modSlot a.no (fun x => { x with unreplicated := true }) else s)
    let s := { s with heart := ({ s.heart with
      serving := true, journal := es, slots := tblMap (fun _ x => x.restart) s.heart.slots }).anchor }
    let issuers := (s.heart.slots.filter (fun p => p.2.occupied && !p.2.isExt)).map (fun p => p.1)
    s.each issuers (fun s n => s.ceilingAfter n)
  else
    let s := { s with heart := { s.heart with serving := true, rewrap := [], bbkr := {}, erasing := true } }
    s.notify 0x0206 0xFF []

/-! ### t7 and READY -/

/-- The always-on registers are written from the configuration store (14 R371). -/
def Bark.fromStore (b : Bark) (stored : Tbl (Nat × List Cls)) : Bark :=
  let b := { b with cls := [] }
  (List.range 28).foldl (fun (b : Bark) (i : Nat) =>
    match tblGet stored i with
    | some (mode, cs) => b.configure i mode cs
    | none => b.configure i 0 (List.replicate 4 (sourceRow i).default)) b

/-- MREG2 to MREG5 take their start-up values (R353). -/
def State.measureRest (s : State) : State :=
  let s := s.each s.image.customs (fun s c => s.extend 2 c.package)
  ((s.extend 3 (sha384 s.enrolments)).extend 4 (s.twin.set ++ le 1 (b2n s.twin.identity))).extend 5 [0]

/-- The power-cycle count is exhausted (15 R390). -/
def State.cyclesGone (s : State) : Bool :=
  match s.log.ckpts with
  | c :: _ => decide (0xFFFFFF ≤ c.cycle + 1)
  | [] => false

/-- t7. In RECOVERY heartwood is left out; the receipt series, which nothing uses there, resume all the same, so that the checkpoints of
a RECOVERY hold no number that was never recorded (05 R147). -/
def State.bootLast (s : State) (r : BootResult) : State :=
  let s := if s.trunk.runRecovery then s else s.loadImage r.journalOk
  let s := { s with bark := { s.bark.fromStore s.stored.bark with alcs := BitVec.ofNat 16 s.life.code } }
  let s := s.measureRest.reopen
  { s with twin := { s.twin with lossAt := s.clock.cd18 } }.tagRefresh

/-- t5 to t7. -/
def State.bootModule (s : State) (r : BootResult) : State :=
  if !r.dramOk then s.bootFails 0x16
  else
    let s := if s.trunk.runRecovery then s else s.bootGroves r.packageBad
    match r.katFail with
    | some code => ((s.logEvent 0x0705 0xFF 0 0xFF (le 2 code)).reopen).bootFails 0x17
    | none =>
      let s := if s.trunk.runRecovery then s
        else (s.testCells false (cellsOf false) r.cellFail).testCells true (cellsOf true) r.cellFail
      if s.cyclesGone then s.bootFails 0x18
      else
        (s.bootLast r).bootStep (if s.trunk.bootCode = 0x14 then 0x14 else 8)

/-- START_UP: t0 to t7. Input power is good, and PERST# is deasserted with this command at the latest. -/
def execStartUp (r : BootResult) (s : State) : Answer :=
  if !s.trunk.powerGood || s.trunk.shutdown || s.trunk.bootCode != 0 then .next s
  else
    let s := { s with trunk := { s.trunk with perst := false, starting := true, bootCode := 1 } }
    if !r.romOk then .next (s.bootFails 0x11)
    else
      let s := (s.readLife r.lifeRead).resumeErases
      if !r.seedOk then .next ((s.drawn.seedBlockRecord (1 + s.freeNat % 2)).bootFails 0x13)
      else
        let s := (s.sourceStarts.feedFree 0).drawResetKeys.seedLoops
        match s.bootImage r with
        | (s, some code) => .next (s.bootFails code)
        | (s, none) =>
          .next (s.bootModule r)

/-- READY_RAISED: t8. READY rises, a PENDING image becomes ACTIVE and the other INACTIVE, the fuse minimum rises (R350, R351). -/
def execReadyRaised (s : State) : Answer :=
  if s.trunk.starting && (s.trunk.bootCode == 8 || s.trunk.bootCode == 0x14) then
    let t := s.trunk
    let pending := s.image.boot == .pending
    let a := if pending then { t.imageA with boot := if t.runB then .inactive else .active } else t.imageA
    let b := if pending then { t.imageB with boot := if t.runB then .active else .inactive } else t.imageB
    let min := max t.minSecver s.image.secver
    .next { s with
      trunk := { t with ready := true, starting := false, bootCode := 0x0F, imageA := a, imageB := b, minSecver := min }
      sched := { s.sched with running := true, boundaryAt := s.clock.cd18 } }
  else .next s

/-! ### The wake (18 R459) -/

/-- A grove that the wake brings back: neither lost nor drained as a whole. -/
def State.wakesGrove (s : State) (g : Bool) : Bool :=
  !(s.grove g).lost && !(cellsOf g).all (fun c => [CellSt.drained, .failed].contains (s.cell c).st)

/-- t2 to t4 for one grove. -/
def State.wakeGrove (s : State) (g : Bool) (failed packageBad : List Nat) : State :=
  if s.wakesGrove g then
    let s := (s.groveUp g).installPackages g packageBad
    let cells := (cellsOf g).filter (fun c => !([CellSt.drained, .failed].contains (s.cell c).st))
    s.testCells g cells failed
  else s

/-- t0, t1: the source restarts, four blocks pass and the trunk's generator is instantiated; after the fatal alarm the blocks are tested
all the same. A block that fails in the start-up is recorded, stops the source, and is fatal (10 R268 to R270, R281). Which test it fails
is free. -/
def State.wakeSeed (s : State) (ok : Bool) : State :=
  if ok then
    let s := s.sourceStarts
    if s.seed.fail then s else s.feedFree 0
  else
    let s := { s with seed := { s.seed with source := true, starting := true, startPassed := 0, run := 0 } }
    s.drawn.failBlock (1 + s.freeNat % 2)

/-- WAKE_COMPLETE: t6 has come. Waiting reads are answered, and the index records of rung doorbells are read. -/
def execWakeComplete (seedOk : Bool) (cellFail : List Nat) (packageBad : List Nat) (s : State) : Answer :=
  if s.dormant && s.trunk.waking && !s.trunk.shutdown then
    let s := s.ungate
    let s := { s with trunk := { s.trunk with waking := false } }
    let s := (s.admitEarly).wakeSeed seedOk
    let s := (s.wakeGrove false cellFail packageBad).wakeGrove true cellFail packageBad
    let s := { s with sched := { s.sched.advance s.clock.cd18 with running := true } }
    let rung := s.trunk.rung
    let reads := s.trunk.reads
    let s := { s with trunk := { s.trunk with rung := [], reads := [] } }
    let s := s.each allFns (fun s f => s.svcServe f)
    let s := s.rekeyRetry
    let s := s.each rung (fun s d => s.ringQueue d.1 d.2.1 d.2.2)
    let busy := s.fns.flatMap (fun p => (p.2.mbox.filter (fun b => b.2.state == .busy)).map (fun b => (p.1, b.1)))
    let s := s.each busy (fun s b => s.readRequest b.1 b.2)
    .next (s.each reads (fun s d => s.barRead d.1 d.2))
  else .next s

end Sys2Proof.Machine
end

