-- ==== Sys2Proof/Machine/Media.lean ====
section
/-! DEFINITION. The card slots and the antenna (17): MEDIA_FORMAT, MEDIA_STATUS, MEDIA_RELEASE and SET_RF, insertion and
removal, the watch, the external field, and the built-in tag. -/

namespace Sys2Proof.Machine

/-! ### Media commands (04 R112, R117, 17 R437) -/

def cmdMediaFormat : Cmd :=
  { code := 0x0A03, roles := [.operator], zero := true
    states := [.factory, .blank, .operational, .maintenance, .recovery], cellJob := false, bytes := [(8, 1)] }

/-- A new header is written: an empty volume under a fresh identifier. -/
def State.format (s : State) (id : Bytes) : State :=
  { s with sd := { s.sd with volume := some id, nextBlock := 2048, lastSeq := 0, writeBlock := 2048, writeSeq := 1 } }.writeHeader

/-- MEDIA_FORMAT. -/
def execMediaFormat (q : Req) (s : State) : Answer :=
  s.command q cmdMediaFormat { params := q.b 8 1 == 0 } (fun s =>
    match s.sdGate true with
    | some st => s.fails st
    | none =>
      match s.trunkDraw 16 with
      | none => s.fails .randomUnavailable
      | some (s, id) =>
        match q.io.sd with
        | .done => (s.format id).succeeds id
        | .transferFailed => s.fails .mediaError
        | .released => s.releaseSd.fails .mediaRemoved
        | _ => (s.sdGone 2 0x0A03).fails .mediaRemoved)

def cmdMediaStatus : Cmd :=
  { code := 0x0A04, roles := [.host], zero := false, states := everyState, cellJob := false, bytes := [] }

/-- Response bytes 8 to 56 of MEDIA_STATUS. -/
def State.mediaBytes (s : State) : Bytes :=
  let v (n : Nat) : Nat := if s.sd.volume.isSome then n else 0
  le 1 s.sd.st.code ++ le 1 s.sd.busMode ++ le 1 s.icc.st.code ++ le 1 s.icc.cls ++ le 4 0 ++ padTo 16 (s.sd.volume.getD []) ++
    le 8 (v s.sd.nextBlock) ++ le 8 (v s.sd.lastSeq) ++ le 8 (v s.sd.capacity) ++ le 1 s.sd.journal.length

/-- MEDIA_STATUS. -/
def execMediaStatus (q : Req) (s : State) : Answer := s.command q cmdMediaStatus {} (fun s => s.succeeds s.mediaBytes)

def cmdMediaRelease : Cmd :=
  { code := 0x0A02, roles := [.operator], zero := true, states := everyState, cellJob := false, bytes := [(8, 1)] }

/-- The contact slot is powered down and stays so until its switch has opened and closed again (R440). -/
def State.releaseIcc (s : State) : State := { s with icc := { st := .released } }.emit .iccPowerDown

/-- MEDIA_RELEASE. -/
def execMediaRelease (q : Req) (s : State) : Answer :=
  s.command q cmdMediaRelease { params := decide (q.b 8 1 ≤ 1) } (fun s =>
    if q.b 8 1 = 0 then (if s.sdPresent then s.releaseSd.succeeds [] else s.fails .noMedia)
    else if s.iccPresent then s.releaseIcc.succeeds [] else s.fails .noMedia)

/-! ### SET_RF (17 R444, R445, R450) -/

def cmdSetRf : Cmd :=
  { code := 0x0A01, roles := [.operator], zero := true
    states := [.factory, .blank, .operational, .maintenance, .recovery], cellJob := false, bytes := [(8, 1)] }

/-- The field that a mode keeps between commands: none, or a tenth in WATCH while no external field is present. -/
def Rf.rest (x : Rf) : Field := if x.mode = .watch ∧ !x.external then .tenth else .none

/-- The antenna takes a mode; a new watch takes its baseline. -/
def Rf.enter (x : Rf) (m : RfMode) : Rf :=
  let y : Rf := { x with mode := m, cardHeld := false }
  { y with field := y.rest, baselineTaken := if m = .watch then x.baselineTaken + 1 else x.baselineTaken }

/-- SET_RF OFF: the antenna belongs to the tag. -/
def execSetRfOff (q : Req) (s : State) : Answer :=
  s.command q cmdSetRf { params := q.b 8 1 == 0 } (fun s => { s with rf := s.rf.enter .off }.succeeds [])

/-- SET_RF READER: refused while the tag serves a field frame. -/
def execSetRfReader (q : Req) (s : State) : Answer :=
  s.command q cmdSetRf { params := q.b 8 1 == 1 } (fun s =>
    if s.rf.frame then s.fails .tagBusy else { s with rf := s.rf.enter .reader }.succeeds [])

/-- SET_RF WATCH: refused while the tag serves a field frame. -/
def execSetRfWatch (q : Req) (s : State) : Answer :=
  s.command q cmdSetRf { params := q.b 8 1 == 2 } (fun s =>
    if s.rf.frame then s.fails .tagBusy else { s with rf := s.rf.enter .watch }.succeeds [])

/-! ### The SD slot (R427 to R429, R434 to R436) -/

/-- SD_INSERT: the detect switch has stayed closed for 100 ms. It wakes a dormant module (R428). -/
def execSdInsert (s : State) : Answer :=
  if s.sd.st = .absent then .next { s with sd := { st := .identifying, journal := s.sd.journal } }.wake.wantWake else .next s

/-- R436: the unconfirmed segment of this volume, as read back, is confirmed or rolled back, its entry goes, and a record is made. -/
def State.mediaCheck (s : State) (id : Bytes) (readBack : Bytes) : State :=
  match s.sd.journal.find? (fun e => e.volume == id) with
  | none => s
  | some e =>
    let valid := s.segmentValid readBack && field readBack 24 8 == e.seq && piece readBack 8 16 == padTo 16 e.object
    let j := s.sd.journal.filter (fun x => x != e)
    let s := { s with sd := { s.sd with journal := j } }.storeAdd (.media j)
    let s := if !valid then { s with sd := { s.sd with writeBlock := e.block, writeSeq := e.seq } }
      else if bit (field readBack 5 1) 1 then
        { s with sd := { s.sd with nextBlock := e.block + segmentBlocks readBack, lastSeq := e.seq } }.writeHeader
      else s
    s.logEvent 0x0A03 0 0 0xFF (le 1 (if valid then 1 else 2) ++ id ++ le 8 e.seq)

/-- The card as identification, its header and the scan found it (R428, R430, R434). -/
def Sd.identified (x : Sd) (busMode : Nat) (readOnly : Bool) (capacity : Nat) (volume : Option Bytes)
    (scan : List (Bytes × Bytes)) : Sd :=
  let h := volume.getD []
  let next := if volume.isSome then field h 24 8 else 2048
  let seq := field h 32 8
  let (block, last) := scanSegments (if volume.isSome then scan else []) next seq []
  { x with
    st := .ready, busMode, readOnly, volume := volume.map (fun h => piece h 8 16), nextBlock := next, lastSeq := seq
    writeBlock := block, writeSeq := last + 1, capacity, failures := 0 }

/-- SD_CARD_IDENTIFIED: identification ends; blocks 0 and 1 are read, the header and commit blocks of the segments from Next block are
scanned, and a segment that the media journal names is read back. -/
def execSdCardIdentified (ok : Bool) (busMode : BitVec 3) (writeProtected : Bool) (capacity : Nat) (copy0 copy1 : Bytes)
    (headers commits : List Bytes) (readBack : Bytes) (s : State) : Answer :=
  if s.sd.st != .identifying || s.dormant || !s.trunk.ready then .next s
  else if !ok then .next { s with sd := { s.sd with st := .failed } }
  else
    let s := { s with sd := s.sd.identified busMode.toNat writeProtected capacity (headerOf copy0 copy1) (headers.zip commits) }
    let id := s.sd.volume.getD (List.replicate 16 0)
    let s := s.logEvent 0x0A01 0 0 0xFF (le 1 busMode.toNat ++ id)
    .next (if s.sd.volume.isSome then s.mediaCheck id readBack else s)

/-- SD_REMOVAL: the detect switch has been open for 200 µs, with no transfer in progress; it wakes a dormant module (18 R458). What a removal does to a transfer
is the outcome of the command that makes the transfer (R435). -/
def execSdRemoval (s : State) : Answer :=
  match s.sd.st with
  | .absent => .next s
  | .released => .next { s with sd := { journal := s.sd.journal } }.wake
  | _ => .next (s.wake.sdGone 0 0)

/-- SD_RETUNE: the widest window of passing taps. A window below 8 taps takes SDR104 and SDR50 one mode down (R427). -/
def execSdRetune (window : Nat) (s : State) : Answer :=
  if s.sd.st = .ready ∧ (s.sd.busMode = 4 ∨ s.sd.busMode = 5) ∧ window < 8 then
    .next { s with sd := { s.sd with busMode := s.sd.busMode - 1 } }
  else .next s

/-- SD_BUSY_TIMEOUT: a failed transfer, retried twice; the third failure ends the operation (R427, R428). -/
def execSdBusyTimeout (s : State) : Answer :=
  if s.sd.st = .ready then .next { s with sd := { s.sd with failures := (s.sd.failures + 1) % 3 } } else .next s

/-- SD_CURRENT_LIMIT: the slot is powered down as on removal; the card failed (R426, R425). -/
def execSdCurrentLimit (s : State) : Answer :=
  if s.sdPresent then .next ({ s with sd := { st := .failed, journal := s.sd.journal } }.emit .sdPowerDown) else .next s

/-! ### The contact slot (R439, R440) -/

/-- ICC_INSERT: the detect has been closed for 100 ms. The class in which the card answers is open (log entry 3). -/
def execIccInsert (s : State) : Answer :=
  if s.icc.st = .absent then
    let cls := 1 + s.freeNat % 3
    .next ({ s.drawn with icc := { st := .ready, cls } }.wake.wantWake.logEvent 0x0A01 1 0 0xFF (le 1 cls))
  else .next s

/-- ICC_REMOVAL: the detect has been open for 50 µs. -/
def execIccRemoval (s : State) : Answer :=
  match s.icc.st with
  | .absent => .next s
  | .released => .next { s with icc := {} }.wake
  | _ => .next (({ s with icc := {} }.wake.logEvent 0x0A02 1 0 0xFF (le 1 0 ++ le 4 0)).emit .iccPowerDown)

/-! ### The watch and the external field (R445, R450) -/


/-- WATCH_LOAD_CHANGE: a change of more than 3 % for 2 ms starts a poll, with these rounds. -/
def execWatchLoadChange (poll : List PollRound) (s : State) : Answer :=
  if s.rf.mode = .watch ∧ !s.rf.external ∧ !s.rf.cardHeld then
    let s := s.wake.pollRecord poll
    if poll.all (fun r => r.cards == 0) then
      .next { s with rf := { s.rf with field := .tenth, baselineTaken := s.rf.baselineTaken + 1 } }
    else .next { s with rf := { s.rf with field := .full, cardHeld := true } }
  else .next s

/-- WATCH_HOLD_EXPIRY: a found card has been held for 2 s. -/
def execWatchHoldExpiry (s : State) : Answer :=
  if s.rf.cardHeld then .next { s with rf := { s.rf with cardHeld := false, field := s.rf.rest } } else .next s

/-- EXTERNAL_FIELD_DETECTED: the module keeps its field off, and the antenna belongs to the tag. -/
def execExternalFieldDetected (s : State) : Answer :=
  .next { s with rf := { s.rf with external := true, field := .none, cardHeld := false } }

/-- The gap between two field frames: a refused page is written again, and a requested swap is made (R449). The firmware clears BUSYERR
when it writes again (DESIGN CHOICE, log entry 50). -/
def State.tagGap (s : State) : State :=
  let s := { s with rf := { s.rf with frame := false } }
  let s := if s.rf.rewrite then { s with rf := { s.rf with busyErr := false } }.tagRefresh else s
  if s.rf.swapPend then { s with rf := { s.rf with page := s.rf.shadow, swapPend := false, contentLost := false } } else s

/-- EXTERNAL_FIELD_GONE: 100 ms after it went, the module returns to its own mode. The tag lost its power. -/
def execExternalFieldGone (s : State) : Answer :=
  let s := s.tagGap
  let x : Rf := { s.rf with external := false, tag := .idle, selected := false }
  .next { s with rf := { x with field := x.rest } }

/-! ### The built-in tag (R446 to R449) -/

/-- The tag hears a frame: it is enabled and the antenna is its own (R448, R450). -/
def State.tagHears (s : State) : Bool := s.rf.tagEn && (s.rf.mode == .off || s.rf.external || !s.trunk.ready)

/-- A field frame begins, and the tag answers it with `data`, if with anything. -/
def State.tagFrame (s : State) (data : Bytes) : State :=
  let s := { s with rf := { s.rf with frame := true } }
  if data = [] then s else s.emit (.tagAnswer data)

/-- PUPI, AFI 0, FSCI 8 and FWI 4 of the answer to REQB. -/
def atqb : Bytes := le 4 (Config.serial.toNat % 2 ^ 32) ++ le 1 0 ++ le 1 8 ++ le 1 4

/-- TAG_REQB: REQB, or WUPB when `wup`, which alone brings a halted tag back. -/
def execTagReqb (wup : Bool) (s : State) : Answer :=
  if !s.tagHears then .next s
  else if s.rf.tag = .active ∨ (s.rf.tag = .halted ∧ !wup) then .next (s.tagFrame [])
  else .next ({ s with rf := { s.rf with tag := .ready, selected := false } }.tagFrame atqb)

/-- TAG_ATTRIB: the tag becomes the active card. -/
def execTagAttrib (s : State) : Answer :=
  if !s.tagHears then .next s
  else if s.rf.tag = .ready then .next ({ s with rf := { s.rf with tag := .active, selected := false } }.tagFrame (le 1 0))
  else .next (s.tagFrame [])

/-- TAG_HLTB: the tag is halted until a WUPB. -/
def execTagHltb (s : State) : Answer :=
  if !s.tagHears then .next s
  else if s.rf.tag = .ready then .next ({ s with rf := { s.rf with tag := .halted } }.tagFrame (le 1 0))
  else .next (s.tagFrame [])

/-- Status words of the tag's answers. -/
def sw9000 : Bytes := [0x90, 0x00]
def sw6D00 : Bytes := [0x6D, 0x00]

/-- The AID of the tag's application. -/
def tagAid : Bytes := [0xF0, 0x4B, 0x5A, 0x54, 0x41, 0x47, 0x00, 0x01]

/-- An APDU reaches the tag only when it is the active card. -/
def State.apdu (s : State) (f : State → State) : Answer :=
  if !s.tagHears then .next s else if s.rf.tag = .active then .next (f s) else .next (s.tagFrame [])

/-- TAG_SELECT. -/
def execTagSelect (aid : Bytes) (s : State) : Answer :=
  s.apdu (fun s =>
    if aid = tagAid then { s with rf := { s.rf with selected := true } }.tagFrame sw9000 else s.tagFrame sw6D00)

/-- The live bytes 128 to 139 (R447). -/
def State.tagLive (s : State) : Bytes :=
  le 4 s.bark.tstky.toNat ++ le 4 s.bark.tntf.toNat ++ le 1 (b2n s.bark.lko) ++ le 3 s.bsec

/-- The file that READ BINARY returns: the active page, or bytes 0 to 7 and the flags when the content was lost. -/
def State.tagBytes (s : State) : Bytes :=
  let lost := le 4 0x4B5A5446 ++ le 2 538 ++ le 2 s.rf.generation.toNat ++ le 14 0 ++ [3]
  let page := padTo 538 (if s.rf.contentLost then lost else s.rf.page)
  page.take 128 ++ s.tagLive ++ page.drop 140

/-- TAG_READ_BINARY: up to 250 bytes of the selected file. -/
def execTagReadBinary (offset : BitVec 16) (length : BitVec 8) (s : State) : Answer :=
  s.apdu (fun s =>
    if s.rf.selected && decide (length.toNat ≤ 250) then
      s.tagFrame ((s.tagBytes.drop offset.toNat).take length.toNat ++ sw9000)
    else s.tagFrame sw6D00)

/-- TAG_OTHER_APDU. -/
def execTagOtherApdu (s : State) : Answer := s.apdu (fun s => s.tagFrame sw6D00)

/-- TAGSTAT (R448). -/
def Rf.tagstat (x : Rf) : BitVec 32 :=
  BitVec.ofNat 32 (b2n x.frame + 2 * b2n x.external + 4 * b2n x.swapPend + 8 * b2n x.busyErr)

/-- TAGCTL_SWAP: a write of TAGCTL by the trunk, refused during a frame. -/
def execTagctlSwap (value : BitVec 32) (s : State) : Answer :=
  if s.rf.frame then .next { s with rf := { s.rf with busyErr := true } }
  else .next { s with rf := { s.rf with tagEn := bit value.toNat 1, swapPend := s.rf.swapPend || bit value.toNat 0 } }

/-- TAG_SWAP_APPLY: the gap after a field frame. -/
def execTagSwapApply (s : State) : Answer := .next s.tagGap

/-- TAGSHADOW_WRITE: one word of the shadow page, refused during a frame. -/
def execTagshadowWrite (offset : BitVec 12) (value : BitVec 32) (s : State) : Answer :=
  if s.rf.frame then .next { s with rf := { s.rf with busyErr := true } }
  else
    let o := offset.toNat / 4 * 4
    let x := padTo 4096 s.rf.shadow
    .next { s with rf := { s.rf with shadow := x.take o ++ le 4 value.toNat ++ x.drop (o + 4) } }

end Sys2Proof.Machine
end

