-- ==== Sys2Proof/Machine/Outputs.lean ====
section
/-! DEFINITION. Seed's test modes (04 R112, 10 R277 to R280), the outputs for the appliance (19 R473 to R476), the management
port (19 R470 to R472) and the service button (13 R340). -/

namespace Sys2Proof.Machine

/-! ### SEED_TEST and SEED_RAW_READ -/

/-- SEED_TEST's row for a mode. SEEDCFG bit 0 permits RAW and bit 1 PATTERN, which is available in FACTORY only (10 R277). -/
def State.cmdSeedTest (s : State) (mode : Nat) : Cmd :=
  let c := s.image.seedcfg.toNat
  { code := 0x0B01, roles := if (mode = 1 ∧ !bit c 0) ∨ (mode = 2 ∧ !bit c 1) then [] else [.officer], zero := true
    states := if mode = 2 then [.factory] else everyState, cellJob := false
    bytes := if mode = 2 then [(8, 1), (16, 32)] else [(8, 1)] }

/-- SEED_TEST mode 0. -/
def execSeedTestNormal (q : Req) (s : State) : Answer :=
  s.command q (s.cmdSeedTest 0) { params := q.b 8 1 == 0 } (fun s => s.seedNormal.succeeds [])

/-- Seed enters a test mode for a session: every queue is emptied and MREG5 is extended; in PATTERN the pattern's blocks then feed the
generators, the trunk's first (R271, R278, R279, 13 R353). -/
def State.seedTest (s : State) (m : SeedMode) (session : BitVec 32) (seed : Bytes) : State :=
  let s := { s with seed := { s.seed with
    mode := m, session := some session, patternSeed := seed, blocks := 0, nextGen := 0, starting := false, startPassed := 0 } }
  s.seedEmpty.extend 5 [BitVec.ofNat 8 m.code]

/-- SEED_TEST mode 1. -/
def execSeedTestRaw (q : Req) (s : State) : Answer :=
  s.command q (s.cmdSeedTest 1) { params := q.b 8 1 == 1 } (fun s =>
    if s.extensionsFull then s.fails .noResource else (s.seedTest .raw q.session []).seedFailAll.succeeds [])

/-- SEED_TEST mode 2: the pattern's blocks instantiate the generators afresh, each as its turn comes; requests wait meanwhile (10 R271,
R274, R279). -/
def execSeedTestPattern (q : Req) (s : State) : Answer :=
  s.command q (s.cmdSeedTest 2) { params := q.b 8 1 == 2 } (fun s =>
    if s.extensionsFull then s.fails .noResource else (s.seedTest .pattern q.session (q.str 16 32)).succeeds [])

/-- SEED_RAW_READ's row: in RAW only the session that set it may read (04 R112). -/
def State.cmdRawRead (s : State) (session : BitVec 32) : Cmd :=
  { code := 0x0B02, roles := if s.seed.mode = .raw ∧ s.seed.session ≠ some session then [] else [.officer], zero := true
    states := everyState, cellJob := false, bytes := [] }

/-- SEED_RAW_READ: 1,920 raw bits, which are free (R278). -/
def execSeedRawRead (q : Req) (s : State) : Answer :=
  s.command q (s.cmdRawRead q.session) {} (fun s =>
    if s.seed.mode = .raw then s.drawn.succeeds (le 2 1920 ++ le 6 0 ++ s.freeBytes 240) else s.fails .randomUnavailable)

/-! ### SET_OUTPUTS (R475, R476) -/

/-- SET_OUTPUTS' row for an operation. -/
def cmdSetOutputs (op : Nat) : Cmd :=
  { code := 0x0406, roles := if op = 0 then [.host] else if op = 3 then [.officer] else [.operator], zero := op != 0
    states := if op = 0 then everyState else [.factory, .blank, .operational, .maintenance, .recovery], cellJob := false
    bytes := if op = 1 ∨ op = 2 then [(8, 2)] else if op = 3 then [(8, 1), (10, 2)] else [(8, 1)] }

/-- A quotient that the spec does not round: down, or up by a free bit when it is not whole (log entry 3). -/
def State.rounded (s : State) (n d : Nat) : State × Nat :=
  if n % d = 0 then (s, n / d) else (s.drawn, n / d + s.freeNat % 2)

/-- Response bytes 8 to 15: LED2, the fan minimum, LOCK, and the seconds that its release lasts. -/
def State.outputsAnswer (s : State) : Ran :=
  let left := (s.elec.lockUntil.map (fun t => t - s.clock.cd18)).getD 0
  let (t, n) := s.rounded left second
  t.succeeds (le 1 s.elec.led2 ++ le 1 s.elec.fanMin ++ le 1 (b2n s.elec.lockUntil.isSome) ++ le 1 0 ++ le 4 n)

/-- SET_OUTPUTS operation 0. -/
def execSetOutputsRead (q : Req) (s : State) : Answer :=
  s.command q (cmdSetOutputs 0) { params := q.b 8 1 == 0 } State.outputsAnswer

/-- SET_OUTPUTS operation 1. -/
def execSetOutputsLed2 (q : Req) (s : State) : Answer :=
  s.command q (cmdSetOutputs 1) { params := q.b 8 1 == 1 && decide (q.b 9 1 ≤ 2) } (fun s =>
    { s with elec := { s.elec with led2 := q.b 9 1 } }.outputsAnswer)

/-- SET_OUTPUTS operation 2. -/
def execSetOutputsFanMin (q : Req) (s : State) : Answer :=
  s.command q (cmdSetOutputs 2) { params := q.b 8 1 == 2 && decide (30 ≤ q.b 9 1 ∧ q.b 9 1 ≤ 100) } (fun s =>
    { s with elec := { s.elec with fanMin := q.b 9 1 } }.outputsAnswer)

/-- SET_OUTPUTS operation 3: LOCK is released for the given seconds. -/
def execSetOutputsLockRelease (q : Req) (s : State) : Answer :=
  s.command q (cmdSetOutputs 3) { params := q.b 8 1 == 3 && decide (1 ≤ q.b 10 2 ∧ q.b 10 2 ≤ 600) } (fun s =>
    { s with elec := { s.elec with lockUntil := some (s.clock.cd18 + q.b 10 2 * second) } }.outputsAnswer)

/-- SET_OUTPUTS operation 4. -/
def execSetOutputsLockEngage (q : Req) (s : State) : Answer :=
  s.command q (cmdSetOutputs 4) { params := q.b 8 1 == 4 } (fun s =>
    { s with elec := { s.elec with lockUntil := none } }.outputsAnswer)

/-- LOCK_RELEASE_EXPIRY. -/
def execLockReleaseExpiry (s : State) : Answer := .next { s with elec := { s.elec with lockUntil := none } }

/-! ### The fan (R473) -/

/-- The duty from the hottest die, below the minimum that SET_OUTPUTS set: 30 % to 60 °C, 100 % from 85 °C. -/
def State.fanCurve (s : State) : State × Nat :=
  let t := s.hottest
  if t ≤ 60 then (s, 30) else if 85 ≤ t then (s, 100) else s.rounded (30 * 25 + 70 * (t - 60).toNat) 25

/-- The module drives its outputs: it runs, and its trunk is not gated. -/
def State.drives (s : State) : Bool := s.trunk.ready && !s.dormant

/-- FAN_DUTY_UPDATE: each second, with the speed read and the temperatures measured. -/
def execFanDutyUpdate (rpm : Nat) (m : Meters) (s : State) : Answer :=
  if s.drives then
    let (s, d) := { s with elec := { s.elec with m } }.fanCurve
    .next { s with elec := { s.elec with
      fanDuty := max s.elec.fanMin d, rpm, stallRaised := s.elec.stallRaised && decide (rpm < 500) } }
  else .next s

/-- FAN_STALL: the duty has been 30 % or more for 5 s while the speed read below 500 rpm; once until it read more. -/
def execFanStall (s : State) : Answer :=
  if s.drives && decide (30 ≤ s.elec.fanDuty) && decide (s.elec.rpm < 500) && !s.elec.stallRaised then
    .next ({ s with elec := { s.elec with stallRaised := true } }.notify 0x0209 0xFF
      (le 1 s.elec.fanDuty ++ le 3 0 ++ le 2 s.elec.rpm))
  else .next s

/-! ### Pins (R470, R473 to R475, R479) -/

/-- What an LED shows; a flash is on for `ms` of each `period` milliseconds. -/
inductive Led where
  | off
  | steady
  | flash (ms period : Nat)
  deriving DecidableEq, Repr

/-- Unpowered, or held in reset: every output is released (R477). -/
def State.inReset (s : State) : Bool := !s.trunk.powerGood || s.trunk.bootCode == 0

/-- LED0: READY, start-up, DORMANT. -/
def State.led0 (s : State) : Led :=
  if s.inReset then .off
  else if s.dormant then .flash 50 5000
  else if s.trunk.ready then .steady
  else if s.trunk.starting then .flash 500 1000
  else .off

/-- LED1: a tamper notice, or LOCKOUT. -/
def State.led1 (s : State) : Led :=
  if s.inReset then .off else if s.lockout then .flash 250 500 else if s.alert then .steady else .off

/-- LED2: as SET_OUTPUTS set it. -/
def State.led2 (s : State) : Led :=
  if s.inReset then .off else match s.elec.led2 with
    | 0 => .off
    | 1 => .steady
    | _ => .flash 500 1000

/-- READY is high. -/
def State.readyPin (s : State) : Bool := !s.inReset && s.trunk.ready
/-- ALERT# is pulled low, from t0 of start-up on. -/
def State.alertPin (s : State) : Bool := !s.inReset && s.alert
/-- WAKE# is pulled low: something waits for a function in D3hot. -/
def State.wakePin (s : State) : Bool := !s.inReset && s.fns.any (fun p => p.2.d3hot && p.2.wakeWanted)
/-- LOCK sinks current: a release is in force. -/
def State.lockPin (s : State) : Bool := !s.inReset && s.elec.lockUntil.isSome
/-- Time of a period that FAN_PWM is released, in %: all of it in reset (R482). -/
def State.fanPin (s : State) : Nat := if s.inReset then 100 else s.elec.fanDuty
/-- The management port's 7-bit address, as MADDR was sampled (R470). -/
def State.mgmtAddress (s : State) : Nat := if s.trunk.maddr then 0x4C else 0x4B

/-! ### The management port (R470 to R472) -/

/-- Start-up has not yet read the life-cycle state (t1), or selected its image (t4). -/
def State.beforeT1 (s : State) : Bool := [0x00, 0x01, 0x11].contains s.trunk.bootCode.toNat
def State.beforeT4 (s : State) : Bool := [0x00, 0x01, 0x02, 0x03, 0x04, 0x11, 0x13, 0x15].contains s.trunk.bootCode.toNat

/-- MPSTAT. -/
def State.mpstat (s : State) : Nat :=
  b2n s.trunk.ready + 2 * b2n s.alert + 4 * b2n s.halted + 8 * b2n s.lockout + 16 * b2n s.dormant + 32 * b2n s.trunk.perst +
    s.trunk.bootCode.toNat * 2 ^ 8 + (if s.beforeT1 then 0 else s.life.code) * 2 ^ 16

/-- The register at an aligned address (R471). -/
def State.mgmtValue (s : State) (a : Nat) : Nat :=
  let m := s.elec.m
  match a with
  | 0x00 => 0x0256 + stepping * 2 ^ 16 + orderCode * 2 ^ 24
  | 0x04 => s.mpstat
  | 0x08 => m.vinMv % 2 ^ 16 + m.iinMa % 2 ^ 16 * 2 ^ 16
  | 0x0C => m.pinMw % 2 ^ 16 + s.sched.cap % 2 ^ 6 * 2 ^ 16
  | 0x10 => s.clock.energyJ.toNat % 2 ^ 32
  | 0x14 => s.elec.mpEnh.toNat
  | 0x18 => twos 8 s.hottest + twos 8 m.caseC * 2 ^ 8 + twos 8 m.aonC * 2 ^ 16
  | 0x1C => s.bark.tstky.toNat
  | 0x20 => m.vbakMv % 2 ^ 16
  | 0x24 => s.elec.rpm % 2 ^ 16 + s.elec.fanDuty % 2 ^ 7 * 2 ^ 16
  | 0x28 => Config.serial.toNat % 2 ^ 32
  | 0x2C => Config.serial.toNat / 2 ^ 32
  | 0x30 => if s.beforeT4 then 0 else s.image.fwver.toNat
  | _ => 0

/-- One register is read; MPENL latches MPENH. -/
def State.mgmtOne (s : State) (a : Nat) : State :=
  let s := s.emit (.mgmt a (s.mgmtValue a))
  if a = 0x10 then { s with elec := { s.elec with mpEnh := s.clock.energyJ.extractLsb' 32 32 } } else s

/-- `count` registers from an address on, wrapping from 0x3C to 0x00; the port answers while input power is good. -/
def State.mgmtRead (s : State) (address count : Nat) : State :=
  if s.trunk.powerGood then s.each (List.range count) (fun s i => s.mgmtOne ((address / 4 + i) % 16 * 4)) else s

/-- MGMT_READ. -/
def execMgmtRead (address : BitVec 8) (count : Nat) (s : State) : Answer := .next (s.mgmtRead address.toNat count)

/-- MPENL_READ: a read of one register, MPENL. -/
def execMpenlRead (s : State) : Answer := .next (s.mgmtRead 0x10 1)

/-! ### The service button (13 R340) -/

/-- SERVICE_BUTTON_CHANGE: a release forgets which doorbells came while the button was held. -/
def execServiceButtonChange (held : Bool) (s : State) : Answer :=
  .next { s with trunk := { s.trunk with svcButton := held, svcBells := if held then s.trunk.svcBells else [] } }

end Sys2Proof.Machine
end

