-- ==== Sys2Proof/Machine/Entry.lean ====
section
/-! DEFINITION. Where messages come from: the request of a mailbox (03 R70) and the entries of the submission queues
(03 R84, R90, R94), with the catalogue of the trunk command set by code and operation (04 R112, R115 to R117). -/

namespace Sys2Proof.Machine

/-! ### The catalogue -/

/-- Commands whose rows are told apart by an operation or mode byte; an unknown one is refused by a row's own check of it. -/
def runSplit (code op : Nat) (q : Req) (s : State) : Option Answer :=
  match code with
  | 0x0402 => some (if op = 1 then execDrainCellsEvict q s else execDrainCellsFinish q s)
  | 0x0406 => some (match op with
    | 1 => execSetOutputsLed2 q s
    | 2 => execSetOutputsFanMin q s
    | 3 => execSetOutputsLockRelease q s
    | 4 => execSetOutputsLockEngage q s
    | _ => execSetOutputsRead q s)
  | 0x0506 => some (match op with
    | 1 => execMasterKeyLoad q s
    | 2 => execMasterKeyActivate q s
    | 3 => execMasterKeyRetire q s
    | _ => execMasterKeyGenerate q s)
  | 0x0507 => some (if op = 1 then execArchiveRestore q s else execArchiveBackup q s)
  | 0x0801 => some (match op with
    | 1 => execTwinPairSecondary q s
    | 2 => execTwinUnpair q s
    | _ => execTwinPairPrimary q s)
  | 0x0A01 => some (match op with
    | 1 => execSetRfReader q s
    | 2 => execSetRfWatch q s
    | _ => execSetRfOff q s)
  | 0x0B01 => some (match op with
    | 1 => execSeedTestRaw q s
    | 2 => execSeedTestPattern q s
    | _ => execSeedTestNormal q s)
  | _ => none

/-- LOG_SNAPSHOT has its operation in byte 10. -/
def runSnapshot (op : Nat) (q : Req) (s : State) : Answer :=
  match op with
  | 1 => execLogSnapshotSet q s
  | 2 => execLogSnapshotRestore q s
  | _ => execLogSnapshotRead q s

/-- The commands of groups 01 to 04. -/
def runLow (code : Nat) (q : Req) (s : State) : Option Answer :=
  match code with
  | 0x0101 => some (execGetInfo q s)
  | 0x0102 => some (execGetMreg q s)
  | 0x0103 => some (execAttest q s)
  | 0x0104 => some (execGetCert q s)
  | 0x0105 => some (execReadRoot q s)
  | 0x0201 => some (execOpenSession q s)
  | 0x0202 => some (execPresent q s)
  | 0x0203 => some (execCloseSession q s)
  | 0x0204 => some (execEnrol q s)
  | 0x0205 => some (execRevoke q s)
  | 0x0206 => some (execSetQuorum q s)
  | 0x0301 => some (execCreateQueue q s)
  | 0x0302 => some (execDestroyQueue q s)
  | 0x0303 => some (execSetPartition q s)
  | 0x0304 => some (execGetPartition q s)
  | 0x0401 => some (execSetTick q s)
  | 0x0403 => some (execRestoreCells q s)
  | 0x0404 => some (execSetPowerCap q s)
  | 0x0405 => some (execEnterDormant q s)
  | _ => none

/-- The commands of groups 05 to 0B. -/
def runHigh (code : Nat) (q : Req) (s : State) : Option Answer :=
  match code with
  | 0x0501 => some (execKeyImport q s)
  | 0x0502 => some (execKeyGenerate q s)
  | 0x0503 => some (execKeyExport q s)
  | 0x0504 => some (execKeyDelete q s)
  | 0x0505 => some (execKeyInfo q s)
  | 0x0601 => some (execLogRead q s)
  | 0x0602 => some (execLogStream q s)
  | 0x0603 => some (execLogClear q s)
  | 0x0604 => some (execTamperClear q s)
  | 0x0605 => some (execBarkConfig q s)
  | 0x0606 => some (execBarkStatus q s)
  | 0x0607 => some (runSnapshot (q.b 10 1) q s)
  | 0x0608 => some (execLogExport q s)
  | 0x0701 => some (execLcChange q s)
  | 0x0702 => some (execFwUpdate q s)
  | 0x0703 => some (execSetRdp q s)
  | 0x0802 => some (execTwinStatus q s)
  | 0x0803 => some (execTwinPromote q s)
  | 0x0A02 => some (execMediaRelease q s)
  | 0x0A03 => some (execMediaFormat q s)
  | 0x0A04 => some (execMediaStatus q s)
  | 0x0B02 => some (execSeedRawRead q s)
  | _ => none

/-- A code that is not in the catalogue, after the check of the length (R103 orders 1 and 2). -/
def State.unknownCode (s : State) (q : Req) (code : Nat) : Answer :=
  let bad := decide (q.len < 8) || decide (256 < q.len) || (!q.via.isMailbox && q.len != q.carried)
  .next (s.respond q code (if bad then .malformedEntry else .badFunction) [])

/-- Execute a message. -/
def runMessage (code : Nat) (q : Req) (s : State) : Answer :=
  match runSplit code (q.b 8 1) q s with
  | some a => a
  | none =>
    match runLow code q s with
    | some a => a
    | none =>
      match runHigh code q s with
      | some a => a
      | none => s.unknownCode q code

/-- The request that a message of 8 to 256 bytes spells (R101). -/
def reqOf (f : Nat) (via : Via) (msg : Bytes) (carried : Nat) (io : Io) : Req :=
  { fn := BitVec.ofNat 6 f, via, len := field msg 2 2, carried, session := BitVec.ofNat 32 (field msg 4 4), body := msg.drop 8, io }

/-! ### Commands that have waited (04 R111, 10 R274) -/

/-- Each command that waits is tried again in its order; one that still cannot go on waits again. -/
def runHeld : List Held → State → Answer
  | [], s => .next s
  | w :: rest, s =>
    match runMessage w.code w.req { s with trunk := { s.trunk with resuming := some w.why } } with
    | .next t => runHeld rest { t with trunk := { t.trunk with resuming := none } }
    | o => o

/-- What has come to an end lets commands go on, then a life-cycle change (04 R111) and the queues' next entries (03 R71). -/
def State.resume (s : State) : Answer :=
  if s.trunk.held = [] then .next s.changeNext
  else
    match runHeld s.trunk.held { s with trunk := { s.trunk with held := [] } } with
    | .next t => .next t.changeNext.fetch
    | o => o

/-- An event after which commands may go on. -/
def andResume : Answer → Answer
  | .next s => s.resume
  | o => o

/-- ACK, CLOSE, TWIN_LINK_LOSS: answers that waited for the partner are written (16 R414 to R416). -/
def execAck (session : BitVec 32) (counter : Nat) (sequence : Nat) (persisted : Bool) (s : State) : Answer :=
  andResume (takeAck session counter sequence persisted s)
def execClose (session : BitVec 32) (counter : Nat) (reason : BitVec 8) (s : State) : Answer :=
  andResume (takeClose session counter reason s)
def execTwinLinkLoss (s : State) : Answer := andResume (loseLink s)

/-- GROVE_LINK_TRAINED and GROVE_LINK_TRAIN_TIMEOUT: RESTORE_CELLS commands that waited are answered (06 R166, R168). -/
def execGroveLinkTrained (g : Bool) (packageBad : List Nat) (s : State) : Answer := andResume (linkTrained g packageBad s)
def execGroveLinkTrainTimeout (g : Bool) (s : State) : Answer := andResume (linkTrainTimeout g s)

/-- FLASH_OP_DONE: the operation that a bank worked on has ended; reads that waited for bank 3 go on (15 R378 to R382). -/
def execFlashOpDone (bank : BitVec 2) (o : FlashOutcome) (s : State) : Answer :=
  let s := flashOpDone bank.toNat o s
  let reads (w : Held) : Held := if bank = 3 ∧ w.why = .flash then { w with why := .read } else w
  { s with trunk := { s.trunk with held := s.trunk.held.map reads } }.resume

/-- SEED_BLOCK: the source has sampled one block of 1,024 bits (10 R266 to R271). -/
def execSeedBlock (bits : List Bool) (s : State) : Answer := (s.seedBlock bits).rekeyRetry.resume

/-! ### Mailboxes (03 R70) -/

/-- MAILBOX_REQUEST_READ_DONE: the request has been read and is executed, or its read failed. -/
def execMailboxRequestReadDone (fn : BitVec 6) (m : BitVec 3) (request : Option Bytes) (io : Io) (s : State) : Answer :=
  let f := fn.toNat
  let n := m.toNat
  if !s.opened f || s.dormant || decide (mailboxes f ≤ n) || ((s.fn f).mailbox n).state != .busy then .next s
  else
    match request with
    | none => .next (s.mailboxDone f n .malformedEntry true)
    | some msg => runMessage (field msg 0 2) (reqOf f (.mailbox m) msg 256 io) s

/-! ### The administrative queue (03 R71, R72, R90, R94) -/

/-- Bytes 8 to 23 and 48 to 63 are 0 (R94). -/
def adminZero (e : Bytes) : Bool := (piece e 8 16 ++ piece e 48 16).all (· == 0)

/-- Orders 2 to 5 of R90 on an administrative entry. -/
def adminCheck (f : Nat) (e : Bytes) : Option Status :=
  if !(entryFirst e && entryLast e) then some .malformedChain
  else if field e 5 1 ≠ f then some .partitionMismatch
  else if field e 0 2 ≠ 0 then some .badFunction
  else if 64 * mib < entryLen e ∨ 64 * mib < field e 36 4 then some .badLength
  else none

/-- The message that an entry carries: its inline bytes, or what was read at its input pointer. -/
def entryMessage (e : Bytes) (message : Option Bytes) : Option Bytes := if entryInline e then some (inlineBytes e) else message

/-- Codes of the (c) commands. -/
def cellCodes : List Nat := [0x0202, 0x0501, 0x0502]

/-- An administrative entry whose command needs an internal cell job while none is free is not fetched (R72). -/
def State.adminWaits (s : State) (entry message : Option Bytes) : Bool :=
  decide (256 ≤ s.internalJobs) && entry.any (fun e => (entryMessage e message).any (fun m => cellCodes.contains (field m 0 2)))

/-- An entry is refused before its message is executed; the response message has its status. -/
def State.adminRefuse (s : State) (q : Req) (code : Nat) (st : Status) : State := s.respond q code st []

/-- An administrative entry has been taken off its queue. -/
def State.takeAdmin (s : State) (f : Nat) (entry message : Option Bytes) (io : Io) : Answer :=
  match entry with
  | none =>
    .next ((s.modFn f (fun y => { y with adm := { y.adm with fetchErr := true } })).adminDone f 0 .malformedEntry 0)
  | some e =>
    let e := padTo 64 e
    let tag := BitVec.ofNat 16 (field e 2 2)
    if !adminZero e then .next (s.adminDone f tag.toNat .malformedEntry 0)
    else
      let msg := entryMessage e message
      let m := msg.getD []
      let q := reqOf f (.admin tag (BitVec.ofNat 64 (field e 40 8))) m (entryLen e) io
      let code := field m 0 2
      if entryBad false false e || msg.isNone then .next (s.adminRefuse q code .malformedEntry)
      else match adminCheck f e with
        | some st => .next (s.adminRefuse q code st)
        | none => runMessage code q s

/-- The next administrative entry and the message that it names have been read. -/
def State.fetchAdminDone (s : State) (f : Nat) (entry message : Option Bytes) (io : Io) : Answer :=
  let a := (s.fn f).adm
  let holds (s : State) (held : Bool) : State := s.modFn f (fun y => { y with adm := { y.adm with held } })
  if !a.active || a.sq.dev == a.sq.host || !s.adminIdle f then .next s.fetch
  else if s.adminWaits entry message then .next (holds s true).fetch
  else
    let r := a.sq.push a.sqLog.toNat
    let s := ((holds s false).modFn f (fun y => { y with adm := { y.adm with sq := r } })).writeIndex f a.sqRec r
    match s.takeAdmin f entry message io with
    | .next t => .next t.fetch
    | o => o

/-- ENTRY_FETCH_DONE: the entry of the submission queue whose read is outstanding has come, and the next read goes out (R84). -/
def execEntryFetchDone (fn : BitVec 6) (q : BitVec 10) (entry : Option Bytes) (message : Option Bytes) (io : Io)
    (s : State) : Answer :=
  let f := fn.toNat
  if !s.opened f || s.dormant || s.trunk.fetching != some (f, q.toNat) then .next s
  else
    let s := { s with trunk := { s.trunk with fetching := none } }
    if q = 0 then s.fetchAdminDone f entry message io else .next (s.fetchTenant f q.toNat entry).fetch

end Sys2Proof.Machine
end

