-- ==== Sys2Proof/Machine/Kernel.lean ====
section
/-! DEFINITION. What the shipped kernel does with an exception of a cell that runs a job (12 R328, 11 R305, R315, R316), and the
instructions that write one register. -/

namespace Sys2Proof.Machine

/-- The kernel keeps a long job's registers, with the pc and the status that the exception saved: its PROG, a BNX that was stopped
included (11 R316, 12 R327). The kernel then has the cell. -/
def State.saveTrapped (s : State) (c : Nat) : State :=
  s.modCell c (fun y =>
    let k := y.core
    { y with
      savedCore := some { k with pc := k.savepc, prog := k.savest.extractLsb' 32 32, pl := k.savest.getLsbD 1 }
      core := k.atLoop })

/-- SYSCALL 0: the job ends with the status in g1 and the output of the length in g2 that stands in staging (11 R315). -/
def State.customDone (s : State) (c j : Nat) (x : Job) : State :=
  let g := groveOf c
  let status := (s.core c).gpr[1].toNat
  let len := (s.core c).gpr[2].toNat
  match s.fenceJob c j with
  | (s, true) => s.postCopy j g .cellFault [] 0
  | (s, false) =>
    let e := customEnd x status len (if x.buf.isSome then s.rd (x.outputAt g) (min len x.outCap) else [])
    s.postCopy j g e.status e.out e.outLen

/-- YIELD: a long job has done its work of the tick; a short one goes on at the next instruction (11 R305). -/
def State.yielded (s : State) (c j : Nat) (long : Bool) : State :=
  if long then (s.saveTrapped c).modCell c (fun y => { y with plan := y.plan.filter (fun i => i.job != j) })
  else s.modCore c (fun k => { (k.setStatus k.savest) with pc := k.savepc })

/-- The disposition of R328 for the job that the cell runs, after an exception that met the core `k`. A locked cell is its
dispatcher's. -/
def State.disposed (s : State) (c : Nat) (r : Report) (k : Core) : State :=
  match s.inHand c with
  | none => s
  | some j =>
    match s.job? j, s.copy? j (groveOf c) with
    | some x, some y =>
      if (s.core c).locked then s
      else if k.en then s.postCopy j (groveOf c) .cellFault [] 0
      else match r.exc with
        | .syscall =>
          if k.pl && r.scnum == 0 then s.customDone c j x else s.postCopy j (groveOf c) .cellFault [] 0
        | .yield => s.yielded c j y.long
        | .budget => if y.long then s.saveTrapped c else s
        | _ => s.postCopy j (groveOf c) .cellFault [] 0
    | _, _ => s

/-- A cell takes an exception, and the kernel disposes of the job that it runs. -/
def State.raise (s : State) (c : Nat) (r : Report) : State := (s.trap c r).disposed c r (s.core c)

/-- An instruction that may be a repetition target and writes one register: its value from the registers read (R290 to
R292, R299). -/
def State.compute (s : State) (c : Nat) (legal : Bool) (rd : BitVec 5) (v : Core → Word) (issue : Nat) : State :=
  if s.runs c then
    let k := s.core c
    if !legal || k.progBars true then s.raise c { exc := .illegal }
    else s.retire c (k.setReg rd (v k)).next issue
  else s

end Sys2Proof.Machine
end

