-- ==== Sys2Proof/Machine/LeafAlu.lean ====
section
/-! DEFINITION. The register ALU and the immediate instructions of a cell (11 R291, R292). -/

namespace Sys2Proof.Machine


/-! ### Results (R291) -/

def shiftAmount (b : Word) : Nat := (b.extractLsb' 0 6).toNat
def resMulh (a b : Word) : Word := BitVec.ofInt 64 (a.toInt * b.toInt / 2 ^ 64)
def resMulhu (a b : Word) : Word := BitVec.ofNat 64 (a.toNat * b.toNat / 2 ^ 64)
def resDivu (a b : Word) : Word := if b = 0 then BitVec.allOnes 64 else a / b
def resRemu (a b : Word) : Word := if b = 0 then a else a % b
/-- The 8 bytes reversed. -/
def resBswap (a : Word) : Word := BitVec.ofNat 64 (num (le 8 a.toNat).reverse)
def flag (b : Bool) : Word := if b then 1 else 0

/-! ### Register ALU -/

def execAdd (c : CoreId) (rd ra rb : BitVec 5) (s : State) : Answer :=
  .next (s.compute c.toNat true rd (fun k => k.reg ra + k.reg rb) 1)
def execSub (c : CoreId) (rd ra rb : BitVec 5) (s : State) : Answer :=
  .next (s.compute c.toNat true rd (fun k => k.reg ra - k.reg rb) 1)
def execAnd (c : CoreId) (rd ra rb : BitVec 5) (s : State) : Answer :=
  .next (s.compute c.toNat true rd (fun k => k.reg ra &&& k.reg rb) 1)
def execOr (c : CoreId) (rd ra rb : BitVec 5) (s : State) : Answer :=
  .next (s.compute c.toNat true rd (fun k => k.reg ra ||| k.reg rb) 1)
def execXor (c : CoreId) (rd ra rb : BitVec 5) (s : State) : Answer :=
  .next (s.compute c.toNat true rd (fun k => k.reg ra ^^^ k.reg rb) 1)
def execSll (c : CoreId) (rd ra rb : BitVec 5) (s : State) : Answer :=
  .next (s.compute c.toNat true rd (fun k => k.reg ra <<< shiftAmount (k.reg rb)) 1)
def execSrl (c : CoreId) (rd ra rb : BitVec 5) (s : State) : Answer :=
  .next (s.compute c.toNat true rd (fun k => k.reg ra >>> shiftAmount (k.reg rb)) 1)
def execSra (c : CoreId) (rd ra rb : BitVec 5) (s : State) : Answer :=
  .next (s.compute c.toNat true rd (fun k => (k.reg ra).sshiftRight (shiftAmount (k.reg rb))) 1)
def execSlt (c : CoreId) (rd ra rb : BitVec 5) (s : State) : Answer :=
  .next (s.compute c.toNat true rd (fun k => flag ((k.reg ra).slt (k.reg rb))) 1)
def execSltu (c : CoreId) (rd ra rb : BitVec 5) (s : State) : Answer :=
  .next (s.compute c.toNat true rd (fun k => flag ((k.reg ra).ult (k.reg rb))) 1)
def execMul (c : CoreId) (rd ra rb : BitVec 5) (s : State) : Answer :=
  .next (s.compute c.toNat true rd (fun k => k.reg ra * k.reg rb) 1)
def execMulh (c : CoreId) (rd ra rb : BitVec 5) (s : State) : Answer :=
  .next (s.compute c.toNat true rd (fun k => resMulh (k.reg ra) (k.reg rb)) 1)
def execMulhu (c : CoreId) (rd ra rb : BitVec 5) (s : State) : Answer :=
  .next (s.compute c.toNat true rd (fun k => resMulhu (k.reg ra) (k.reg rb)) 1)
def execDivu (c : CoreId) (rd ra rb : BitVec 5) (s : State) : Answer :=
  .next (s.compute c.toNat true rd (fun k => resDivu (k.reg ra) (k.reg rb)) 36)
def execRemu (c : CoreId) (rd ra rb : BitVec 5) (s : State) : Answer :=
  .next (s.compute c.toNat true rd (fun k => resRemu (k.reg ra) (k.reg rb)) 36)
/-- ra when the old rd is non-zero, otherwise rb. -/
def execCsel (c : CoreId) (rd ra rb : BitVec 5) (s : State) : Answer :=
  .next (s.compute c.toNat true rd (fun k => if k.reg rd = 0 then k.reg rb else k.reg ra) 1)
/-- rb must be g0. -/
def execBswap (c : CoreId) (rd ra rb : BitVec 5) (s : State) : Answer :=
  .next (s.compute c.toNat (rb == 0) rd (fun k => resBswap (k.reg ra)) 1)

/-! ### Immediate instructions (R292) -/

def execAddi (c : CoreId) (rd ra : BitVec 5) (imm : BitVec 16) (s : State) : Answer :=
  .next (s.compute c.toNat true rd (fun k => k.reg ra + sext16 imm) 1)
def execAndi (c : CoreId) (rd ra : BitVec 5) (imm : BitVec 16) (s : State) : Answer :=
  .next (s.compute c.toNat true rd (fun k => k.reg ra &&& zext16 imm) 1)
def execOri (c : CoreId) (rd ra : BitVec 5) (imm : BitVec 16) (s : State) : Answer :=
  .next (s.compute c.toNat true rd (fun k => k.reg ra ||| zext16 imm) 1)
def execXori (c : CoreId) (rd ra : BitVec 5) (imm : BitVec 16) (s : State) : Answer :=
  .next (s.compute c.toNat true rd (fun k => k.reg ra ^^^ zext16 imm) 1)

/-- SHI: the kind in imm[7:6] (3 reserved) and the amount in imm[5:0]; imm[15:8] must be 0. -/
def resShi (a : Word) (imm : BitVec 16) : Word :=
  let n := bits imm.toNat 5 0
  match bits imm.toNat 7 6 with
  | 0 => a <<< n
  | 1 => a >>> n
  | _ => a.sshiftRight n

def execShi (c : CoreId) (rd ra : BitVec 5) (imm : BitVec 16) (s : State) : Answer :=
  .next (s.compute c.toNat (bits imm.toNat 15 8 == 0 && bits imm.toNat 7 6 != 3) rd (fun k => resShi (k.reg ra) imm) 1)
/-- imm16 shifted left by 16, sign-extended from bit 31; ra must be g0. -/
def execLui (c : CoreId) (rd ra : BitVec 5) (imm : BitVec 16) (s : State) : Answer :=
  .next (s.compute c.toNat (ra == 0) rd (fun _ => (imm ++ (0 : BitVec 16)).signExtend 64) 1)
def execSlti (c : CoreId) (rd ra : BitVec 5) (imm : BitVec 16) (s : State) : Answer :=
  .next (s.compute c.toNat true rd (fun k => flag ((k.reg ra).slt (sext16 imm))) 1)
def execSltiu (c : CoreId) (rd ra : BitVec 5) (imm : BitVec 16) (s : State) : Answer :=
  .next (s.compute c.toNat true rd (fun k => flag ((k.reg ra).ult (sext16 imm))) 1)

end Sys2Proof.Machine
end

