-- ==== Sys2Proof/Machine/Bnu.lean ====
section
/-! DEFINITION. The big-number unit of a cell (07): the catalogue of microprograms with their operands, keys, random lengths
and cycles, and the commands BNX and BNX_END (11 R308). -/

namespace Sys2Proof.Machine

/-! ### Costs (R187 to R190) -/

/-- Montgomery multiplication, constant-time inversion, ladder step and modular addition, in cycles (R187). -/
def mmCycles (n : Nat) : Nat :=
  let d := (n + 255) / 256
  16 * d * d + 8 * d + 40
def invCycles (n : Nat) : Nat := 2 * n * ((n + 255) / 256 + 3)
def stepCycles (n : Nat) : Nat := 2 * mmCycles n + 2 * (n / 64)
def addCycles (n : Nat) : Nat := n / 64 + 8

/-- RSA_SIGN_CRT for an n-bit key (R189). -/
def rsaCycles (n : Nat) : Nat :=
  let h := n / 2
  2 * (h + 64) * stepCycles h + 8 * mmCycles h + 42 * mmCycles n + invCycles h + invCycles n + 28 * (h / 64) + 512

/-- Non-zero windows of the 4-bit sliding-window form, from the most significant bit on. -/
def windowsOf : Nat → List Bool → Nat
  | 0, _ => 0
  | _, [] => 0
  | f + 1, false :: t => windowsOf f t
  | f + 1, true :: t =>
    let w := ((true :: t).take 4).reverse.dropWhile (fun b => !b)
    1 + windowsOf f ((true :: t).drop w.length)

/-- Bit length of a number below 2^64. -/
def bitLen (n : Nat) : Nat := if n = 0 then 0 else Nat.log2 n + 1

/-- EXP_PUB and RSA_VERIFY with an exponent (R189). -/
def expCycles (n e : Nat) : Nat :=
  let w := windowsOf 64 (((bitsOf 64 e).reverse).dropWhile (fun b => !b))
  (8 + (bitLen e - 1) + (w - 1) + 2) * mmCycles n + 2 * (n / 64)

/-! ### The catalogue (R188 to R190, R194) -/

/-- One microprogram under a size and flags. -/
structure Mp where
  /-- Bytes of operands A, B, C and of the result; 0 for none. -/
  a : Nat := 0
  b : Nat := 0
  c : Nat := 0
  res : Nat := 0
  random : Nat := 0
  /-- Algorithms that the half must hold; none when no key is needed. -/
  keys : List Nat := []
  /-- A per-signature secret is needed (R178). -/
  sign : Bool := false
  sizeOk : Bool
  /-- The result may lie on operand A (R190). -/
  inPlace : Bool := false
  /-- The result is accumulated into operand C (R190). -/
  acc : Bool := false
  /-- A result check of R195 can end it with CHECK_FAILED. -/
  checked : Bool := false
  cycles : Nat := 0

/-- Encoded key or point, and signature, of Ed25519 and Ed448, padded to 8 (R180). -/
def edBytes (v : Nat) : Nat := if v = 4 then 32 else 64
def edSig (v : Nat) : Nat := if v = 4 then 64 else 120
/-- Bytes of a scalar below ℓ. -/
def edScalarLen (v : Nat) : Nat := if v = 4 then 32 else 56

/-- Records of a batch, and bytes of one with its hash: where the count stands is not given, so it is an open function of
operand B's first limb (log entry 20). -/
def batchCount (b : Bytes) : Nat := 1 + Config.stdNat .batchCount [b] % 64
def batchRecord : Nat := 136

/-- What operand B of the SHAKE microprograms says, in a form that is not given (log entry 20): input length, output length, and
whether it is SHAKE256. -/
def shakeIn (b : Bytes) : Nat := Config.stdNat .shakeForm [b, [0]] % 4032
def shakeOut (b : Bytes) : Nat := Config.stdNat .shakeForm [b, [1]] % 4032
def shake256Form (b : Bytes) : Bool := Config.stdHolds .shakeForm [b]
def shakeRate (b : Bytes) : Nat := if shake256Form b then 136 else 168

/-- The generic microprograms, for operands of `n` bits; `e` is operand B's public exponent (R189). -/
def genericMp (num n e : Nat) : Option Mp :=
  let nb := n / 8
  let gen := decide (n % 64 = 0 ∧ 64 ≤ n ∧ n ≤ 4096)
  match num with
  | 0x01 => some { a := nb, b := nb, c := nb, res := nb, sizeOk := gen, cycles := mmCycles n }
  | 0x02 => some { a := nb, c := nb, res := nb, sizeOk := gen, cycles := mmCycles n }
  | 0x03 => some { a := nb, c := nb, res := nb, sizeOk := gen, cycles := mmCycles n }
  | 0x04 => some { a := nb, b := nb, c := nb, res := nb, sizeOk := gen, cycles := addCycles n }
  | 0x05 => some { a := nb, b := nb, c := nb, res := nb, sizeOk := gen, cycles := addCycles n }
  | 0x06 => some { a := nb, c := nb, res := nb, sizeOk := gen, cycles := invCycles n }
  | 0x07 => some { a := nb, b := 8, c := nb, res := nb, sizeOk := gen, cycles := expCycles n e }
  | 0x08 => some { a := nb / 2, res := 8, random := nb / 2 + 8, sizeOk := gen && n % 128 == 0
                   cycles := n / 2 * stepCycles (n / 2) + 4 * mmCycles (n / 2) }
  | 0x10 => some { a := nb, res := nb, random := 16 + nb + 8, sizeOk := n == 2048 || n == 3072 || n == 4096
                   keys := [if n = 2048 then 0x20 else if n = 3072 then 0x21 else 0x22], checked := true, cycles := rsaCycles n }
  | 0x11 => some { a := nb, b := 8, c := nb, res := nb, sizeOk := gen, cycles := expCycles n e }
  | _ => none

/-- The curve microprograms, by variant (R188). -/
def curveMp (num : Nat) (sized eph : Bool) (b : Bytes) : Option Mp :=
  let i := num % 4
  let pick (x y z : Nat) : Nat := if i = 0 then x else if i = 1 then y else z
  let l := ladderRandom (i + 1)
  let fs := scalarLen (i + 1)
  let keys := [0x28 + i]
  let v := 4 + i
  let u := (montgomery (10 + i)).size
  let m := ladderRandom (10 + i)
  match num with
  | 0x20 | 0x21 | 0x22 => some { a := fs, res := 2 * fs, random := 2 * l, keys, sign := true, sizeOk := sized, checked := true
                                 cycles := pick 238000 490000 992000 }
  | 0x24 | 0x25 | 0x26 => some { a := 2 * fs, b := 2 * fs, c := fs, res := 8, sizeOk := sized, cycles := pick 318000 662800 1355000 }
  | 0x28 | 0x29 | 0x2A =>
    if eph then some { a := 2 * fs, res := 3 * fs, random := 2 * l + scalarRandom (i + 1), sizeOk := sized, checked := true
                       cycles := pick 238000 485000 985000 }
    else some { a := 2 * fs, res := fs, random := l, keys, sizeOk := sized, checked := true, cycles := pick 120000 245000 495000 }
  | 0x2C | 0x2D | 0x2E => some { res := 2 * fs, random := l, keys, sizeOk := sized, checked := true
                                 cycles := pick 120000 245000 495000 }
  | 0x30 | 0x31 => some { a := edScalarLen v, res := edSig v, random := 2 * ladderRandom v, keys := [0x30 + i], sign := true
                          sizeOk := sized, checked := true, cycles := pick 140000 495000 0 }
  | 0x34 | 0x35 => some { a := edBytes v, b := edSig v, c := edScalarLen v, res := 8, sizeOk := sized, cycles := pick 290000 960000 0 }
  | 0x38 | 0x39 =>
    if eph then some { a := u, res := 2 * u, random := 2 * m + scalarRandom (10 + i), sizeOk := sized, checked := true
                       cycles := pick 120000 400000 0 }
    else some { a := u, res := u, random := m, keys := [0x32 + i], sizeOk := sized, checked := true, cycles := pick 61000 200000 0 }
  | 0x3C | 0x3D => some { res := edBytes v, random := ladderRandom v, keys := [0x30 + i], sizeOk := sized, checked := true
                          cycles := pick 70000 247000 0 }
  | 0x3E =>
    let k := batchCount b
    some { a := batchRecord * k, b := 16 * k, res := 8, sizeOk := sized, cycles := 25000 + 142000 * k }
  | _ => none

/-- The lattice microprograms (R190); the cycles of rejection sampling rest on the seed (`mpCycles`). -/
def latticeMp (num n : Nat) (b : Bytes) : Option Mp :=
  let sized := n == 0
  let blocks := (shakeIn b + shakeRate b) / shakeRate b + ((shakeOut b + shakeRate b - 1) / shakeRate b - 1)
  let shakes (keys : List Nat) (inPlace : Bool) : Mp :=
    { a := shakeIn b, b := 8, res := shakeOut b, keys, sizeOk := sized, inPlace, cycles := 26 * blocks + 64 }
  match num with
  | 0x40 => some { a := 512, res := 512, random := 16, sizeOk := sized, inPlace := true, cycles := 184 }
  | 0x41 => some { a := 512, res := 512, random := 16, sizeOk := sized, inPlace := true, cycles := 200 }
  | 0x42 => some { a := 512, b := 512, c := 512, res := 512, sizeOk := sized, inPlace := true, acc := true, cycles := 48 }
  | 0x43 => some { a := 34, res := 512, sizeOk := sized }
  | 0x44 => some { a := 1, res := 512, keys := [0x38, 0x39, 0x3A], sizeOk := n == 2 || n == 3, cycles := if n = 2 then 90 else 116 }
  | 0x48 => some { a := 1024, res := 1024, random := 16, sizeOk := sized, inPlace := true, cycles := 320 }
  | 0x49 => some { a := 1024, res := 1024, random := 16, sizeOk := sized, inPlace := true, cycles := 344 }
  | 0x4A => some { a := 1024, b := 1024, c := 1024, res := 1024, sizeOk := sized, inPlace := true, acc := true, cycles := 56 }
  | 0x4B => some { a := 34, res := 1024, sizeOk := sized }
  | 0x4C => some { a := 1, res := 1024, keys := [0x40, 0x41, 0x42], sizeOk := n == 2 || n == 4, cycles := 168 }
  | 0x50 => some (shakes [] true)
  | 0x51 => some (shakes [0x38, 0x39, 0x3A, 0x40, 0x41, 0x42] false)
  | _ => none

/-- A row of the catalogue, for a microprogram number, size field and EPH; `b` is the first limb of operand B. -/
def mpOf (num n : Nat) (eph : Bool) (b : Bytes) : Option Mp :=
  if num < 0x20 then genericMp num n (Machine.num b) else if num < 0x40 then curveMp num (n == 0) eph b else latticeMp num n b

/-! ### The control block (R181) -/

/-- The control block of a bank of a cell, as 64 bytes. -/
def bankKey (c : Nat) (bank : Bool) : Nat := cellBase c + (if bank then bankL else bankS)

def cbNum (cb : Bytes) : Nat := field cb 0 2
def cbSize (cb : Bytes) : Nat := field cb 2 2
def cbYld (cb : Bytes) : Bool := bit (field cb 4 1) 0
def cbEph (cb : Bytes) : Bool := bit (field cb 4 1) 1
def cbStatus (cb : Bytes) : Nat := field cb 6 2
def cbA (cb : Bytes) : Nat := field cb 8 2
def cbB (cb : Bytes) : Nat := field cb 10 2
def cbC (cb : Bytes) : Nat := field cb 12 2
def cbRes (cb : Bytes) : Nat := field cb 14 2
def cbRandom (cb : Bytes) : Nat := field cb 16 2
def cbRandomLen (cb : Bytes) : Nat := field cb 18 2
def cbStep (cb : Bytes) : Nat := field cb 24 8
/-- The load count recorded at the start: byte 40 of the microprogram's state (log entry 20). -/
def cbLoads (cb : Bytes) : Nat := field cb 40 1

/-- An operand lies in the operand area, aligned to 8 (R181); one of no bytes is not looked at. -/
def operandOk (off len : Nat) : Bool := len == 0 || (off % 8 == 0 && decide (0x40 ≤ off) && decide (off + len ≤ 0x1000))

/-- Two operands share a byte. -/
def overlap (a la b lb : Nat) : Bool := la != 0 && lb != 0 && decide (a < b + lb) && decide (b < a + la)

/-- The secret half that goes with a bank. -/
def Cell.half (x : Cell) (bank : Bool) : Half := if bank then x.halfL else x.halfS

/-- The status with which BNX refuses a control block, if it does (R183, R184; for the order, log entry 20). Of overlaps BAD_OFFSET
refuses a result that meets A, B or C: the rule names none (log entry 72). -/
def bnxCheck (cb : Bytes) (m : Option Mp) (h : Half) : Option Nat :=
  match m with
  | none => some 0x12
  | some m =>
    let resOk := operandOk (cbRes cb) m.res
    let meets := !(m.acc && cbRes cb == cbC cb) && ((overlap (cbRes cb) m.res (cbA cb) m.a && !(m.inPlace && cbRes cb == cbA cb)) ||
      overlap (cbRes cb) m.res (cbB cb) m.b || overlap (cbRes cb) m.res (cbC cb) m.c)
    if field cb 4 1 / 4 ≠ 0 ∨ field cb 5 1 ≠ 0 ∨ field cb 20 4 ≠ 0 then some 0x12
    else if !m.sizeOk then some 0x10
    else if !operandOk (cbA cb) m.a || !operandOk (cbB cb) m.b || !operandOk (cbC cb) m.c || !resOk ||
        !operandOk (cbRandom cb) m.random || meets then some 0x11
    else if m.keys ≠ [] ∧ !h.full then some 0x20
    else if m.keys ≠ [] ∧ (!m.keys.contains h.alg || (m.sign && !h.perSig) ||
        (cbNum cb == 0x10 && !rsaKeyOk (cbSize cb) h.key)) then some 0x21
    else if cbRandomLen cb < m.random then some 0x23
    else none

/-! ### Results -/

/-- What a microprogram ends with: a status code, and the result when it is DONE. -/
abbrev MpEnd := Nat × Bytes

def mpDone (res : Bytes) : MpEnd := (0, res)
/-- DONE with a verdict; the values of the result word are not given (log entry 20). -/
def mpVerdict (ok : Bool) : MpEnd := (0, stdBytes .verdictWord [[BitVec.ofNat 8 (b2n ok)]] 8)

/-- The Montgomery radix of a size: a power of two, whose exponent is not given (log entry 20). -/
def mpRadix (n c : Nat) : Nat := expMod 2 (Config.stdNat .montgomery [le 2 n]) c

/-- The generic and RSA microprograms on operands A, B and C (R189, R191). -/
def genericEnd (mp n a b c : Nat) (random key : Bytes) : MpEnd :=
  let nb := n / 8
  let reduced := c % 2 == 1 && decide (a < c)
  let out (ok : Bool) (r : Nat) : MpEnd := if ok then mpDone (le nb r) else (0x13, [])
  match mp with
  | 0x01 => out (reduced && decide (b < c)) (a * b * (invMod c (mpRadix n c)).getD 0 % c)
  | 0x02 => out reduced (a * mpRadix n c % c)
  | 0x03 => out reduced (a * (invMod c (mpRadix n c)).getD 0 % c)
  | 0x04 => out (reduced && decide (b < c)) (addMod c a b)
  | 0x05 => out (reduced && decide (b < c)) (subMod c a b)
  | 0x06 =>
    if !reduced then (0x13, [])
    else match invMod c a with
      | some i => mpDone (le nb i)
      | none => (0x14, [])
  | 0x07 => out (reduced && b % 2 == 1 && decide (b < 2 ^ 32)) (expMod a b c)
  | 0x08 => if a % 2 = 0 then (0x13, []) else mpVerdict (decide (1 < a) && millerRabin a (1 + num random % (a - 1)))
  | 0x10 =>
    if (rsaOf key).n ≤ a then (0x13, [])
    else match rsaSign key a random with
      | some r => mpDone (le nb r)
      | none => (0x31, [])
  | _ => out (c % 2 == 1 && b % 2 == 1 && decide (b < 2 ^ 32)) (if c ≤ a then 0 else expMod a b c)

/-- Limbs of a prime-curve point, and the point that limbs give: below p, on the curve (R180, R195). -/
def limbPoint (fs : Nat) (q : Nat × Nat) : Bytes := le fs q.1 ++ le fs q.2
def pointOf (c : PrimeCurve) (fs : Nat) (bs : Bytes) : Point :=
  let x := num (bs.take fs)
  let y := num (bs.drop fs)
  if c.onCurve x y then some (x, y) else none

/-- The prime-curve microprograms (R188, R192, R195). The blinding words cancel; with EPH the scalar is the last operand bytes. A
signature with r or s zero is none: it ends with CHECK_FAILED, a case for which R195 names no status (log entry 72). -/
def primeEnd (mp : Nat) (eph : Bool) (a b c random key : Bytes) : MpEnd :=
  let v := mp % 4 + 1
  let e := primeCurve v
  let fs := scalarLen v
  match mp / 4 with
  | 8 =>
    if e.n ≤ num a then (0x13, [])
    else match e.sign (num (key.take fs)) (num (key.drop fs)) (num a) with
      | some q => mpDone (limbPoint fs q)
      | none => (0x31, [])
  | 9 =>
    match pointOf e fs a with
    | none => (0x30, [])
    | some q => mpVerdict (e.verify (some q) (num (b.take fs)) (num (b.drop fs)) (num c))
  | 10 =>
    match pointOf e fs a with
    | none => (0x30, [])
    | some q =>
      let k := if eph then ephemeral e.n (piece random (2 * ladderRandom v) (scalarRandom v)) else num (key.take fs)
      match e.mul k (some q), e.mul k e.base with
      | some (x, _), some p => mpDone ((if eph then limbPoint fs p else []) ++ le fs x)
      | _, _ => (0x31, [])
  | _ =>
    match e.mul (num (key.take fs)) e.base with
    | some p => mpDone (limbPoint fs p)
    | none => (0x31, [])

/-- The Edwards and Montgomery microprograms (R188, R192, R195). -/
def edwardsEnd (mp : Nat) (eph : Bool) (a b c random key : Bytes) : MpEnd :=
  let v := mp % 4 + 4
  let e := edwards v
  match mp / 4 with
  | 12 =>
    if e.l ≤ num a then (0x13, [])
    else mpDone (padTo (edSig v) (e.finish (edScalar v key) (num (key.drop (if v = 4 then 64 else 116))) (num a)))
  | 13 =>
    match e.key (a.take e.size) with
    | none => (0x30, [])
    | some q => mpVerdict (e.holds q (b.take (2 * e.size)) (num c))
  | 14 =>
    let x := v + 6
    let u := (montgomery x).size
    let scalar := if eph then le u (ephemeral (montgomeryOrder x) (piece random (2 * ladderRandom x) (scalarRandom x))) else key.take u
    match agree x scalar a with
    | some (pub, z) => mpDone ((if eph then pub else []) ++ z)
    | none => (0x30, [])
  | _ => mpDone (padTo (edBytes v) (e.public (edScalar v key)))

/-- BATCH_ED25519: each record holds the hash k in place of its message; all valid or not (R139, log entry 62). -/
def batchEnd (count : Nat) (a : Bytes) : MpEnd :=
  let rs := batchRecords count a
  if rs.any (fun r => (ed25519.key r.1).isNone) then (0x30, [])
  else mpVerdict (rs.all (fun r => ((ed25519.key r.1).map (fun q => ed25519.holds q r.2.1 (num r.2.2))).getD false))

/-- Coefficients of a polynomial in the workspace, and back (R180). -/
def coefficients (w : Nat) (bs : Bytes) : Poly := unpackBits (8 * w) 256 bs
def polyBytes (w : Nat) (a : Poly) : Bytes := a.flatMap (le w)

/-- The noise seed of a half's key: σ of FIPS 203 from d, ρ' of FIPS 204 from ξ (log entry 20). -/
def noiseSeed (alg : Nat) (key : Bytes) : Bytes :=
  if latticeOf alg ≠ 0 then (sha3 64 (key.take 32 ++ le 1 (kemSet (latticeOf alg)).k)).drop 32
  else
    let p := dsaSet (variantOf alg)
    piece (shake256 (key.take 32 ++ le 1 p.k ++ le 1 p.l) 128) 32 64

/-- The lattice microprograms (R190); `n` is η, `alg` the algorithm of the half's key. -/
def latticeEnd (mp n alg : Nat) (a b c key : Bytes) : MpEnd :=
  let d := mp % 16 / 8 == 1
  let f := if d then ringD else ringK
  let w := if d then 4 else 2
  let x := coefficients w a
  let y := coefficients w b
  let z := coefficients w c
  let below (l : Poly) : Bool := l.all (fun v => decide (v < f.q))
  let out (ok : Bool) (r : Poly) : MpEnd := if ok then mpDone (polyBytes w r) else (0x13, [])
  match mp with
  | 0x40 | 0x48 => out (below x) (f.ntt x)
  | 0x41 | 0x49 => out (below x) (f.intt x)
  | 0x42 | 0x4A => out (below x && below y && below z) (f.addP z (f.mulP x y))
  | 0x43 => out true (sampleA triplesK a).1
  | 0x4B => out true (sampleA triplesD a).1
  | 0x44 => out true (cbd n (shake256 (noiseSeed alg key ++ a) (64 * n)))
  | 0x4C => out true (sampleEta n (noiseSeed alg key ++ a ++ [0])).1
  | _ =>
    let m := (if mp = 0x51 then key else []) ++ a
    mpDone (if shake256Form b then shake256 m (shakeOut b) else shake128 m (shakeOut b))

/-- The inputs of a run by place: operands A, B, C, the random operand, and the half's contents with its algorithm. -/
def BnuRun.part (r : BnuRun) (i : Nat) : Bytes := r.ins.getD i []

/-- What a run ends with. -/
def BnuRun.result (r : BnuRun) : MpEnd :=
  let mp := field r.cb 0 2
  let n := field r.cb 2 2
  let eph := bit (field r.cb 4 1) 1
  let a := r.part 0
  let b := r.part 1
  let c := r.part 2
  if mp < 0x20 then genericEnd mp n (num a) (num b) (num c) (r.part 3) (r.part 4)
  else if mp < 0x30 then primeEnd mp eph a b c (r.part 3) (r.part 4)
  else if mp < 0x3E then edwardsEnd mp eph a b c (r.part 3) (r.part 4)
  else if mp < 0x40 then batchEnd (batchCount (b.take 8)) a
  else latticeEnd mp n (num (r.part 5)) a b c (r.part 4)

/-- Cycles of a run: rejection sampling squeezes as many blocks as its seed asks for (R190). -/
def BnuRun.cycles (r : BnuRun) (m : Mp) : Nat :=
  match field r.cb 0 2 with
  | 0x43 => 26 * (sampleA triplesK (r.part 0)).2 + 64
  | 0x4B => 26 * (sampleA triplesD (r.part 0)).2 + 64
  | 0x4C => 64 + 26 * max 4 (sampleEta (field r.cb 2 2) (noiseSeed (num (r.part 5)) (r.part 4) ++ r.part 0 ++ [0])).2
  | 0x51 =>
    let rate := shakeRate (r.part 1)
    26 * (((r.part 4).length + (r.part 0).length + rate) / rate + ((shakeOut (r.part 1) + rate - 1) / rate - 1)) + 64
  | _ => m.cycles

end Sys2Proof.Machine
end

