-- ==== Sys2Proof/Machine/LeafBnx.lean ====
section
/-! DEFINITION. BNX: the control block, its refusals, the start, stop, yield, resumption and end of a microprogram (07 R183 to R201, 11
R307, R308). -/

namespace Sys2Proof.Machine

/-! ### BNX (11 R307, R308) -/

def Cell.bnu (x : Cell) (bank : Bool) : Option BnuRun := if bank then x.bnuL else x.bnuS
def Cell.setBnu (x : Cell) (bank : Bool) (r : Option BnuRun) : Cell :=
  if bank then { x with bnuL := r } else { x with bnuS := r }

/-- The inputs of a microprogram: its operands, the random operand, and the half's contents with its algorithm. -/
def State.bnuInputs (s : State) (c : Nat) (bank : Bool) (cb : Bytes) (m : Mp) : List Bytes :=
  let k := bankKey c bank
  let h := (s.cell c).half bank
  [s.rd (k + cbA cb) m.a, s.rd (k + cbB cb) m.b, s.rd (k + cbC cb) m.c, s.rd (k + cbRandom cb) m.random,
    if m.keys = [] then [] else h.key, le 1 h.alg]

/-- The status is written, rd receives it, and the instruction retires. -/
def State.bnxReturn (s : State) (c : Nat) (bank : Bool) (rd : BitVec 5) (st cycles : Nat) : State :=
  let s := s.wr (bankKey c bank + 6) (le 2 st)
  let k := s.core c
  s.retire c { (k.setReg rd (BitVec.ofNat 64 st)) with wait := .none, prog := 0, pc := k.pc + 4 } (20 + cycles)

/-- BNX resumes the microprogram of a bank from a step; a load count that has changed ends it (07 R183, R185). -/
def State.bnxResume (s : State) (c : Nat) (bank : Bool) (rd : BitVec 5) (step : Nat) : State :=
  let k := bankKey c bank
  if cbLoads (s.rd k 64) ≠ ((s.cell c).half bank).loads.toNat then s.bnxReturn c bank rd 0x22 0
  else
    let s := (s.wr (k + 6) (le 2 1)).wr (k + 24) (le 8 step)
    s.modCore c (fun x => { x with prog := 0, wait := .bnx bank rd })

/-- What ERET goes on with: PROG names the microprogram (07 R197, 11 R308). A bank that keeps another one, or none, meets it with what it
holds now. -/
def State.bnxProg (s : State) (c : Nat) (bank : Bool) (num : Nat) : State :=
  let kept := ((s.cell c).bnu bank).filter (fun r => cbNum r.cb == num)
  let cb := s.rd (bankKey c bank) 64
  let run : BnuRun := kept.getD { cb := le 2 num ++ cb.drop 2, ins := [], left := some [] }
  s.modCell c (fun x => x.setBnu bank (some run))

/-- BNX with a granted bank: resume, refuse or start (07 R183, R185, R197). It waits while a delivery into the half of its bank is in
flight: the cell stays at it (11 R308). -/
def State.bnxStart (s : State) (c : Nat) (bank : Bool) (rd : BitVec 5) : State :=
  let s := s.deliverAll c bank
  let k := bankKey c bank
  let cb := s.rd k 64
  let h := (s.cell c).half bank
  let m := mpOf (cbNum cb) (cbSize cb) (cbEph cb) (s.rd (k + cbB cb) 8)
  let prog := (s.core c).prog.toNat
  if (s.cell c).delivering bank ≠ [] then s
  else if (s.core c).kind = 2 then (s.bnxProg c bank (bits prog 28 22)).bnxResume c bank rd (bits prog 21 0)
  else if cbStatus cb = 2 ∨ cbStatus cb = 3 then s.bnxResume c bank rd (cbStep cb)
  else
    match bnxCheck cb m h, m with
    | none, some m =>
      let run : BnuRun := { cb, ins := s.bnuInputs c bank cb m }
      let s := s.wr (k + 6) (le 2 1)
      let s := (s.wr (k + 24) (le 8 0 ++ s.freeBytes 8 ++ le 1 h.loads.toNat ++ (s.freeBytes 31).drop 8)).drawn
      s.modCell c (fun x => { (x.setBnu bank (some run)) with core := { x.core with prog := 0, wait := .bnx bank rd } })
    | some st, _ => s.bnxReturn c bank rd st 0
    | none, none => s.bnxReturn c bank rd 0x12 0

/-- KBOUND grants function level a bank and its half (11 R287). -/
def Core.bankGranted (k : Core) (bank : Bool) : Bool := !k.pl || bit k.kbound.toNat (if bank then 17 else 16)

/-- BNX rd, bank; illegal on the trunk (11 R282). It holds the cell until BNX_END. A PROG of KIND 2 must name the same bank (11 R301). -/
def execBnx (c : CoreId) (rd : BitVec 5) (imm : BitVec 8) (s : State) : Answer :=
  let c := c.toNat
  if s.runs c then
    let k := s.core c
    let bank := bit imm.toNat 0
    let other := k.kind == 2 && bit k.prog.toNat 29 != bank
    if 2 ≤ imm.toNat ∨ k.kind = 3 ∨ k.kind = 1 ∨ other ∨ c = trunkCore then .next (s.raise c { exc := .illegal })
    else if !k.bankGranted bank then .next (s.raise c { exc := .protection })
    else .next (s.bnxStart c bank rd)
  else .next s

/-- The operand area after a microprogram has worked in it: any byte but the result may have changed (07 R182). -/
def State.scramble (s : State) (c : Nat) (bank : Bool) (off len : Nat) : State :=
  let k := bankKey c bank
  let keep := s.rd (k + off) len
  let s := (s.wr (k + 0x40) (s.freeBytes 4032)).drawn
  s.wr (k + off) keep

/-- The run of a bank: as it started, or, where software itself wrote the status of a stopped one, what the bank says now; and
its row of the catalogue. -/
def State.bnuRun (s : State) (c : Nat) (bank : Bool) : BnuRun × Mp :=
  let k := bankKey c bank
  let cb := s.rd k 64
  let row (cb b : Bytes) : Mp := (mpOf (cbNum cb) (cbSize cb) (cbEph cb) b).getD { sizeOk := true }
  match (s.cell c).bnu bank with
  | some r => (r, row r.cb ((r.part 1).take 8))
  | none =>
    let m := row cb (s.rd (k + cbB cb) 8)
    ({ cb, ins := s.bnuInputs c bank cb m, left := some [] }, m)

/-- Where the result goes: a product is accumulated into operand C, or in place into operand A (R190, log entry 20). -/
def resultAt (cb : Bytes) (m : Mp) : Nat := if m.acc ∧ cbRes cb ≠ cbA cb then cbC cb else cbRes cb

/-- The bank but for its status field. -/
def State.bankLeft (s : State) (c : Nat) (bank : Bool) : Bytes :=
  let k := bankKey c bank
  s.rd k 6 ++ s.rd (k + 8) 4088

/-- The end of a run whose bank was written while it was stopped (R185): a microprogram with a result check ends with
CHECK_FAILED, or with a result that passes the check for operands that are open; any other is DONE with an open result. -/
def State.disturbedEnd (s : State) (r : BnuRun) (m : Mp) : MpEnd :=
  if !m.checked then (0, s.freeBytes m.res)
  else
    let open_ := { r with ins := [s.freeBytes m.a, (s.freeBytes (m.a + m.b)).drop m.a, (s.freeBytes (m.a + m.b + m.c)).drop (m.a + m.b),
      r.part 3, r.part 4, r.part 5] }
    if s.freeNat % 2 = 0 ∨ open_.result.1 ≠ 0 then (0x31, []) else open_.result

/-- Cycles to each progress point: at most 64 (07 R197), and the model takes 64 (log entry 20). -/
def pointCycles : Nat := 64

/-- The bank after `points` more progress points, with what a run that stops there keeps. What was stored into the bank while it was
stopped stays remembered over a second stop (R185). -/
def State.bnxPause (s : State) (c : Nat) (bank : Bool) (points : Nat) : State :=
  let k := bankKey c bank
  let (run, m) := s.bnuRun c bank
  let known := run.left.all (fun l => l == s.bankLeft c bank)
  let s := (s.wr (k + 24) (le 8 (cbStep (s.rd k 64) + points))).scramble c bank (resultAt run.cb m) m.res
  let left := if known then s.bankLeft c bank else []
  s.modCell c (fun x => { (x.setBnu bank (some { run with left := some left })) with
    core := { x.core with cycle := x.core.cycle + BitVec.ofNat 64 (pointCycles * points) } })

/-- An interrupt stops the microprogram that holds the cell, after `points` more progress points (R197, 11 R308). -/
def State.bnxStop (s : State) (c points : Nat) : State :=
  match (s.core c).wait with
  | .bnx bank _ =>
    let k := bankKey c bank
    let num := cbNum (s.bnuRun c bank).1.cb
    let step := cbStep (s.rd k 64) + points
    ((s.bnxPause c bank points).wr (k + 6) (le 2 2)).modCore c (fun x => { x with wait := .none, prog := progBnx bank num step })
  | _ => s

/-- The microprogram ends: result or status, the event of a check that failed (R195, R196). Its bank keeps nothing of it. -/
def State.bnxDone (s : State) (c : Nat) (bank : Bool) (rd : BitVec 5) (points : Nat) : State :=
  let k := bankKey c bank
  let step := cbStep (s.rd k 64)
  let (run, m) := s.bnuRun c bank
  let at_ := resultAt run.cb m
  let known := run.left.all (fun l => l == s.bankLeft c bank)
  let (st, res) := if known then run.result else s.disturbedEnd run m
  let s := ((if known then s else s.drawn).wr (k + 24) (le 8 (step + points))).scramble c bank at_ m.res
  let s := if st = 0 then s.wr (k + at_) res else s
  let s := (s.modCell c (fun x => x.setBnu bank none)).bnxReturn c bank rd st (run.cycles m - pointCycles * step)
  if st = 0x31 then s.notify 0x0202 c (le 1 c ++ le 1 (cbNum run.cb)) else s

/-- BNX_END: the microprogram that holds the cell ends, stops or yields after `points` more progress points (07 R183, R195 to
R198). -/
def execBnxEnd (c : BitVec 8) (o : BnxOutcome) (points : Nat) (s : State) : Answer :=
  let c := c.toNat
  match (s.core c).wait with
  | .bnx bank rd =>
    match o with
    | .stopped => .next (s.bnxStop c points)
    | .yielded =>
      if cbYld (s.rd (bankKey c bank) 64) then .next ((s.bnxPause c bank points).bnxReturn c bank rd 3 0) else .next s
    | .ended => .next (s.bnxDone c bank rd points)
  | _ => .next s

end Sys2Proof.Machine
end

