-- ==== Sys2Proof/Machine/Periph.lean ====
section
/-! DEFINITION. The registers of the pages that a cell reaches: its control page (06 R154), the digest engine (08 R223, R224),
the pipeline request port (08 R216), the Seed page (10 R275) and the dispatcher interface (06 R155, 12 R330). Each register is
one 32-bit word; a narrower access takes its bytes (log entry 21). -/

namespace Sys2Proof.Machine

/-- A 64-bit value with its low (`high` false) or high word replaced. -/
def setWord (x : BitVec 64) (high : Bool) (v : BitVec 32) : BitVec 64 :=
  if high then v ++ x.extractLsb' 0 32 else x.extractLsb' 32 32 ++ v

def wordOf (x : BitVec 64) (high : Bool) : Nat := (if high then x.extractLsb' 32 32 else x.extractLsb' 0 32).toNat

/-! ### Control page (R154) -/

def State.controlRead (s : State) (c off : Nat) : Nat :=
  let x := s.cell c
  match off with
  | 0x000 => c % 256
  | 0x004 => x.st.code
  | 0x008 => x.ctick.toNat % 2 ^ 32
  | 0x00C => x.ctick.toNat / 2 ^ 32
  | 0x010 => x.brem % 2 ^ 19
  | 0x014 => x.jtime % 2 ^ 32
  | 0x018 => x.jpart
  | 0x01C => x.planBase.toNat
  | 0x020 => x.cntJob.toNat
  | 0x024 => x.cntBusy.toNat
  | 0x028 => x.cntSeed.toNat
  | 0x02C => min 255 (s.fenceCount c)
  | _ => 0

/-! ### Digest engine page (R223, R224) -/

def DState.code : DState → Nat
  | .idle => 0
  | .busy => 1
  | .open => 2
  | .done => 3
  | .error => 4

def DSaveSt.code : DSaveSt → Nat
  | .none => 0
  | .done => 1
  | .refused => 2
  | .failed => 3

def DCtx.read (d : DCtx) (off : Nat) : Nat :=
  match off with
  | 0x00 => d.alg.toNat + b2n d.keyed * 16 + b2n d.pair * 32
  | 0x04 => d.key.toNat
  | 0x08 => wordOf d.list false
  | 0x0C => wordOf d.list true
  | 0x10 => d.count.toNat
  | 0x18 => d.state.code + d.saveSt.code * 8 + d.gen.toNat * 2 ^ 8 + d.code.toNat * 2 ^ 16
  | 0x1C => wordOf d.bytes false
  | 0x20 => d.bytesH.toNat
  | 0x24 => d.outLen.toNat
  | 0x28 => wordOf d.out false
  | 0x2C => wordOf d.out true
  | 0x30 => wordOf d.save false
  | 0x34 => wordOf d.save true
  | 0x80 => wordOf d.cmp false
  | 0x84 => wordOf d.cmp true
  | 0x88 => d.cmpLen.toNat
  | 0x90 => b2n d.cmpValid + 2 * b2n d.cmpMatch
  | _ => if 0x40 ≤ off ∧ off < 0x80 then field d.res (off - 0x40) 4 else 0

/-- A write of a register of context `i`; the registers that start something act at once. -/
def State.digestWrite (s : State) (c : Nat) (i : Bool) (off v : Nat) : State :=
  let w := BitVec.ofNat 32 v
  match off with
  | 0x00 => s.modDctx c i (fun d => { d with alg := BitVec.ofNat 4 v, keyed := bit v 4, pair := bit v 5 && !i })
  | 0x04 => s.modDctx c i (fun d => { d with key := w })
  | 0x08 => s.modDctx c i (fun d => { d with list := setWord d.list false w })
  | 0x0C => s.modDctx c i (fun d => { d with list := setWord d.list true w })
  | 0x10 => s.modDctx c i (fun d => { d with count := BitVec.ofNat 13 v })
  | 0x14 => if bit v 1 then s.dabort c i else if bit v 0 then s.dgo c i else s
  | 0x24 => s.modDctx c i (fun d => { d with outLen := BitVec.ofNat 11 v })
  | 0x28 => s.modDctx c i (fun d => { d with out := setWord d.out false w })
  | 0x2C => s.modDctx c i (fun d => { d with out := setWord d.out true w })
  | 0x30 => s.modDctx c i (fun d => { d with save := setWord d.save false w })
  | 0x34 => s.modDctx c i (fun d => { d with save := setWord d.save true w })
  | 0x38 => if bit v 0 then s.dsave c i else if bit v 1 then s.drestore c i else s
  | 0x80 => s.modDctx c i (fun d => { d with cmp := setWord d.cmp false w })
  | 0x84 => s.modDctx c i (fun d => { d with cmp := setWord d.cmp true w })
  | 0x88 => s.modDctx c i (fun d => { d with cmpLen := BitVec.ofNat 7 v })
  | 0x8C => if bit v 0 then s.dcmpgo c i else s
  | _ => s

/-! ### Pipeline request port (R216) -/

def PPort.read (p : PPort) (off : Nat) : Nat :=
  match off with
  | 0x004 => p.outstanding.length + 8 * b2n p.ticketS.isSome + 16 * b2n p.ticketL.isSome + p.done.toNat * 2 ^ 8
  | 0x008 => b2n p.ovf + 2 * b2n p.addr
  | _ => 0

def State.portWrite (s : State) (c off v : Nat) : State :=
  match off with
  | 0x000 => s.pqpost c (BitVec.ofNat 32 v)
  | 0x008 => s.modCell c (fun x => { x with
      port := { x.port with ovf := x.port.ovf && !bit v 0, addr := x.port.addr && !bit v 1 } })
  | _ => s

/-! ### Seed page (R275) -/

def SrState.code : SrState → Nat
  | .idle => 0
  | .waiting => 1
  | .done => 2
  | .failed => 3

def State.seedRead (s : State) (c off : Nat) : Nat :=
  let p := (s.cell c).seed
  match off with
  | 0x000 => p.dst.toNat % 2 ^ 32
  | 0x004 => p.dst.toNat / 2 ^ 32
  | 0x00C => p.state.code + 4 * b2n p.ovr + 8 * b2n p.addr + p.code.toNat * 2 ^ 16
  | 0x014 => (s.grove (groveOf c)).gen.queue.length + b2n s.seed.fail * 2 ^ 16 + s.seed.mode.code * 2 ^ 17
  | _ => 0

def State.seedPageWrite (s : State) (c off v : Nat) : State :=
  match off with
  | 0x000 => s.modCell c (fun x => { x with
      seed := { x.seed with dst := BitVec.ofNat 40 (x.seed.dst.toNat / 2 ^ 32 * 2 ^ 32 + v) } })
  | 0x004 => s.modCell c (fun x => { x with
      seed := { x.seed with dst := BitVec.ofNat 40 (v % 256 * 2 ^ 32 + x.seed.dst.toNat % 2 ^ 32) } })
  | 0x008 => s.srreq c (BitVec.ofNat 32 v)
  | 0x00C => s.modCell c (fun x => { x with
      seed := { x.seed with ovr := x.seed.ovr && !bit v 2, addr := x.seed.addr && !bit v 3 } })
  | 0x010 => if bit v 0 then s.srcancel c else s
  | _ => s

/-! ### Dispatcher interface (R155, 12 R330) -/

def State.dispatchRead (s : State) (c off : Nat) : Nat :=
  let x := s.cell c
  if 0x800 ≤ off then
    let e := (tblGet (s.grove (groveOf c)).access ((off - 0x800) / 8)).getD 0
    wordOf e (off / 4 % 2 == 1)
  else match off with
    | 0x00C => b2n (s.grove (groveOf c)).dpBusy
    | 0x010 => x.atPart + b2n x.atValid * 2 ^ 8 + x.atRest
    | _ => 0

def State.dispatchWrite (s : State) (c off v : Nat) : State :=
  match off with
  | 0x000 => s.dppost c (BitVec.ofNat 32 v)
  | 0x004 => s.dpdisp c v
  | 0x008 => s.dprem c (bits v 20 0)
  | 0x010 => s.modCell c (fun x => { x with
      atPart := v % 64, atValid := bit v 8, atRest := bits v 31 9 * 2 ^ 9 + bits v 7 6 * 2 ^ 6 })
  | _ => s

/-! ### All pages -/

/-- The 32-bit register at an aligned offset of peripheral page 1 to 4. -/
def State.pageRead (s : State) (c page off : Nat) : Nat :=
  match page with
  | 1 => if off < 0x200 then (s.cell c).dctx0.read off else if off < 0x400 then (s.cell c).dctx1.read (off - 0x200) else 0
  | 2 => (s.cell c).port.read off
  | 3 => s.seedRead c off
  | _ => s.dispatchRead c off

/-- What a read changes: DBYTESL latches DBYTESH (R224). -/
def State.pageTouched (s : State) (c page off : Nat) : State :=
  if page = 1 ∧ off % 0x200 = 0x1C ∧ off < 0x400 then
    s.modDctx c (decide (0x200 ≤ off)) (fun d => { d with bytesH := d.bytes.extractLsb' 32 32 })
  else s

/-- A write of a whole register. -/
def State.pageWrite (s : State) (c page off v : Nat) : State :=
  match page with
  | 1 => if off < 0x200 then s.digestWrite c false off v else if off < 0x400 then s.digestWrite c true (off - 0x200) v else s
  | 2 => s.portWrite c off v
  | 3 => s.seedPageWrite c off v
  | _ => s.dispatchWrite c off v

/-- Aligned offsets of the registers that `n` bytes from `off` touch. -/
def wordsOf (off n : Nat) : List Nat :=
  (List.range 3).filterMap (fun i =>
    let o := off / 4 * 4 + 4 * i
    if o < off + n then some o else none)

/-- `n` bytes of a page from `off`, from the 32-bit registers that hold them. -/
def pageBytes (read : Nat → Nat) (off n : Nat) : Bytes :=
  piece ((wordsOf off n).flatMap (fun o => le 4 (read o))) (off % 4) n

/-- Registers with bits that a 1 clears: PQERR and SRSTAT. -/
def clearedByOne (page off : Nat) : Bool := (page == 2 && off == 8) || (page == 3 && off == 0xC)

/-- Bytes stored to a page: register by register, from the lowest; bytes not stored keep what the register reads, and write no 1
to a bit that a 1 clears (00 R7). -/
def State.pageStore (s : State) (c page off : Nat) (data : Bytes) : State :=
  s.each (wordsOf off data.length) (fun s o =>
    let old := le 4 (if clearedByOne page o then 0 else s.pageRead c page o)
    let new := (List.range 4).map (fun i =>
      if off ≤ o + i ∧ o + i < off + data.length then data.getD (o + i - off) 0 else old.getD i 0)
    s.pageWrite c page o (num new))

end Sys2Proof.Machine
end

