-- ==== Sys2Proof/Machine/LeafMem.lean ====
section
/-! DEFINITION. The memory instructions of a cell (11 R293 to R295) with the store buffer, split accesses (12 R334 to R336),
and the trunk's writes of access-table entries (12 R329, R333). -/

namespace Sys2Proof.Machine

/-! ### The store buffer (R294, 12 R336) -/

/-- A fabric store enters the buffer of 8. -/
def State.push (s : State) (c key : Nat) (data : Bytes) : State :=
  let s := if 8 ≤ (s.core c).sbuf.length then s.perform c else s
  s.modCore c (fun k => { k with sbuf := k.sbuf ++ [{ key, data }] })

/-- A byte of fabric memory as the cell sees it: the newest buffered store that covers it, or memory. -/
def State.seen (s : State) (c key : Nat) : Byte :=
  match (s.core c).sbuf.reverse.find? (fun b => decide (b.key ≤ key) && decide (key < b.key + b.data.length)) with
  | some b => b.data.getD (key - b.key) 0
  | none => memGet s.mem key

/-! ### Parts (12 R334) -/

/-- The parts of an access: it is cut at a 64-byte boundary. -/
def splitParts (addr n : Nat) : List (Nat × Nat) :=
  let m := 64 - addr % 64
  if n ≤ m then [(addr, n)] else [(addr, m), (addr + m, n - m)]

/-- The fault of a part (R283, 12 R331). -/
def State.partFault (s : State) (c addr : Nat) (kind : Kind) : Option (Exc × Nat) :=
  if 2 ^ 40 ≤ addr then some (.unmapped, 0) else s.check c (s.who c) addr kind

/-- The entry that decides an access goes into the cell's lookaside of 8 (12 R333). -/
def State.touchLook (s : State) (c addr : Nat) : State :=
  match region c addr with
  | .fabric _ | .periph _ _ =>
    let w := s.who c
    match (s.grove (groveOf c)).access.find? (fun p => entryMatches p.2 w.part c addr) with
    | some p => s.modCore c (fun k => { k with look := (p.1 :: k.look.filter (· != p.1)).take 8 })
    | none => s
  | _ => s

/-- Read one part that has passed its check. -/
def State.loadPart (s : State) (c addr n : Nat) : State × Bytes :=
  match region c addr with
  | .localMem k => (s, s.rd k n)
  | .fabric k => (s, (List.range n).map (fun i => s.seen c (k + i)))
  | .control off => (s, pageBytes (s.controlRead c) off n)
  | .periph p off =>
    let bs := pageBytes (s.pageRead c p) off n
    (s.each (wordsOf off n) (fun s o => s.pageTouched c p o), bs)
  | _ => (s, [])

/-- Write one part that has passed its check. A store to a peripheral page waits for the buffer. -/
def State.storePart (s : State) (c addr : Nat) (data : Bytes) : State × Option Report :=
  match region c addr with
  | .localMem k => (s.wr k data, none)
  | .fabric k => (s.push c k data, none)
  | .periph p off =>
    match s.fenced c with
    | (s, some r) => (s, some r)
    | (s, none) => (s.pageStore c p off data, none)
  | _ => (s, none)

/-- The report of a part that faults. -/
def partReport (f : Exc × Nat) (addr : Nat) (write : Bool) (split : Bool) (performed : Nat) : Report :=
  { exc := f.1, acc := if write then 2 else 1, split, chk := f.2, performed, faddr := BitVec.ofNat 64 addr }

/-- Load `n` bytes: the parts in order, each after its check. -/
def State.load (s : State) (c addr n : Nat) : State × Except Report Bytes :=
  let ps := splitParts addr n
  ps.foldl (fun (acc : State × Except Report Bytes) p =>
    match acc with
    | (s, .error r) => (s, .error r)
    | (s, .ok bs) =>
      match s.partFault c p.1 .read with
      | some f => (s, .error (partReport f p.1 false (decide (1 < ps.length)) bs.length))
      | none =>
        let (s, more) := (s.touchLook c p.1).loadPart c p.1 p.2
        (s, .ok (bs ++ more))) (s, .ok [])

/-- Store bytes: the parts in order, each after its check. -/
def State.store (s : State) (c addr : Nat) (data : Bytes) : State × Option Report :=
  let ps := splitParts addr data.length
  let r := ps.foldl (fun (acc : State × Option Report × Nat) p =>
    match acc with
    | (s, some r, n) => (s, some r, n)
    | (s, none, n) =>
      match s.partFault c p.1 .write with
      | some f => (s, some (partReport f p.1 true (decide (1 < ps.length)) n), n)
      | none =>
        let (s, e) := (s.touchLook c p.1).storePart c p.1 ((data.drop n).take p.2)
        (s, e, n + p.2)) (s, none, 0)
  (r.1, r.2.1)

/-! ### LD, ST, LDU, STU (R293) -/

/-- Bytes of an item of a width code. -/
def widthBytes (w : BitVec 3) : Nat := 2 ^ (w.toNat % 4)

/-- The item loaded: codes 0 to 3 sign-extend, 4 to 6 zero-extend. -/
def widen (w : BitVec 3) (bs : Bytes) : Word :=
  let v := num bs
  match w.toNat with
  | 0 => (BitVec.ofNat 8 v).signExtend 64
  | 1 => (BitVec.ofNat 16 v).signExtend 64
  | 2 => (BitVec.ofNat 32 v).signExtend 64
  | _ => BitVec.ofNat 64 v

/-- A displacement of 13 bits, two's complement. -/
def disp13 (d : BitVec 13) : Word := d.signExtend 64

/-- Under RPTU an access must be to the cell's own SRAM or banks (R300). -/
def Core.rptuBars (k : Core) (c addr : Nat) : Bool :=
  k.rptu && (decide (2 ^ 40 ≤ addr) || (match region c addr with
    | .localMem _ => false
    | _ => true))

/-- A load: `update` for LDU. -/
def State.loadInstr (s : State) (c : Nat) (rd ra : BitVec 5) (w : BitVec 3) (d : BitVec 13) (update : Bool) : State :=
  if s.runs c then
    let k := s.core c
    let addr := (if update then k.reg ra else k.reg ra + disp13 d).toNat
    if w = 7 ∨ (update ∧ rd = ra) ∨ k.progBars true then s.raise c { exc := .illegal }
    else if k.rptuBars c addr then s.raise c { exc := .operand, atPrefix := true }
    else
      match s.load c addr (widthBytes w) with
      | (s, .error r) => s.raise c r
      | (s, .ok bs) =>
        let k := s.core c
        let k := if update then k.setReg ra (k.reg ra + disp13 d) else k
        s.retire c (k.setReg rd (widen w bs)).next 1
  else s

/-- A store: `update` for STU, which stores the old base. -/
def State.storeInstr (s : State) (c : Nat) (rs ra : BitVec 5) (w : BitVec 3) (d : BitVec 13) (update : Bool) : State :=
  if s.runs c then
    let k := s.core c
    let addr := (if update then k.reg ra else k.reg ra + disp13 d).toNat
    if 4 ≤ w.toNat ∨ k.progBars true then s.raise c { exc := .illegal }
    else if k.rptuBars c addr then s.raise c { exc := .operand, atPrefix := true }
    else
      match s.store c addr (le (widthBytes w) (k.reg rs).toNat) with
      | (s, some r) => s.raise c r
      | (s, none) =>
        let k := s.core c
        s.retire c (if update then k.setReg ra (k.reg ra + disp13 d) else k).next 1
  else s

/-- LD: rd = the item at ra + disp. -/
def execLd (c : CoreId) (rd ra : BitVec 5) (width : BitVec 3) (disp : BitVec 13) (s : State) : Answer :=
  .next (s.loadInstr c.toNat rd ra width disp false)
/-- ST: the item rs at ra + disp. -/
def execSt (c : CoreId) (rs ra : BitVec 5) (width : BitVec 3) (disp : BitVec 13) (s : State) : Answer :=
  .next (s.storeInstr c.toNat rs ra width disp false)
/-- LDU: rd = the item at ra, and ra = ra + disp. -/
def execLdu (c : CoreId) (rd ra : BitVec 5) (width : BitVec 3) (disp : BitVec 13) (s : State) : Answer :=
  .next (s.loadInstr c.toNat rd ra width disp true)
/-- STU: the item rs at ra, and ra = ra + disp. -/
def execStu (c : CoreId) (rs ra : BitVec 5) (width : BitVec 3) (disp : BitVec 13) (s : State) : Answer :=
  .next (s.storeInstr c.toNat rs ra width disp true)

/-! ### TAS (R295) -/

/-- The key of a doubleword in branch or grove SRAM, or in the trunk's memory. -/
def sramKey (c addr : Nat) : Option Nat :=
  if c = trunkCore then memKey c addr
  else if addr < 0x1000000000 then
    match region c addr with
    | .fabric k => some k
    | _ => none
  else none

/-- TAS rd, rb, disp(ra). What the implicit FENCE reports comes after the access's own UNMAPPED and PROTECTION (12 R320). -/
def State.tas (s : State) (c : Nat) (rd ra rb : BitVec 5) (d : BitVec 11) : State :=
  if s.runs c then
    let k := s.core c
    let addr := (k.reg ra + d.signExtend 64).toNat
    if k.progBars false then s.raise c { exc := .illegal }
    else match sramKey c addr with
      | none => s.raise c { exc := .operand, acc := 2, faddr := BitVec.ofNat 64 addr }
      | some key =>
        if addr % 8 ≠ 0 then s.raise c { exc := .alignment, acc := 2, faddr := BitVec.ofNat 64 addr }
        else
          match s.partFault c addr .tas with
          | some f => s.raise c (partReport f addr true false 0)
          | none =>
            match s.fenced c with
            | (s, some r) => s.raise c r
            | (s, none) =>
              let s := s.touchLook c addr
              let old := s.rdNat key 8
              let new := k.reg rb
              let s := if old = 0 then s.wr key (le 8 new.toNat) else s
              let k := s.core c
              s.retire c (k.setReg rd (BitVec.ofNat 64 old)).next 18
  else s

def execTas (c : CoreId) (rd ra rb : BitVec 5) (disp : BitVec 11) (s : State) : Answer :=
  .next (s.tas c.toNat rd ra rb disp)

/-! ### Writes of a peripheral register by a cell, as commands of their own -/

/-- A store to a peripheral page waits for the buffered stores; one that was discarded is reported instead (R294, 12 R336). -/
def State.afterStores (s : State) (c : Nat) (f : State → State) : State :=
  match s.fenced c with
  | (s, some r) => s.raise c r
  | (s, none) => f s

/-- PQPOST_WRITE. -/
def execPqpostWrite (c : BitVec 8) (value : BitVec 32) (s : State) : Answer := .next (s.afterStores c.toNat (fun s => s.pqpost c.toNat value))
/-- DPPOST_WRITE. -/
def execDppostWrite (cell : BitVec 8) (offset : BitVec 32) (s : State) : Answer :=
  .next (s.afterStores cell.toNat (fun s => s.dppost cell.toNat offset))
/-- DPDISP_WRITE. -/
def execDpdispWrite (cell : BitVec 8) (job : Nat) (s : State) : Answer :=
  .next (s.afterStores cell.toNat (fun s => s.dpdisp cell.toNat job))
/-- DPREM_WRITE. -/
def execDpremWrite (cell : BitVec 8) (us : BitVec 21) (s : State) : Answer :=
  .next (s.afterStores cell.toNat (fun s => s.dprem cell.toNat us.toNat))
/-- SRREQ_WRITE: cell `c` asks for random bytes. -/
def execSrreqWrite (c : BitVec 8) (value : BitVec 32) (s : State) : Answer :=
  .next (s.afterStores c.toNat (fun s => s.srreq c.toNat value))
/-- SRCANCEL_WRITE: cell `c` cancels its waiting request. -/
def execSrcancelWrite (c : BitVec 8) (s : State) : Answer := .next (s.afterStores c.toNat (fun s => s.srcancel c.toNat))
def execDgoGo (c : BitVec 8) (ctx : Bool) (s : State) : Answer := .next (s.afterStores c.toNat (fun s => s.dgo c.toNat ctx))
def execDgoAbort (c : BitVec 8) (ctx : Bool) (s : State) : Answer := .next (s.afterStores c.toNat (fun s => s.dabort c.toNat ctx))
def execDsaveSave (c : BitVec 8) (ctx : Bool) (s : State) : Answer := .next (s.afterStores c.toNat (fun s => s.dsave c.toNat ctx))
def execDsaveRestore (c : BitVec 8) (ctx : Bool) (s : State) : Answer := .next (s.afterStores c.toNat (fun s => s.drestore c.toNat ctx))
def execDcmpgo (c : BitVec 8) (ctx : Bool) (s : State) : Answer := .next (s.afterStores c.toNat (fun s => s.dcmpgo c.toNat ctx))

/-! ### Discarded stores and table writes (12 R329, R333, R336) -/

/-- DRAM_STORE_DISCARD: the controller finds the tag of a line failing and discards the cell's oldest buffered store when it is
to that line. -/
def execDramStoreDiscard (c : BitVec 8) (line : BitVec 40) (s : State) : Answer :=
  let c := c.toNat
  let l := line.toNat / 64 * 64
  if 0x1000000000 ≤ l ∧ l < 0x13C0000000 ∧ s.groveServes (groveOf c) then
    let s := { s with dramBad := if s.dramBad.contains l then s.dramBad else l :: s.dramBad }
    match (s.core c).sbuf with
    | b :: _ => if b.key / 64 * 64 = l then .next (s.perform c) else .next s
    | [] => .next s
  else .next s


/-- What a running stream has issued so far, an open number of bursts, keeps the verdict of the table that it was judged by (R333,
R337). -/
def Verdicts.after (v : Verdicts) (more : Nat) (t : Tbl AtEntry) : Verdicts :=
  v ++ [(((v.getLast?).map (fun p => p.1)).getD 0 + more, t)]

def Cell.remember (x : Cell) (more : Nat) (t : Tbl AtEntry) : Cell :=
  let d (d : DCtx) : DCtx := if d.state = .busy then { d with seen := d.seen.after more t } else d
  { x with
    dctx0 := d x.dctx0, dctx1 := d x.dctx1
    port := { x.port with outstanding := x.port.outstanding.map (fun r => if r.streaming then { r with seen := r.seen.after more t } else r) } }

/-- The trunk writes one entry, which bars writes to code regions; the grove's lookasides are invalidated. -/
def State.tableWrite (s : State) (g : Bool) (e : Nat) (v : BitVec 64) : State :=
  let v := s.barWrites g (v &&& entryMask)
  let old := (s.grove g).access
  let s := s.modGrove g (fun y => { y with access := if v = 0 then tblDel y.access e else tblSet y.access e v })
  let t := { s with cells := tblMap (fun c x =>
    if groveOf c == g then { (x.remember s.freeNat old) with core := { x.core with look := [] } } else x) s.cells }
  t.drawn

/-- ACCESS_TABLE_WRITE. -/
def execAccessTableWrite (g : Bool) (entry : BitVec 8) (value : BitVec 64) (s : State) : Answer :=
  if s.groveServes g then .next (s.tableWrite g entry.toNat value) else .next s

end Sys2Proof.Machine
end

