-- ==== Sys2Proof/Machine/LeafSys.lean ====
section
/-! DEFINITION. The control instructions of a cell: branches and jumps (11 R296, R297), repeat prefixes (R298 to R300), system
instructions (R303 to R306), KEYLD and WIPE (R307 to R310), the BUDGET interrupt (12 R326), and the faults of decoding and
fetching (R290, 12 R319). -/

namespace Sys2Proof.Machine

/-- An instruction that no prefix may repeat and that only moves on, with its issue cycles. -/
def State.plain (s : State) (c : Nat) (legal : Bool) (f : Core → Core) (issue : Nat) : State :=
  if s.runs c then
    let k := s.core c
    if !legal || k.progBars false then s.raise c { exc := .illegal } else s.retire c (f k) issue
  else s

/-! ### Branches and jumps (R296, R297) -/

/-- The condition of a branch; codes 6 and 7 are reserved. -/
def condHolds (cond : BitVec 3) (a b : Word) : Bool :=
  match cond.toNat with
  | 0 => a == b
  | 1 => a != b
  | 2 => a.slt b
  | 3 => !a.slt b
  | 4 => a.ult b
  | _ => !a.ult b

/-- The target of a branch: its own address plus 4 × offset. -/
def Core.branch (k : Core) (taken : Bool) (off : Word) : Core := { k with pc := if taken then k.pc + 4 * off else k.pc + 4 }

/-- CB.cond ra, rb, off13. -/
def execCb (c : CoreId) (ra rb : BitVec 5) (cond : BitVec 3) (off : BitVec 13) (s : State) : Answer :=
  let k := s.core c.toNat
  let t := condHolds cond (k.reg ra) (k.reg rb)
  .next (s.plain c.toNat (decide (cond.toNat < 6)) (fun k => k.branch t (off.signExtend 64)) (if t then 3 else 1))

/-- The immediate of CBI: sign-extended for EQ, NE, LT and GE, zero-extended for LTU and GEU. -/
def cbiImm (cond : BitVec 3) (imm : BitVec 8) : Word := if cond.toNat < 4 then imm.signExtend 64 else imm.setWidth 64

/-- CBI.cond ra, imm8, off10. -/
def execCbi (c : CoreId) (ra : BitVec 5) (cond : BitVec 3) (imm : BitVec 8) (off : BitVec 10) (s : State) : Answer :=
  let k := s.core c.toNat
  let t := condHolds cond (k.reg ra) (cbiImm cond imm)
  .next (s.plain c.toNat (decide (cond.toNat < 6)) (fun k => k.branch t (off.signExtend 64)) (if t then 3 else 1))

/-- J rd, off21. -/
def execJ (c : CoreId) (rd : BitVec 5) (off : BitVec 21) (s : State) : Answer :=
  .next (s.plain c.toNat true (fun k => { (k.setReg rd (k.pc + 4)) with pc := k.pc + 4 * off.signExtend 64 }) 3)

/-- JR rd, ra, imm16: a target that is no multiple of 4 raises FETCH at the jump, before all else (R283, 12 R320). -/
def execJr (c : CoreId) (rd ra : BitVec 5) (imm : BitVec 16) (s : State) : Answer :=
  let c := c.toNat
  let k := s.core c
  let t := k.reg ra + sext16 imm
  if s.runs c && t.toNat % 4 != 0 then .next (s.raise c { exc := .fetch, acc := 3, faddr := t })
  else .next (s.plain c true (fun k => { (k.setReg rd (k.pc + 4)) with pc := t }) 3)

/-! ### Fetching (R287, R297, 12 R319, R320) -/

/-- The fault of a fetch: FETCH from memory that holds no code, then UNMAPPED, then PROTECTION. -/
def State.fetchFault (s : State) (c addr : Nat) : Option (Exc × Nat) :=
  if 2 ^ 40 ≤ addr then some (.unmapped, 0)
  else match region c addr with
    | .localMem _ => if 0x8000 ≤ addr ∧ c ≠ trunkCore then some (.fetch, 0) else s.check c (s.who c) addr .fetch
    | .fabric _ => if 0x1000000000 ≤ addr then some (.fetch, 0) else s.check c (s.who c) addr .fetch
    | .control _ => some (.fetch, 0)
    | .periph _ _ => some (.fetch, 0)
    | .tags => some (.unmapped, 0)
    | .none => some (.unmapped, 0)

/-- The instruction word at an address that can be fetched. -/
def State.fetchWord (s : State) (c addr : Nat) : Option Nat :=
  if (s.fetchFault c addr).isSome then none else (memKey c addr).map (fun k => s.rdNat k 4)

/-- ILLEGAL_INSTRUCTION: the word at the pc can be fetched and is no instruction of R290. -/
def execIllegalInstruction (c : CoreId) (s : State) : Answer :=
  if s.runs c.toNat && (s.fetchWord c.toNat (s.core c.toNat).pc.toNat).any (fun w => (decodeLeaf c (BitVec.ofNat 32 w)).isNone) then
    .next (s.raise c.toNat { exc := .illegal })
  else .next s

/-- INSTRUCTION_FETCH_FAULT: the fetch of the next instruction fails; it has not executed. -/
def execInstructionFetchFault (c : CoreId) (address : BitVec 64) (s : State) : Answer :=
  let c := c.toNat
  if s.runs c then
    match s.fetchFault c address.toNat with
    | some f =>
      .next ((s.modCore c (fun k => { k with pc := address })).raise c
        { exc := f.1, acc := 3, chk := f.2, faddr := address })
    | none => .next s
  else .next s

/-! ### RPT and RPTU (R298 to R300) -/

def State.repeatPrefix (s : State) (c : Nat) (ra : BitVec 5) (imm : BitVec 16) (u : Bool) : State :=
  if s.runs c then
    let k := s.core c
    let n := if ra = 0 then imm.toNat else bits (k.reg ra).toNat 15 0
    let target := match s.fetchWord c (k.pc + 4).toNat with
      | some w => repeatTarget w
      | none => true
    if (ra ≠ 0 ∧ imm ≠ 0) ∨ k.progBars false ∨ !target then s.raise c { exc := .illegal }
    else if u ∧ 64 < n then s.raise c { exc := .operand }
    else if n = 0 then s.retire c { k with pc := k.pc + 8 } 1
    else s.retire c { k with pc := k.pc + 4, prog := progRepeat u n } 1
  else s

/-- RPT ra, imm16. -/
def execRpt (c : CoreId) (ra : BitVec 5) (imm : BitVec 16) (s : State) : Answer :=
  .next (s.repeatPrefix c.toNat ra imm false)
/-- RPTU ra, imm16: interrupts are held until the last repetition. -/
def execRptu (c : CoreId) (ra : BitVec 5) (imm : BitVec 16) (s : State) : Answer :=
  .next (s.repeatPrefix c.toNat ra imm true)

/-! ### Special registers (R284) -/

/-- The value of a special register. -/
def Cell.spr (x : Cell) (n : Nat) : Word :=
  match n with
  | 0x00 => x.core.status
  | 0x01 => x.core.prog.setWidth 64
  | 0x02 => x.core.savepc
  | 0x03 => x.core.savest
  | 0x04 => x.core.gsavepc
  | 0x05 => x.core.gsavest
  | 0x06 => x.core.gstack
  | 0x07 => x.core.kbound
  | 0x08 => x.core.cause
  | 0x09 => x.core.faddr
  | 0x10 => x.core.cycle
  | 0x11 => x.core.instret
  | 0x12 => BitVec.ofNat 64 (x.brem % 2 ^ 19)
  | 0x13 => x.ctick.setWidth 64
  | _ => 0

/-- A write by MTS: ST takes IE alone, read-only registers ignore it. -/
def Core.setSpr (k : Core) (n : Nat) (v : Word) : Core :=
  match n with
  | 0x00 => { k with ie := v.getLsbD 2 }
  | 0x01 => { k with prog := v.setWidth 32 }
  | 0x02 => { k with savepc := v }
  | 0x03 => { k with savest := v }
  | 0x04 => { k with gsavepc := v }
  | 0x05 => { k with gsavest := v }
  | 0x06 => { k with gstack := v }
  | 0x07 => { k with kbound := v }
  | 0x08 => { k with cause := v }
  | 0x09 => { k with faddr := v }
  | _ => k

/-- Registers that function level may read. -/
def sprReadable : List Nat := [0x01, 0x10, 0x11, 0x12, 0x13]

/-- MFS rd, spr. It may be a repetition target. -/
def execMfs (c : CoreId) (rd : BitVec 5) (spr : BitVec 8) (s : State) : Answer :=
  let k := s.core c.toNat
  let v := (s.cell c.toNat).spr spr.toNat
  if s.runs c.toNat && sprNumbers.contains spr.toNat && !k.progBars true && k.pl && !sprReadable.contains spr.toNat then
    .next (s.raise c.toNat { exc := .privileged })
  else .next (s.compute c.toNat (sprNumbers.contains spr.toNat) rd (fun _ => v) 2)

/-- MTS spr, ra. -/
def execMts (c : CoreId) (ra : BitVec 5) (spr : BitVec 8) (s : State) : Answer :=
  let k := s.core c.toNat
  if s.runs c.toNat && sprNumbers.contains spr.toNat && !k.progBars false && k.pl then
    .next (s.raise c.toNat { exc := .privileged })
  else .next (s.plain c.toNat (sprNumbers.contains spr.toNat)
    (fun k => { (k.setSpr spr.toNat (k.reg ra)) with pc := k.pc + 4 }) 2)

/-! ### FENCE, ERET, SYSCALL, YIELD, WAITTICK (R294, R303 to R306) -/

/-- FENCE. -/
def execFence (c : CoreId) (s : State) : Answer :=
  let c := c.toNat
  if s.runs c && !(s.core c).progBars false then
    match s.fenced c with
    | (s, some r) => .next (s.raise c r)
    | (s, none) => .next (s.plain c true (fun k => { k with pc := k.pc + 4 }) 1)
  else .next (s.plain c true (fun k => k) 1)

/-- ERET: the pc and ST from SAVEPC and SAVEST, or with GUARD from GSAVEPC and GSAVEST (R304, 12 R318). What it could raise is judged in
the order of 12 R320. -/
def execEret (c : CoreId) (s : State) : Answer :=
  let c := c.toNat
  if s.runs c then
    let k := s.core c
    let t := if k.guard then k.gsavepc else k.savepc
    let st := if k.guard then k.gsavest else k.savest
    if t.toNat % 4 ≠ 0 then .next (s.raise c { exc := .fetch, acc := 3, faddr := t })
    else if k.progBars false || (st.getLsbD 1 && (st.getLsbD 0 || st.getLsbD 3)) then .next (s.raise c { exc := .illegal })
    else if k.pl then .next (s.raise c { exc := .privileged })
    else .next (s.retire c { (k.setStatus st) with pc := t } 4)
  else .next s

/-- SYSCALL n. -/
def execSyscall (c : CoreId) (n : BitVec 8) (s : State) : Answer :=
  let c := c.toNat
  if s.runs c then
    if (s.core c).progBars false then .next (s.raise c { exc := .illegal })
    else .next (s.raise c { exc := .syscall, scnum := n.toNat, after := true })
  else .next s

/-- YIELD: an exception at function level, nothing at kernel level. -/
def execYield (c : CoreId) (s : State) : Answer :=
  let c := c.toNat
  let k := s.core c
  if s.runs c && !k.progBars false && k.pl then .next (s.raise c { exc := .yield, after := true })
  else .next (s.plain c true (fun k => { k with pc := k.pc + 4 }) 1)

/-- WAITTICK rd, ra: it ends at once when the latched tick already exceeds ra; otherwise at a boundary. -/
def execWaittick (c : CoreId) (rd ra : BitVec 5) (s : State) : Answer :=
  let c := c.toNat
  if s.runs c then
    let k := s.core c
    let tick : Word := (s.cell c).ctick.setWidth 64
    if k.progBars false then .next (s.raise c { exc := .illegal })
    else if k.pl then .next (s.raise c { exc := .privileged })
    else if ra = 0 then .next (s.setCore c { k with wait := .tick rd none })
    else if (k.reg ra).ult tick then .next (s.retire c { (k.setReg rd tick) with pc := k.pc + 4 } 1)
    else .next (s.setCore c { k with wait := .tick rd (some (k.reg ra)) })
  else .next s

/-! ### KEYLD (R309) -/

/-- KEYLD rd, ra, target; illegal on the trunk (R282). Target 2 looks in the key window first (08 R208). -/
def execKeyld (c : CoreId) (rd ra : BitVec 5) (target : BitVec 8) (s : State) : Answer :=
  let c := c.toNat
  if s.runs c then
    let k := s.core c
    let t := target.toNat
    let h : Handle := (k.reg ra).setWidth 32
    if 3 ≤ t ∨ k.progBars false ∨ c = trunkCore then .next (s.raise c { exc := .illegal })
    else if t < 2 then
      if !k.bankGranted (t == 1) then .next (s.raise c { exc := .protection })
      else
        let s := s.setCore c { k with wait := .keyld rd h t }
        .next (s.modCell c (fun x => { (x.setDelivering (t == 1) (x.delivering (t == 1) ++ [h])) with answer := none }))
    else
      match (s.grove (groveOf c)).lookup h (s.cell c).jpart with
      | some w => .next ((s.windowUse (groveOf c) w).retire c { (k.setReg rd 0) with pc := k.pc + 4 } 200)
      | none => .next ((s.setCore c { k with wait := .keyld rd h 2 }).modCell c (fun x => { x with answer := none }))
  else .next s

/-- KEYLD_ANSWER: the answer reaches the waiting KEYLD, which writes its status into rd. A locked cell writes nothing (12 R325). -/
def execKeyldAnswer (c : BitVec 8) (s : State) : Answer :=
  let c := c.toNat
  let x := s.cell c
  match x.core.wait, (if x.core.locked then none else x.answer) with
  | .keyld rd _ _, some st =>
    let s := s.modCell c (fun x => { x with answer := none })
    let k := s.core c
    .next (s.retire c { (k.setReg rd (BitVec.ofNat 64 st.code)) with wait := .none, pc := k.pc + 4 } 200)
  | _, _ => .next s

/-! ### WIPE (R310) -/

/-- Where a WIPE of a range may reach: the cell's local SRAM and banks, branch and grove SRAM. -/
def wipeable (c addr : Nat) : Bool :=
  match region c addr with
  | .localMem _ => true
  | .fabric _ => decide (addr < 0x1000000000)
  | .none => true
  | _ => false

/-- A range reaches DRAM or a peripheral page, with its first byte, a byte 64 on, or its last. -/
def wipeBars (c a n : Nat) : Bool :=
  n != 0 && ((List.range ((n + 63) / 64)).any (fun i => !wipeable c (a + 64 * i)) || !wipeable c (a + n - 1))

/-- Clear granules from `a` on until one faults: the bytes cleared are reported. -/
def State.wipeRange : Nat → State → Nat → Nat → Nat → State × Option Report
  | 0, s, _, _, _ => (s, none)
  | f + 1, s, c, a, cleared =>
    match s.partFault c a .write with
    | some e => (s, some { exc := e.1, acc := 2, chk := e.2, performed := cleared, faddr := BitVec.ofNat 64 a })
    | none =>
      match memKey c a with
      | some k => State.wipeRange f (s.zero k 64) c (a + 64) (cleared + 64)
      | none => (s, some { exc := .unmapped, acc := 2, performed := cleared, faddr := BitVec.ofNat 64 a })

/-- WIPE of a bank or a half; one of a half waits for the deliveries into it, which have ended here. -/
def State.wipeUnit (s : State) (c : Nat) (target : Nat) : State :=
  match target with
  | 1 => s.zero (cellBase c + bankS) 4096
  | 2 => s.zero (cellBase c + bankL) 4096
  | 3 => s.modCell c (fun x => { x with halfS := {} })
  | _ => s.modCell c (fun x => { x with halfL := {} })

/-- A fault of WIPE: its address is the first granule not cleared (12 R322); a half has none. -/
def wipeReport (exc : Exc) (addr : Nat) : Report := { exc, acc := 2, faddr := BitVec.ofNat 64 addr }

/-- A WIPE that has passed the checks of its encoding retires. -/
def State.wiped (s : State) (c cycles : Nat) : State := let k := s.core c; s.retire c { k with pc := k.pc + 4 } cycles

/-- WIPE of target 1 to 4. While a delivery into its half is in flight the cell stays at it (R310). -/
def State.wipeTarget (s : State) (c t : Nat) : State :=
  let bank := t == 2 || t == 4
  if !(s.core c).bankGranted bank then s.raise c (wipeReport .protection (if t = 1 then bankS else if t = 2 then bankL else 0))
  else
    match s.fenced c with
    | (s, some r) => s.raise c r
    | (s, none) =>
      let s := if t < 3 then s else s.deliverAll c bank
      if 3 ≤ t ∧ (s.cell c).delivering bank ≠ [] then s else (s.wipeUnit c t).wiped c (if t < 3 then 64 else 8)

/-- WIPE of a range: the first granule's UNMAPPED or PROTECTION comes before what the implicit FENCE reports (12 R320). -/
def State.wipeFrom (s : State) (c start len : Nat) : State :=
  if 4096 < len ∨ wipeBars c start len then s.raise c (wipeReport .operand start)
  else if start % 64 ≠ 0 ∨ len % 64 ≠ 0 then s.raise c (wipeReport .alignment start)
  else
    match (if len = 0 then none else s.partFault c start .write) with
    | some e => s.raise c { exc := e.1, acc := 2, chk := e.2, faddr := BitVec.ofNat 64 start }
    | none =>
      match s.fenced c with
      | (s, some r) => s.raise c r
      | (s, none) =>
        match State.wipeRange (len / 64) s c start 0 with
        | (s, some r) => s.raise c r
        | (s, none) => s.wiped c (len / 64)

/-- WIPE a, b, target. The trunk has no banks and halves (R282). -/
def execWipe (c : CoreId) (a b : BitVec 5) (target : BitVec 8) (s : State) : Answer :=
  let c := c.toNat
  if s.runs c then
    let k := s.core c
    let t := target.toNat
    if 5 ≤ t ∨ (t ≠ 0 ∧ (a ≠ 0 ∨ b ≠ 0 ∨ c = trunkCore)) ∨ k.progBars false then .next (s.raise c { exc := .illegal })
    else if t ≠ 0 then .next (s.wipeTarget c t)
    else .next (s.wipeFrom c (k.reg a).toNat (k.reg b).toNat)
  else .next s

/-! ### BUDGET (12 R326) -/

/-- The cell can take an interrupt between instructions, or inside one that is re-executed (11 R311). -/
def State.interruptible (s : State) (c : Nat) : Bool :=
  let x := s.cell c
  let k := x.core
  let held := match k.wait with
    | .bnx _ _ => true
    | _ => false
  s.groveRuns (groveOf c) && [CellSt.idle, .resident, .draining, .selftest].contains x.st && !k.locked && !k.en && !k.guard &&
    (k.pl || k.ie) && !k.rptu && !held

/-- The cycles that a wait has taken when it is abandoned: open, as its length is (log entry 11). -/
def State.abandonWait (s : State) (c : Nat) : State :=
  let cycles := match (s.core c).wait with
    | .none => 0
    | _ => BitVec.ofNat 64 (Config.stallCycles s.free)
  (s.modCell c (fun x => { x with
    answer := none, core := { x.core with budget := false, wait := .none, cycle := x.core.cycle + cycles } })).drawn

/-- BUDGET_INTERRUPT: the interrupt raised at the budget end is taken. A KEYLD or WAITTICK in progress is abandoned, to be
re-executed; BNX is stopped first (BNX_END). -/
def execBudgetInterrupt (c : BitVec 8) (s : State) : Answer :=
  let c := c.toNat
  if (s.core c).budget && s.interruptible c then .next ((s.abandonWait c).raise c { exc := .budget }) else .next s

/-- BUDGET_HOLD_TIMEOUT: 3 µs after the budget end the interrupt is still held (R326). With GUARD the cell locks and its wait is over; with
EN it escalates, and a BNX has stopped at its next progress point, whose number is open (log entry 3). -/
def execBudgetHoldTimeout (c : BitVec 8) (s : State) : Answer :=
  let c := c.toNat
  let k := s.core c
  if k.budget && !k.locked && s.groveRuns (groveOf c) then
    if k.guard then .next (s.modCore c (fun k => { k.lock with budget := false, wait := .none }))
    else if k.en then .next (((s.bnxStop c s.freeNat).abandonWait c).raise c { exc := .budget })
    else .next s
  else .next s

end Sys2Proof.Machine
end

