-- ==== Sys2Proof/Machine/Dispatch.lean ====
section
/-! DEFINITION. One arm per constructor of Instr, each one call of the command's meaning. -/

namespace Sys2Proof.Machine

/-- A command's effect on everything but the queue. -/
def exec (i : Instr) (s : State) : Host.Outcome State Fault Refusal :=
  match i with
  | .queueDoorbell fn value => Sys2Proof.Machine.execQueueDoorbell fn value s
  | .indexRecordReadDone fn completion q hostIndex => Sys2Proof.Machine.execIndexRecordReadDone fn completion q hostIndex s
  | .completionHeadDoorbell fn q head => Sys2Proof.Machine.execCompletionHeadDoorbell fn q head s
  | .entryFetchDone fn q entry message io => Sys2Proof.Machine.execEntryFetchDone fn q entry message io s
  | .inputStaged job input => Sys2Proof.Machine.execInputStaged job input s
  | .mailboxDoorbell fn value => Sys2Proof.Machine.execMailboxDoorbell fn value s
  | .mailboxRequestReadDone fn m request io => Sys2Proof.Machine.execMailboxRequestReadDone fn m request io s
  | .mbctlWrite fn m value => Sys2Proof.Machine.execMbctlWrite fn m value s
  | .aqctlWrite fn value => Sys2Proof.Machine.execAqctlWrite fn value s
  | .svctlWrite fn q value => Sys2Proof.Machine.execSvctlWrite fn q value s
  | .registerWrite fn bar offset value partialEnables => Sys2Proof.Machine.execRegisterWrite fn bar offset value partialEnables s
  | .ticklRead fn => Sys2Proof.Machine.execTicklRead fn s
  | .enlRead fn => Sys2Proof.Machine.execEnlRead fn s
  | .jobslRead fn => Sys2Proof.Machine.execJobslRead fn s
  | .page3CounterRead fn which => Sys2Proof.Machine.execPage3CounterRead fn which s
  | .svstatRead fn q => Sys2Proof.Machine.execSvstatRead fn q s
  | .bar0ReadDormant fn offset => Sys2Proof.Machine.execBar0ReadDormant fn offset s
  | .coalesceTickExpiry fn vec => Sys2Proof.Machine.execCoalesceTickExpiry fn vec s
  | .flr fn => Sys2Proof.Machine.execFlr fn s
  | .perstAssert => Sys2Proof.Machine.execPerstAssert s
  | .startUp r => Sys2Proof.Machine.execStartUp r s
  | .readyRaised => Sys2Proof.Machine.execReadyRaised s
  | .tickBoundary lateA lateB m => Sys2Proof.Machine.execTickBoundary lateA lateB m s
  | .thermalLimitStep => Sys2Proof.Machine.execThermalLimitStep s
  | .attestKeyGenerate => Sys2Proof.Machine.execAttestKeyGenerate s
  | .budgetEnd used => Sys2Proof.Machine.execBudgetEnd used s
  | .tickMissed => Sys2Proof.Machine.execTickMissed s
  | .tickGeneratorResume => Sys2Proof.Machine.execTickGeneratorResume s
  | .groveMissedTicks g => Sys2Proof.Machine.execGroveMissedTicks g s
  | .groveLinkSilent g => Sys2Proof.Machine.execGroveLinkSilent g s
  | .groveLost g => Sys2Proof.Machine.execGroveLost g s
  | .groveRejoinAttempt g => Sys2Proof.Machine.execGroveRejoinAttempt g s
  | .groveLinkTrainTimeout g => Sys2Proof.Machine.execGroveLinkTrainTimeout g s
  | .windowClose => Sys2Proof.Machine.execWindowClose s
  | .receiptRootPost partition => Sys2Proof.Machine.execReceiptRootPost partition s
  | .dppostWrite cell offset => Sys2Proof.Machine.execDppostWrite cell offset s
  | .dpdispWrite cell job => Sys2Proof.Machine.execDpdispWrite cell job s
  | .dpremWrite cell us => Sys2Proof.Machine.execDpremWrite cell us s
  | .completionReceived => Sys2Proof.Machine.execCompletionReceived s
  | .cellFence cell cause => Sys2Proof.Machine.execCellFence cell cause s
  | .fenceWipeDone cell => Sys2Proof.Machine.execFenceWipeDone cell s
  | .selftestDone cell passed => Sys2Proof.Machine.execSelftestDone cell passed s
  | .invalidCstate cell code => Sys2Proof.Machine.execInvalidCstate cell code s
  | .getInfo q => Sys2Proof.Machine.execGetInfo q s
  | .getMreg q => Sys2Proof.Machine.execGetMreg q s
  | .attest q => Sys2Proof.Machine.execAttest q s
  | .getCert q => Sys2Proof.Machine.execGetCert q s
  | .readRoot q => Sys2Proof.Machine.execReadRoot q s
  | .openSession q => Sys2Proof.Machine.execOpenSession q s
  | .present q => Sys2Proof.Machine.execPresent q s
  | .closeSession q => Sys2Proof.Machine.execCloseSession q s
  | .sessionIdleExpiry handle => Sys2Proof.Machine.execSessionIdleExpiry handle s
  | .sessionAssemblyExpiry handle => Sys2Proof.Machine.execSessionAssemblyExpiry handle s
  | .enrol q => Sys2Proof.Machine.execEnrol q s
  | .revoke q => Sys2Proof.Machine.execRevoke q s
  | .setQuorum q => Sys2Proof.Machine.execSetQuorum q s
  | .createQueue q => Sys2Proof.Machine.execCreateQueue q s
  | .destroyQueue q => Sys2Proof.Machine.execDestroyQueue q s
  | .setPartition q => Sys2Proof.Machine.execSetPartition q s
  | .getPartition q => Sys2Proof.Machine.execGetPartition q s
  | .setTick q => Sys2Proof.Machine.execSetTick q s
  | .drainCellsFinish q => Sys2Proof.Machine.execDrainCellsFinish q s
  | .drainCellsEvict q => Sys2Proof.Machine.execDrainCellsEvict q s
  | .restoreCells q => Sys2Proof.Machine.execRestoreCells q s
  | .setPowerCap q => Sys2Proof.Machine.execSetPowerCap q s
  | .enterDormant q => Sys2Proof.Machine.execEnterDormant q s
  | .keyImport q => Sys2Proof.Machine.execKeyImport q s
  | .keyGenerate q => Sys2Proof.Machine.execKeyGenerate q s
  | .keyExport q => Sys2Proof.Machine.execKeyExport q s
  | .keyDelete q => Sys2Proof.Machine.execKeyDelete q s
  | .keyInfo q => Sys2Proof.Machine.execKeyInfo q s
  | .masterKeyGenerate q => Sys2Proof.Machine.execMasterKeyGenerate q s
  | .masterKeyLoad q => Sys2Proof.Machine.execMasterKeyLoad q s
  | .masterKeyActivate q => Sys2Proof.Machine.execMasterKeyActivate q s
  | .masterKeyRetire q => Sys2Proof.Machine.execMasterKeyRetire q s
  | .rewrapBatch partition => Sys2Proof.Machine.execRewrapBatch partition s
  | .archiveBackup q => Sys2Proof.Machine.execArchiveBackup q s
  | .archiveRestore q => Sys2Proof.Machine.execArchiveRestore q s
  | .logRead q => Sys2Proof.Machine.execLogRead q s
  | .logStream q => Sys2Proof.Machine.execLogStream q s
  | .logStreamEntry readOk => Sys2Proof.Machine.execLogStreamEntry readOk s
  | .logClear q => Sys2Proof.Machine.execLogClear q s
  | .logClearErase => Sys2Proof.Machine.execLogClearErase s
  | .tamperClear q => Sys2Proof.Machine.execTamperClear q s
  | .lcChange q => Sys2Proof.Machine.execLcChange q s
  | .lcChangeJobTimeout => Sys2Proof.Machine.execLcChangeJobTimeout s
  | .lcInternalReset => Sys2Proof.Machine.execLcInternalReset s
  | .fwUpdate q => Sys2Proof.Machine.execFwUpdate q s
  | .setRdp q => Sys2Proof.Machine.execSetRdp q s
  | .twinPairPrimary q => Sys2Proof.Machine.execTwinPairPrimary q s
  | .twinPairSecondary q => Sys2Proof.Machine.execTwinPairSecondary q s
  | .twinUnpair q => Sys2Proof.Machine.execTwinUnpair q s
  | .twinStatus q => Sys2Proof.Machine.execTwinStatus q s
  | .twinPromote q => Sys2Proof.Machine.execTwinPromote q s
  | .setRfOff q => Sys2Proof.Machine.execSetRfOff q s
  | .setRfReader q => Sys2Proof.Machine.execSetRfReader q s
  | .setRfWatch q => Sys2Proof.Machine.execSetRfWatch q s
  | .mediaRelease q => Sys2Proof.Machine.execMediaRelease q s
  | .seedTestNormal q => Sys2Proof.Machine.execSeedTestNormal q s
  | .seedTestRaw q => Sys2Proof.Machine.execSeedTestRaw q s
  | .seedTestPattern q => Sys2Proof.Machine.execSeedTestPattern q s
  | .seedRawRead q => Sys2Proof.Machine.execSeedRawRead q s
  | .barkConfig q => Sys2Proof.Machine.execBarkConfig q s
  | .barkStatus q => Sys2Proof.Machine.execBarkStatus q s
  | .logSnapshotRead q => Sys2Proof.Machine.execLogSnapshotRead q s
  | .logSnapshotSet q => Sys2Proof.Machine.execLogSnapshotSet q s
  | .logSnapshotRestore q => Sys2Proof.Machine.execLogSnapshotRestore q s
  | .logExport q => Sys2Proof.Machine.execLogExport q s
  | .mediaFormat q => Sys2Proof.Machine.execMediaFormat q s
  | .mediaStatus q => Sys2Proof.Machine.execMediaStatus q s
  | .setOutputsRead q => Sys2Proof.Machine.execSetOutputsRead q s
  | .setOutputsLed2 q => Sys2Proof.Machine.execSetOutputsLed2 q s
  | .setOutputsFanMin q => Sys2Proof.Machine.execSetOutputsFanMin q s
  | .setOutputsLockRelease q => Sys2Proof.Machine.execSetOutputsLockRelease q s
  | .setOutputsLockEngage q => Sys2Proof.Machine.execSetOutputsLockEngage q s
  | .lockReleaseExpiry => Sys2Proof.Machine.execLockReleaseExpiry s
  | .pinTranslate r => Sys2Proof.Machine.execPinTranslate r s
  | .pinVerify r => Sys2Proof.Machine.execPinVerify r s
  | .macGenerate r => Sys2Proof.Machine.execMacGenerate r s
  | .macVerify r => Sys2Proof.Machine.execMacVerify r s
  | .dukptPinTranslate r => Sys2Proof.Machine.execDukptPinTranslate r s
  | .dukptMacVerify r => Sys2Proof.Machine.execDukptMacVerify r s
  | .dukptDecrypt r => Sys2Proof.Machine.execDukptDecrypt r s
  | .arqcVerify r => Sys2Proof.Machine.execArqcVerify r s
  | .keyblockTranslate r => Sys2Proof.Machine.execKeyblockTranslate r s
  | .ecdsaSign r => Sys2Proof.Machine.execEcdsaSign r s
  | .ecdsaVerify r => Sys2Proof.Machine.execEcdsaVerify r s
  | .eddsaSign r => Sys2Proof.Machine.execEddsaSign r s
  | .eddsaVerify r => Sys2Proof.Machine.execEddsaVerify r s
  | .rsaSign r => Sys2Proof.Machine.execRsaSign r s
  | .rsaVerify r => Sys2Proof.Machine.execRsaVerify r s
  | .mldsaSign r => Sys2Proof.Machine.execMldsaSign r s
  | .mldsaVerify r => Sys2Proof.Machine.execMldsaVerify r s
  | .ecdh r => Sys2Proof.Machine.execEcdh r s
  | .mlkemEncaps r => Sys2Proof.Machine.execMlkemEncaps r s
  | .mlkemDecaps r => Sys2Proof.Machine.execMlkemDecaps r s
  | .ff1Encrypt r => Sys2Proof.Machine.execFf1Encrypt r s
  | .ff1Decrypt r => Sys2Proof.Machine.execFf1Decrypt r s
  | .gcmEncrypt r => Sys2Proof.Machine.execGcmEncrypt r s
  | .gcmDecrypt r => Sys2Proof.Machine.execGcmDecrypt r s
  | .aesCbc r => Sys2Proof.Machine.execAesCbc r s
  | .aesCtr r => Sys2Proof.Machine.execAesCtr r s
  | .aesXts r => Sys2Proof.Machine.execAesXts r s
  | .aesEcb r => Sys2Proof.Machine.execAesEcb r s
  | .tdesCbc r => Sys2Proof.Machine.execTdesCbc r s
  | .hash r => Sys2Proof.Machine.execHash r s
  | .random r => Sys2Proof.Machine.execRandom r s
  | .batchVerifyEd25519 r => Sys2Proof.Machine.execBatchVerifyEd25519 r s
  | .customFunction r => Sys2Proof.Machine.execCustomFunction r s
  | .add c rd ra rb => Sys2Proof.Machine.execAdd c rd ra rb s
  | .sub c rd ra rb => Sys2Proof.Machine.execSub c rd ra rb s
  | .and c rd ra rb => Sys2Proof.Machine.execAnd c rd ra rb s
  | .or c rd ra rb => Sys2Proof.Machine.execOr c rd ra rb s
  | .xor c rd ra rb => Sys2Proof.Machine.execXor c rd ra rb s
  | .sll c rd ra rb => Sys2Proof.Machine.execSll c rd ra rb s
  | .srl c rd ra rb => Sys2Proof.Machine.execSrl c rd ra rb s
  | .sra c rd ra rb => Sys2Proof.Machine.execSra c rd ra rb s
  | .slt c rd ra rb => Sys2Proof.Machine.execSlt c rd ra rb s
  | .sltu c rd ra rb => Sys2Proof.Machine.execSltu c rd ra rb s
  | .mul c rd ra rb => Sys2Proof.Machine.execMul c rd ra rb s
  | .mulh c rd ra rb => Sys2Proof.Machine.execMulh c rd ra rb s
  | .mulhu c rd ra rb => Sys2Proof.Machine.execMulhu c rd ra rb s
  | .divu c rd ra rb => Sys2Proof.Machine.execDivu c rd ra rb s
  | .remu c rd ra rb => Sys2Proof.Machine.execRemu c rd ra rb s
  | .csel c rd ra rb => Sys2Proof.Machine.execCsel c rd ra rb s
  | .bswap c rd ra rb => Sys2Proof.Machine.execBswap c rd ra rb s
  | .addi c rd ra imm => Sys2Proof.Machine.execAddi c rd ra imm s
  | .andi c rd ra imm => Sys2Proof.Machine.execAndi c rd ra imm s
  | .ori c rd ra imm => Sys2Proof.Machine.execOri c rd ra imm s
  | .xori c rd ra imm => Sys2Proof.Machine.execXori c rd ra imm s
  | .shi c rd ra imm => Sys2Proof.Machine.execShi c rd ra imm s
  | .lui c rd ra imm => Sys2Proof.Machine.execLui c rd ra imm s
  | .slti c rd ra imm => Sys2Proof.Machine.execSlti c rd ra imm s
  | .sltiu c rd ra imm => Sys2Proof.Machine.execSltiu c rd ra imm s
  | .ld c rd ra width disp => Sys2Proof.Machine.execLd c rd ra width disp s
  | .st c rs ra width disp => Sys2Proof.Machine.execSt c rs ra width disp s
  | .ldu c rd ra width disp => Sys2Proof.Machine.execLdu c rd ra width disp s
  | .stu c rs ra width disp => Sys2Proof.Machine.execStu c rs ra width disp s
  | .tas c rd ra rb disp => Sys2Proof.Machine.execTas c rd ra rb disp s
  | .cb c ra rb cond off => Sys2Proof.Machine.execCb c ra rb cond off s
  | .cbi c ra cond imm off => Sys2Proof.Machine.execCbi c ra cond imm off s
  | .j c rd off => Sys2Proof.Machine.execJ c rd off s
  | .jr c rd ra imm => Sys2Proof.Machine.execJr c rd ra imm s
  | .rpt c ra imm => Sys2Proof.Machine.execRpt c ra imm s
  | .rptu c ra imm => Sys2Proof.Machine.execRptu c ra imm s
  | .mfs c rd spr => Sys2Proof.Machine.execMfs c rd spr s
  | .mts c ra spr => Sys2Proof.Machine.execMts c ra spr s
  | .fence c => Sys2Proof.Machine.execFence c s
  | .eret c => Sys2Proof.Machine.execEret c s
  | .syscall c n => Sys2Proof.Machine.execSyscall c n s
  | .yield c => Sys2Proof.Machine.execYield c s
  | .waittick c rd ra => Sys2Proof.Machine.execWaittick c rd ra s
  | .bnx c rd imm => Sys2Proof.Machine.execBnx c rd imm s
  | .bnxEnd c o points => Sys2Proof.Machine.execBnxEnd c o points s
  | .keyld c rd ra target => Sys2Proof.Machine.execKeyld c rd ra target s
  | .keyldAnswer c => Sys2Proof.Machine.execKeyldAnswer c s
  | .wipe c a b target => Sys2Proof.Machine.execWipe c a b target s
  | .budgetInterrupt c => Sys2Proof.Machine.execBudgetInterrupt c s
  | .budgetHoldTimeout c => Sys2Proof.Machine.execBudgetHoldTimeout c s
  | .dramStoreDiscard c line => Sys2Proof.Machine.execDramStoreDiscard c line s
  | .accessTableWrite g entry value => Sys2Proof.Machine.execAccessTableWrite g entry value s
  | .pqpostWrite c value => Sys2Proof.Machine.execPqpostWrite c value s
  | .pipelineRequestEnd c descriptor faultAfter => Sys2Proof.Machine.execPipelineRequestEnd c descriptor faultAfter s
  | .dgoGo c ctx => Sys2Proof.Machine.execDgoGo c ctx s
  | .dgoAbort c ctx => Sys2Proof.Machine.execDgoAbort c ctx s
  | .digestListEnd c ctx => Sys2Proof.Machine.execDigestListEnd c ctx s
  | .dsaveSave c ctx => Sys2Proof.Machine.execDsaveSave c ctx s
  | .dsaveRestore c ctx => Sys2Proof.Machine.execDsaveRestore c ctx s
  | .dcmpgo c ctx => Sys2Proof.Machine.execDcmpgo c ctx s
  | .dcmpEnd c ctx => Sys2Proof.Machine.execDcmpEnd c ctx s
  | .srreqWrite c value => Sys2Proof.Machine.execSrreqWrite c value s
  | .srcancelWrite c => Sys2Proof.Machine.execSrcancelWrite c s
  | .seedDeliveryDone c => Sys2Proof.Machine.execSeedDeliveryDone c s
  | .heartwoodCheck c => Sys2Proof.Machine.execHeartwoodCheck c s
  | .heartwoodLoadWindow c => Sys2Proof.Machine.execHeartwoodLoadWindow c s
  | .heartwoodLoadHalf c => Sys2Proof.Machine.execHeartwoodLoadHalf c s
  | .ceilingCommitRetry slot flashOk => Sys2Proof.Machine.execCeilingCommitRetry slot flashOk s
  | .primePoolRefill size => Sys2Proof.Machine.execPrimePoolRefill size s
  | .journalEraseDone => Sys2Proof.Machine.execJournalEraseDone s
  | .seedBlock bits => Sys2Proof.Machine.execSeedBlock bits s
  | .seedSourceRestart => Sys2Proof.Machine.execSeedSourceRestart s
  | .barkAlarmGroup group => Sys2Proof.Machine.execBarkAlarmGroup group s
  | .barkSourceInactive source => Sys2Proof.Machine.execBarkSourceInactive source s
  | .loopModeTransitionEnd loop mismatch => Sys2Proof.Machine.execLoopModeTransitionEnd loop mismatch s
  | .sequencerInvalidState => Sys2Proof.Machine.execSequencerInvalidState s
  | .aonPor => Sys2Proof.Machine.execAonPor s
  | .openRecordTimeout => Sys2Proof.Machine.execOpenRecordTimeout s
  | .logSecondRollover => Sys2Proof.Machine.execLogSecondRollover s
  | .flashOpDone bank o => Sys2Proof.Machine.execFlashOpDone bank o s
  | .flashRefresh bank => Sys2Proof.Machine.execFlashRefresh bank s
  | .powerGood maddr m => Sys2Proof.Machine.execPowerGood maddr m s
  | .powerFailWarning writable signable => Sys2Proof.Machine.execPowerFailWarning writable signable s
  | .shutdownIdle => Sys2Proof.Machine.execShutdownIdle s
  | .wakeComplete seedOk cellFail packageBad => Sys2Proof.Machine.execWakeComplete seedOk cellFail packageBad s
  | .twinLinkTrained lanes => Sys2Proof.Machine.execTwinLinkTrained lanes s
  | .twinHandshakeRetry => Sys2Proof.Machine.execTwinHandshakeRetry s
  | .twinHandshakeTimeout => Sys2Proof.Machine.execTwinHandshakeTimeout s
  | .hello session serial identity domain keys => Sys2Proof.Machine.execHello session serial identity domain keys s
  | .auth session counter cert signature => Sys2Proof.Machine.execAuth session counter cert signature s
  | .role session counter primaryHeld epoch persisted unreplicated empty positions => Sys2Proof.Machine.execRole session counter primaryHeld epoch persisted unreplicated empty positions s
  | .heartbeat session counter => Sys2Proof.Machine.execHeartbeat session counter s
  | .heartbeatSend => Sys2Proof.Machine.execHeartbeatSend s
  | .repl session counter sequence item flashOk => Sys2Proof.Machine.execRepl session counter sequence item flashOk s
  | .ack session counter sequence persisted => Sys2Proof.Machine.execAck session counter sequence persisted s
  | .ceil session counter handle ceiling => Sys2Proof.Machine.execCeil session counter handle ceiling s
  | .grant session counter handle first last toReceiver => Sys2Proof.Machine.execGrant session counter handle first last toReceiver s
  | .req session counter handle => Sys2Proof.Machine.execReq session counter handle s
  | .rekey session counter keys => Sys2Proof.Machine.execRekey session counter keys s
  | .close session counter reason => Sys2Proof.Machine.execClose session counter reason s
  | .twinRekeyDue => Sys2Proof.Machine.execTwinRekeyDue s
  | .twinLinkLoss => Sys2Proof.Machine.execTwinLinkLoss s
  | .twinLeaseExpiry => Sys2Proof.Machine.execTwinLeaseExpiry s
  | .sdInsert => Sys2Proof.Machine.execSdInsert s
  | .sdRemoval => Sys2Proof.Machine.execSdRemoval s
  | .sdRetune window => Sys2Proof.Machine.execSdRetune window s
  | .sdBusyTimeout => Sys2Proof.Machine.execSdBusyTimeout s
  | .iccInsert => Sys2Proof.Machine.execIccInsert s
  | .iccRemoval => Sys2Proof.Machine.execIccRemoval s
  | .watchLoadChange poll => Sys2Proof.Machine.execWatchLoadChange poll s
  | .watchHoldExpiry => Sys2Proof.Machine.execWatchHoldExpiry s
  | .externalFieldDetected => Sys2Proof.Machine.execExternalFieldDetected s
  | .externalFieldGone => Sys2Proof.Machine.execExternalFieldGone s
  | .tagReqb wup => Sys2Proof.Machine.execTagReqb wup s
  | .tagAttrib => Sys2Proof.Machine.execTagAttrib s
  | .tagHltb => Sys2Proof.Machine.execTagHltb s
  | .tagSelect aid => Sys2Proof.Machine.execTagSelect aid s
  | .tagReadBinary offset length => Sys2Proof.Machine.execTagReadBinary offset length s
  | .tagOtherApdu => Sys2Proof.Machine.execTagOtherApdu s
  | .tagctlSwap value => Sys2Proof.Machine.execTagctlSwap value s
  | .tagSwapApply => Sys2Proof.Machine.execTagSwapApply s
  | .tagshadowWrite offset value => Sys2Proof.Machine.execTagshadowWrite offset value s
  | .fanDutyUpdate rpm m => Sys2Proof.Machine.execFanDutyUpdate rpm m s
  | .fanStall => Sys2Proof.Machine.execFanStall s
  | .mgmtRead address count => Sys2Proof.Machine.execMgmtRead address count s
  | .mpenlRead => Sys2Proof.Machine.execMpenlRead s
  | .dbyteslRead c ctx => Sys2Proof.Machine.execDbyteslRead c ctx s
  | .groveLinkTrained g packageBad => Sys2Proof.Machine.execGroveLinkTrained g packageBad s
  | .sdCardIdentified ok busMode writeProtected capacity copy0 copy1 headers commits readBack => Sys2Proof.Machine.execSdCardIdentified ok busMode writeProtected capacity copy0 copy1 headers commits readBack s
  | .sdCurrentLimit => Sys2Proof.Machine.execSdCurrentLimit s
  | .serviceButtonChange held => Sys2Proof.Machine.execServiceButtonChange held s
  | .functionPowerStateChange fn d3hot => Sys2Proof.Machine.execFunctionPowerStateChange fn d3hot s
  | .vfEnableWrite n => Sys2Proof.Machine.execVfEnableWrite n s
  | .illegalInstruction c => Sys2Proof.Machine.execIllegalInstruction c s
  | .instructionFetchFault c address => Sys2Proof.Machine.execInstructionFetchFault c address s

end Sys2Proof.Machine
end

