-- ==== Sys2Proof/Safety.lean ====
section
/-! DEFINITION. What counts as a safe run: no step stops the block, memory keeps its canonical form, and what the fuses, the
clock and the outside world have seen is never taken back. -/

namespace Sys2Proof.Machine

/-- A command completes: it answers a next state, neither a fault nor a refusal. -/
def Answer.completes (a : Answer) : Prop := ∃ t, a = .next t

/-- Memory is in its one canonical form (01 R24, 13 R344): what two memories read is the same only when they are equal. -/
def State.memOk (s : State) : Prop := Memory.wf s.mem = true

/-- What a later state may not take back: the minimum security version and the rework count are fuses (13 R343, R351), time
runs forward (01 R15), what has left the module has left it, and the waiting commands are not the command's business. -/
structure Forward (s t : State) : Prop where
  queue : t.pending = s.pending
  fuse : s.trunk.minSecver ≤ t.trunk.minSecver
  reworks : s.trunk.rework ≤ t.trunk.rework
  time : s.clock.cd18 ≤ t.clock.cd18
  fresh : s.free ≤ t.free
  sent : ∃ o, t.out = o ++ s.out

end Sys2Proof.Machine
end

