-- ==== Sys2Proof/Certificates/Slice0/Obligations.lean ====
section
/-! DEFINITION. The statements for the provers: what the commands of the block do, from the rules of spec/, one family after
the other, and the rules of the whole machine. A name of `Sys2Proof.Claims` is vocabulary that several statements share. -/

/-! ## Vocabulary -/

namespace Sys2Proof.Claims

open Sys2Proof.Machine

/-- From `s` to `t` nothing changed but the core of cell `c` and the count of used free values: every other field of the state,
every other cell, and the rest of cell `c`, memory included, is as before. -/
structure CoreOnly (s t : State) (c : Nat) : Prop where
  rest : { t with cells := s.cells, free := s.free } = s
  others : ∀ d, d ≠ c → t.cell d = s.cell d
  unit : { t.cell c with core := s.core c } = s.cell c

/-- Cell `c` retires one instruction and its core becomes `k` (given without CYCLE and INSTRET): CYCLE rises by the issue
cycles and the stall, which is open (log entry 11), INSTRET by 1, and one free value is used up. -/
structure Retires (s t : State) (c : Nat) (k : Core) (issue : Nat) : Prop where
  core : t.core c = { k with
    cycle := k.cycle + BitVec.ofNat 64 (issue + Config.stallCycles s.free), instret := k.instret + 1 }
  frame : CoreOnly s t c
  free : t.free = s.free + 1

/-- From `s` to `t` nothing changed but the registers and indices of function `f`. -/
structure FnOnly (s t : State) (f : Nat) : Prop where
  rest : { t with fns := s.fns } = s
  others : ∀ e, e ≠ f → t.fn e = s.fn e

/-- The cell can run an instruction that no repetition is in progress for. -/
def Free (s : State) (c : Nat) : Prop := s.runs c = true ∧ (s.core c).progBars false = false

/-- The cell can run an instruction that a prefix may repeat. -/
def FreeOrRepeating (s : State) (c : Nat) : Prop := s.runs c = true ∧ (s.core c).progBars true = false

/-- An instruction takes an exception (12 R319): `u` is the state after the entry, and the kernel's disposition of the job that the cell
runs follows (12 R328); with no job in hand `u` stands. -/
structure Takes (a : Answer) (s u : State) (c : Nat) (r : Report) : Prop where
  entered : u = s.trap c r
  answer : a = .next (u.disposed c r (s.core c))
  plain : u.inHand c = none → a = .next u

/-- Cell, destination, result and issue cycles of a register or immediate instruction in a legal form, from the cores `k`
(11 R291, R292, R312). -/
def alu (k : Nat → Core) : Instr → Option (Nat × BitVec 5 × Word × Nat)
  | .add c rd ra rb => some (c.toNat, rd, (k c.toNat).reg ra + (k c.toNat).reg rb, 1)
  | .sub c rd ra rb => some (c.toNat, rd, (k c.toNat).reg ra - (k c.toNat).reg rb, 1)
  | .and c rd ra rb => some (c.toNat, rd, (k c.toNat).reg ra &&& (k c.toNat).reg rb, 1)
  | .or c rd ra rb => some (c.toNat, rd, (k c.toNat).reg ra ||| (k c.toNat).reg rb, 1)
  | .xor c rd ra rb => some (c.toNat, rd, (k c.toNat).reg ra ^^^ (k c.toNat).reg rb, 1)
  | .sll c rd ra rb => some (c.toNat, rd, (k c.toNat).reg ra <<< (((k c.toNat).reg rb).toNat % 64), 1)
  | .srl c rd ra rb => some (c.toNat, rd, (k c.toNat).reg ra >>> (((k c.toNat).reg rb).toNat % 64), 1)
  | .sra c rd ra rb => some (c.toNat, rd, ((k c.toNat).reg ra).sshiftRight (((k c.toNat).reg rb).toNat % 64), 1)
  | .slt c rd ra rb => some (c.toNat, rd, if ((k c.toNat).reg ra).toInt < ((k c.toNat).reg rb).toInt then 1 else 0, 1)
  | .sltu c rd ra rb => some (c.toNat, rd, if ((k c.toNat).reg ra).toNat < ((k c.toNat).reg rb).toNat then 1 else 0, 1)
  | .mul c rd ra rb => some (c.toNat, rd, (k c.toNat).reg ra * (k c.toNat).reg rb, 1)
  | .mulh c rd ra rb =>
    some (c.toNat, rd, BitVec.ofInt 64 (((k c.toNat).reg ra).toInt * ((k c.toNat).reg rb).toInt / 2 ^ 64), 1)
  | .mulhu c rd ra rb =>
    some (c.toNat, rd, BitVec.ofNat 64 (((k c.toNat).reg ra).toNat * ((k c.toNat).reg rb).toNat / 2 ^ 64), 1)
  | .divu c rd ra rb =>
    some (c.toNat, rd, if (k c.toNat).reg rb = 0 then BitVec.allOnes 64 else (k c.toNat).reg ra / (k c.toNat).reg rb, 36)
  | .remu c rd ra rb =>
    some (c.toNat, rd, if (k c.toNat).reg rb = 0 then (k c.toNat).reg ra else (k c.toNat).reg ra % (k c.toNat).reg rb, 36)
  | .csel c rd ra rb =>
    some (c.toNat, rd, if (k c.toNat).reg rd ≠ 0 then (k c.toNat).reg ra else (k c.toNat).reg rb, 1)
  | .bswap c rd ra rb => if rb = 0 then some (c.toNat, rd, reversed ((k c.toNat).reg ra), 1) else none
  | .addi c rd ra imm => some (c.toNat, rd, (k c.toNat).reg ra + imm.signExtend 64, 1)
  | .andi c rd ra imm => some (c.toNat, rd, (k c.toNat).reg ra &&& imm.setWidth 64, 1)
  | .ori c rd ra imm => some (c.toNat, rd, (k c.toNat).reg ra ||| imm.setWidth 64, 1)
  | .xori c rd ra imm => some (c.toNat, rd, (k c.toNat).reg ra ^^^ imm.setWidth 64, 1)
  | .shi c rd ra imm =>
    let n := imm.toNat % 64
    if 256 ≤ imm.toNat then none
    else if imm.toNat / 64 = 0 then some (c.toNat, rd, (k c.toNat).reg ra <<< n, 1)
    else if imm.toNat / 64 = 1 then some (c.toNat, rd, (k c.toNat).reg ra >>> n, 1)
    else if imm.toNat / 64 = 2 then some (c.toNat, rd, ((k c.toNat).reg ra).sshiftRight n, 1)
    else none
  | .lui c rd ra imm => if ra = 0 then some (c.toNat, rd, (BitVec.ofNat 32 (imm.toNat * 2 ^ 16)).signExtend 64, 1) else none
  | .slti c rd ra imm => some (c.toNat, rd, if ((k c.toNat).reg ra).toInt < imm.toInt then 1 else 0, 1)
  | .sltiu c rd ra imm =>
    some (c.toNat, rd, if ((k c.toNat).reg ra).toNat < (imm.signExtend 64 : Word).toNat then 1 else 0, 1)
  | _ => none
where
  /-- The 8 bytes in reverse order. -/
  reversed (x : Word) : Word :=
    x.extractLsb' 0 8 ++ x.extractLsb' 8 8 ++ x.extractLsb' 16 8 ++ x.extractLsb' 24 8 ++ x.extractLsb' 32 8 ++
      x.extractLsb' 40 8 ++ x.extractLsb' 48 8 ++ x.extractLsb' 56 8

/-- What a condition code of CB and CBI tests (11 R296); codes 6 and 7 are reserved. -/
def taken (cond : BitVec 3) (a b : Word) : Option Bool :=
  match cond.toNat with
  | 0 => some (decide (a = b))
  | 1 => some (decide (a ≠ b))
  | 2 => some (decide (a.toInt < b.toInt))
  | 3 => some (decide (b.toInt ≤ a.toInt))
  | 4 => some (decide (a.toNat < b.toNat))
  | 5 => some (decide (b.toNat ≤ a.toNat))
  | _ => none

/-- The value of each special register (11 R284). -/
def special (s : State) (c : Nat) : Nat → Option Word
  | 0x00 => some (BitVec.ofNat 64 (b2n (s.core c).en + 2 * b2n (s.core c).pl + 4 * b2n (s.core c).ie +
      8 * b2n (s.core c).guard + (s.core c).prog.toNat * 2 ^ 32))
  | 0x01 => some ((s.core c).prog.setWidth 64)
  | 0x02 => some (s.core c).savepc
  | 0x03 => some (s.core c).savest
  | 0x04 => some (s.core c).gsavepc
  | 0x05 => some (s.core c).gsavest
  | 0x06 => some (s.core c).gstack
  | 0x07 => some (s.core c).kbound
  | 0x08 => some (s.core c).cause
  | 0x09 => some (s.core c).faddr
  | 0x10 => some (s.core c).cycle
  | 0x11 => some (s.core c).instret
  | 0x12 => some (BitVec.ofNat 64 ((s.cell c).brem % 2 ^ 19))
  | 0x13 => some ((s.cell c).ctick.setWidth 64)
  | _ => none

/-- The core after MTS has written a special register: ST takes IE alone, CYCLE, INSTRET, BREM and CTICK ignore the write. -/
def written (k : Core) (n : Nat) (v : Word) : Core :=
  match n with
  | 0x00 => { k with ie := v.getLsbD 2 }
  | 0x01 => { k with prog := v.setWidth 32 }
  | 0x02 => { k with savepc := v }
  | 0x03 => { k with savest := v }
  | 0x04 => { k with gsavepc := v }
  | 0x05 => { k with gsavest := v }
  | 0x06 => { k with gstack := v }
  | 0x07 => { k with kbound := v }
  | 0x08 => { k with cause := v }
  | 0x09 => { k with faddr := v }
  | _ => k

end Sys2Proof.Claims

open Sys2Proof Sys2Proof.Machine Sys2Proof.Claims

/-! ## 11: the leaf processor -/

/-- R291, R292: every register and immediate instruction writes its result to rd and moves on, and changes nothing else. -/
def Obligations.AluInstructionsWriteTheirResult : Prop :=
  ∀ (i : Instr) (s : State) (c : Nat) (rd : BitVec 5) (v : Word) (n : Nat),
    alu s.core i = some (c, rd, v, n) → FreeOrRepeating s c →
      ∃ t, exec i s = .next t ∧ Retires s t c ((s.core c).setReg rd v).next n

/-- R283, R299: g0 reads as zero and discards writes, and any other register reads as written; after an instruction the pc
moves on by 4, or under a repetition COUNT falls and the pc moves on with the last one. -/
def Obligations.RegisterZeroAndTheRepeatCount : Prop :=
  (∀ (k : Core) (r d : BitVec 5) (v : Word),
    (k.setReg d v).reg r = (if r = 0 then 0 else if r = d then v else k.reg r)) ∧
  (∀ (k : Core) (d : BitVec 5) (v : Word), { k.setReg d v with gpr := k.gpr } = k) ∧
  (∀ k : Core, k.prog.toNat / 2 ^ 30 = 0 → k.next = { k with pc := k.pc + 4 }) ∧
  (∀ k : Core, k.prog.toNat / 2 ^ 30 = 1 → k.prog.toNat % 2 ^ 16 ≤ 1 → k.next = { k with pc := k.pc + 4, prog := 0 }) ∧
  (∀ k : Core, k.prog.toNat / 2 ^ 30 = 1 → 1 < k.prog.toNat % 2 ^ 16 →
    k.next = { k with prog := k.next.prog } ∧ k.next.prog.toNat % 2 ^ 16 = k.prog.toNat % 2 ^ 16 - 1 ∧
      k.next.prog.toNat / 2 ^ 29 = k.prog.toNat / 2 ^ 29)

/-- R282, R290, R319, R321: the reserved forms of BSWAP, LUI, SHI, CB, CBI, the memory widths, the system registers and the targets
of BNX, KEYLD and WIPE raise ILLEGAL, and so do BNX, KEYLD and a WIPE of a bank or half on the trunk's cores: SAVEPC is the
instruction's address and the pc the vector 0x040, before the kernel disposes of the job. -/
def Obligations.ReservedFormsRaiseIllegal : Prop :=
  ∀ (s : State) (c : CoreId) (i : Instr), s.runs c.toNat = true → (s.core c.toNat).guard = false →
    (s.core c.toNat).en = false →
    ((∃ rd ra rb, rb ≠ 0 ∧ i = .bswap c rd ra rb) ∨ (∃ rd ra imm, ra ≠ 0 ∧ i = .lui c rd ra imm) ∨
      (∃ rd ra, ∃ imm : BitVec 16, (256 ≤ imm.toNat ∨ imm.toNat / 64 = 3) ∧ i = .shi c rd ra imm) ∨
      (∃ ra rb cond off, taken cond 0 0 = none ∧ i = .cb c ra rb cond off) ∨
      (∃ ra cond imm off, taken cond 0 0 = none ∧ i = .cbi c ra cond imm off) ∨
      (∃ rd ra d, i = .ld c rd ra 7 d ∨ i = .ldu c rd ra 7 d) ∨ (∃ rd w d, i = .ldu c rd rd w d) ∨
      (∃ rs ra d, ∃ w : BitVec 3, 4 ≤ w.toNat ∧ (i = .st c rs ra w d ∨ i = .stu c rs ra w d)) ∨
      (∃ rd spr, special s c.toNat spr.toNat = none ∧ i = .mfs c rd spr) ∨
      (∃ ra spr, special s c.toNat spr.toNat = none ∧ i = .mts c ra spr) ∨
      (∃ rd, ∃ imm : BitVec 8, 2 ≤ imm.toNat ∧ i = .bnx c rd imm) ∨
      (∃ rd ra, ∃ t : BitVec 8, 3 ≤ t.toNat ∧ i = .keyld c rd ra t) ∨
      (∃ a b, ∃ t : BitVec 8, 5 ≤ t.toNat ∧ i = .wipe c a b t) ∨
      (c = 0x100 ∧ ((∃ rd imm, i = .bnx c rd imm) ∨ (∃ rd ra t, i = .keyld c rd ra t) ∨
        ∃ a b, ∃ t : BitVec 8, t ≠ 0 ∧ i = .wipe c a b t))) →
    ∃ u, Takes (exec i s) s u c.toNat { exc := .illegal } ∧ u.core c.toNat = { s.core c.toNat with
      savepc := (s.core c.toNat).pc, savest := (s.core c.toNat).status, cause := 1, faddr := 0
      cycle := (s.core c.toNat).cycle + 4, en := true, pl := false, ie := false, prog := 0, pc := 0x040 }

/-- R296, R297: branches and jumps. -/
def Obligations.BranchesAndJumpsSetThePc : Prop :=
  ∀ (s : State) (c : CoreId), Free s c.toNat →
    let k := s.core c.toNat
    (∀ ra rb cond off b, taken cond (k.reg ra) (k.reg rb) = some b →
      ∃ t, exec (.cb c ra rb cond off) s = .next t ∧
        Retires s t c.toNat { k with pc := if b then k.pc + 4 * off.signExtend 64 else k.pc + 4 } (if b then 3 else 1)) ∧
    (∀ ra, ∀ cond : BitVec 3, ∀ imm : BitVec 8, ∀ off b,
      taken cond (k.reg ra) (if cond.toNat < 4 then imm.signExtend 64 else imm.setWidth 64) = some b →
      ∃ t, exec (.cbi c ra cond imm off) s = .next t ∧
        Retires s t c.toNat { k with pc := if b then k.pc + 4 * off.signExtend 64 else k.pc + 4 } (if b then 3 else 1)) ∧
    (∀ rd off, ∃ t, exec (.j c rd off) s = .next t ∧
      Retires s t c.toNat { k.setReg rd (k.pc + 4) with pc := k.pc + 4 * off.signExtend 64 } 3) ∧
    (∀ rd ra, ∀ imm : BitVec 16, (k.reg ra + imm.signExtend 64).toNat % 4 = 0 →
      ∃ t, exec (.jr c rd ra imm) s = .next t ∧
        Retires s t c.toNat { k.setReg rd (k.pc + 4) with pc := k.reg ra + imm.signExtend 64 } 3) ∧
    (∀ rd ra, ∀ imm : BitVec 16, (k.reg ra + imm.signExtend 64).toNat % 4 ≠ 0 →
      ∃ u, Takes (exec (.jr c rd ra imm) s) s u c.toNat
        { exc := .fetch, acc := 3, faddr := k.reg ra + imm.signExtend 64 })

/-- R293: LD and LDU. Once the access has been made, rd takes the item, sign-extended for widths 0 to 2 and zero-extended
otherwise, and LDU's base moves by the displacement. -/
def Obligations.LoadsWriteTheItemRead : Prop :=
  ∀ (s u : State) (c : CoreId) (rd ra : BitVec 5) (w : BitVec 3) (d : BitVec 13) (bs : Bytes), FreeOrRepeating s c.toNat →
    w ≠ 7 → bs.length = 2 ^ (w.toNat % 4) →
    let k := s.core c.toNat
    let v : Word := if w.toNat < 3 then BitVec.ofInt 64 ((num bs : Int) -
      if num bs < 2 ^ (8 * bs.length - 1) then 0 else 2 ^ (8 * bs.length)) else BitVec.ofNat 64 (num bs)
    (k.rptuBars c.toNat (k.reg ra + d.signExtend 64).toNat = false →
      s.load c.toNat (k.reg ra + d.signExtend 64).toNat (2 ^ (w.toNat % 4)) = (u, .ok bs) →
      ∃ t, exec (.ld c rd ra w d) s = .next t ∧ Retires u t c.toNat ((u.core c.toNat).setReg rd v).next 1) ∧
    (rd ≠ ra → k.rptuBars c.toNat (k.reg ra).toNat = false →
      s.load c.toNat (k.reg ra).toNat (2 ^ (w.toNat % 4)) = (u, .ok bs) →
      ∃ t, exec (.ldu c rd ra w d) s = .next t ∧
        Retires u t c.toNat
          (((u.core c.toNat).setReg ra ((u.core c.toNat).reg ra + d.signExtend 64)).setReg rd v).next 1)

/-- R293: ST and STU. The low bytes of rs are stored, lowest first; STU stores at the old base, which then moves. -/
def Obligations.StoresPutTheLowBytes : Prop :=
  ∀ (s u : State) (c : CoreId) (rs ra : BitVec 5) (w : BitVec 3) (d : BitVec 13), FreeOrRepeating s c.toNat → w.toNat < 4 →
    let k := s.core c.toNat
    (k.rptuBars c.toNat (k.reg ra + d.signExtend 64).toNat = false →
      s.store c.toNat (k.reg ra + d.signExtend 64).toNat (le (2 ^ w.toNat) (k.reg rs).toNat) = (u, none) →
      ∃ t, exec (.st c rs ra w d) s = .next t ∧ Retires u t c.toNat (u.core c.toNat).next 1) ∧
    (k.rptuBars c.toNat (k.reg ra).toNat = false →
      s.store c.toNat (k.reg ra).toNat (le (2 ^ w.toNat) (k.reg rs).toNat) = (u, none) →
      ∃ t, exec (.stu c rs ra w d) s = .next t ∧
        Retires u t c.toNat ((u.core c.toNat).setReg ra ((u.core c.toNat).reg ra + d.signExtend 64)).next 1)

/-- R24, R293, R294: what an access of a cell does. Own SRAM and banks are read and written at once; a store to branch SRAM,
grove SRAM or DRAM enters the store buffer and leaves memory as it is; a store's bytes outside it read as before. -/
def Obligations.CellAccessesReachTheirBytesAlone : Prop :=
  ∀ (s : State) (c a key : Nat), a % 64 + 8 ≤ 64 → a < 2 ^ 40 →
    (region c a = .localMem key → (∀ kind, s.check c (s.who c) a kind = none) →
      (∀ n, n ≤ 8 → s.load c a n = (s, .ok (memRead s.mem key n))) ∧
      (∀ bs : Bytes, bs.length ≤ 8 →
        s.store c a bs = ({ s with mem := memWrite s.mem key bs }, none) ∧
        (∀ j, (j < key ∨ key + bs.length ≤ j) → memGet (memWrite s.mem key bs) j = memGet s.mem j) ∧
        memRead (memWrite s.mem key bs) key bs.length = bs)) ∧
    (region c a = .fabric key → s.check c (s.who c) a .write = none → (s.core c).sbuf.length < 8 →
      ∀ bs : Bytes, bs.length ≤ 8 → ∃ u, s.store c a bs = (u, none) ∧ u.mem = s.mem ∧
        (u.core c).sbuf = (s.core c).sbuf ++ [{ key, data := bs }])

/-- R294, R295: FENCE performs every buffered store, in order; TAS returns the doubleword and, when it was 0, stores rb. -/
def Obligations.FenceAndTasOrderMemory : Prop :=
  ∀ (s : State) (c : CoreId), Free s c.toNat → (s.core c.toNat).imprecise = none →
    ((∀ b ∈ (s.core c.toNat).sbuf, s.badLine b.key = false) →
      ∃ t, exec (.fence c) s = .next t ∧ (t.core c.toNat).sbuf = [] ∧ (t.core c.toNat).pc = (s.core c.toNat).pc + 4 ∧
        t.mem = (s.core c.toNat).sbuf.foldl (fun m b => memWrite m b.key b.data) s.mem) ∧
    (∀ rd ra rb, ∀ d : BitVec 11, ∀ key, (s.core c.toNat).sbuf = [] →
      let a := ((s.core c.toNat).reg ra + d.signExtend 64).toNat
      sramKey c.toNat a = some key → a % 8 = 0 → a < 2 ^ 40 → s.check c.toNat (s.who c.toNat) a .tas = none →
      ∃ t, exec (.tas c rd ra rb d) s = .next t ∧
        (t.core c.toNat).reg rd = (if rd = 0 then 0 else BitVec.ofNat 64 (num (memRead s.mem key 8))) ∧
        (t.core c.toNat).pc = (s.core c.toNat).pc + 4 ∧
        t.mem = if num (memRead s.mem key 8) = 0 then memWrite s.mem key (le 8 ((s.core c.toNat).reg rb).toNat) else s.mem)

/-- R284, R303: MFS and MTS at kernel level, and MFS of the registers that function level may read. -/
def Obligations.SpecialRegistersReadAndWrite : Prop :=
  ∀ (s : State) (c : CoreId) (spr : BitVec 8) (v : Word), special s c.toNat spr.toNat = some v →
    (∀ rd, FreeOrRepeating s c.toNat →
      ((s.core c.toNat).pl = false ∨ spr.toNat ∈ [0x01, 0x10, 0x11, 0x12, 0x13]) →
      ∃ t, exec (.mfs c rd spr) s = .next t ∧ Retires s t c.toNat ((s.core c.toNat).setReg rd v).next 2) ∧
    (∀ ra, Free s c.toNat → (s.core c.toNat).pl = false →
      ∃ t, exec (.mts c ra spr) s = .next t ∧
        Retires s t c.toNat
          { written (s.core c.toNat) spr.toNat ((s.core c.toNat).reg ra) with pc := (s.core c.toNat).pc + 4 } 2)

/-- R303 to R306, R318: at function level MTS, ERET, WAITTICK and MFS of a kernel register raise PRIVILEGED; of an ERET what its target
and its status would raise comes first (R320). -/
def Obligations.FunctionLevelIsKeptFromKernelInstructions : Prop :=
  ∀ (s : State) (c : CoreId) (i : Instr), Free s c.toNat → (s.core c.toNat).pl = true → (s.core c.toNat).guard = false →
    (s.core c.toNat).en = false →
    ((∃ ra spr, special s c.toNat spr.toNat ≠ none ∧ i = .mts c ra spr) ∨
      (∃ rd spr, special s c.toNat spr.toNat ≠ none ∧ spr.toNat ∉ [0x01, 0x10, 0x11, 0x12, 0x13] ∧ i = .mfs c rd spr) ∨
      (i = .eret c ∧ (s.core c.toNat).savepc.toNat % 4 = 0 ∧ ((s.core c.toNat).savest.getLsbD 1 = true →
        (s.core c.toNat).savest.getLsbD 0 = false ∧ (s.core c.toNat).savest.getLsbD 3 = false)) ∨
      (∃ rd ra, i = .waittick c rd ra)) →
    ∃ u, Takes (exec i s) s u c.toNat { exc := .privileged } ∧ (u.core c.toNat).pc = 0x080 ∧
      (u.core c.toNat).savepc = (s.core c.toNat).pc ∧ (u.core c.toNat).savest = (s.core c.toNat).status ∧
      (u.core c.toNat).cause = 2 ∧ (u.core c.toNat).pl = false ∧ (u.core c.toNat).gpr = (s.core c.toNat).gpr

/-- R298, R304 to R306: the repeat prefixes, ERET, SYSCALL, YIELD and WAITTICK. -/
def Obligations.SystemInstructionsDoTheirOwnEffect : Prop :=
  ∀ (s : State) (c : CoreId), Free s c.toNat →
    let k := s.core c.toNat
    let tick : Word := (s.cell c.toNat).ctick.setWidth 64
    (∀ ra, ∀ imm : BitVec 16, ∀ n, n = (if ra = 0 then imm.toNat else (k.reg ra).toNat % 2 ^ 16) → (ra = 0 ∨ imm = 0) →
      (∀ w, s.fetchWord c.toNat (k.pc + 4).toNat = some w → repeatTarget w = true) →
      (∃ t, exec (.rpt c ra imm) s = .next t ∧
        Retires s t c.toNat (if n = 0 then { k with pc := k.pc + 8 } else { k with pc := k.pc + 4, prog := progRepeat false n }) 1) ∧
      (n ≤ 64 → ∃ t, exec (.rptu c ra imm) s = .next t ∧
        Retires s t c.toNat (if n = 0 then { k with pc := k.pc + 8 } else { k with pc := k.pc + 4, prog := progRepeat true n }) 1)) ∧
    (∀ pc st, pc = (if k.guard then k.gsavepc else k.savepc) → st = (if k.guard then k.gsavest else k.savest) → k.pl = false →
      pc.toNat % 4 = 0 → (st.getLsbD 1 = true → st.getLsbD 0 = false ∧ st.getLsbD 3 = false) →
      ∃ t, exec (.eret c) s = .next t ∧
        Retires s t c.toNat { k with
          pc := pc, en := st.getLsbD 0, pl := st.getLsbD 1, ie := st.getLsbD 2, guard := st.getLsbD 3
          prog := st.extractLsb' 32 32 } 4) ∧
    (∀ n, ∃ u, Takes (exec (.syscall c n) s) s u c.toNat { exc := .syscall, scnum := n.toNat, after := true }) ∧
    (k.pl = true → ∃ u, Takes (exec (.yield c) s) s u c.toNat { exc := .yield, after := true }) ∧
    (k.pl = false → ∃ t, exec (.yield c) s = .next t ∧ Retires s t c.toNat { k with pc := k.pc + 4 } 1) ∧
    (∀ rd ra, k.pl = false → ra ≠ 0 → (k.reg ra).toNat < tick.toNat →
      ∃ t, exec (.waittick c rd ra) s = .next t ∧ Retires s t c.toNat { k.setReg rd tick with pc := k.pc + 4 } 1) ∧
    (∀ rd ra, k.pl = false → (ra = 0 ∨ tick.toNat ≤ (k.reg ra).toNat) →
      exec (.waittick c rd ra) s = .next (s.setCore c.toNat { k with
        wait := .tick rd (if ra = 0 then none else some (k.reg ra)) }))

/-- R319 to R325, R328: taking an exception at a cell saves the pc and the status, names the cause, masks, and goes to the vector;
with EN set it escalates to the guard handler, and in the guard handler it locks the cell. No general register but g31 of an
escalation changes, and no memory. A job that the cell runs then ends with CELL_FAULT, unless the exception is SYSCALL, YIELD or
BUDGET and did not escalate. -/
def Obligations.ExceptionEntrySavesAndVectors : Prop :=
  ∀ (s : State) (c : Nat) (r : Report),
    let k := s.core c
    let t := s.trap c r
    let pc := if r.after then k.pc + 4 else if r.atPrefix then k.pc - 4 else k.pc
    let guardPc := if r.atPrefix then k.pc - 4 else k.pc
    (k.guard = false → k.en = false → t.core c = { k with
      savepc := pc, savest := k.status, cause := r.cause false, faddr := r.faddr, cycle := k.cycle + 4
      en := true, pl := false, ie := false, prog := 0
      pc := if r.exc = .budget then 0x400 else BitVec.ofNat 64 (64 * r.exc.code) }) ∧
    (k.guard = false → k.en = true → t.core c = { k with
      gsavepc := guardPc, gsavest := k.status, cause := r.cause true, faddr := r.faddr, cycle := k.cycle + 4
      gstack := k.gpr[31], gpr := k.gpr.set 31 k.gstack, guard := true, pl := false, ie := false, prog := 0, pc := 0x800 }) ∧
    (k.guard = true → t.core c = { k with locked := true }) ∧
    (∀ d, d ≠ c → t.cell d = s.cell d) ∧ { t.cell c with core := k } = s.cell c ∧ t.mem = s.mem ∧ t.sched = s.sched ∧
      t.heart = s.heart ∧ t.jobs = s.jobs ∧
    (t.inHand c = none → s.raise c r = t) ∧
    (∀ j x y, t.inHand c = some j → t.job? j = some x → t.copy? j (groveOf c) = some y → (t.core c).locked = false →
      (k.en = true ∨ (r.exc ≠ .syscall ∧ r.exc ≠ .yield ∧ r.exc ≠ .budget)) →
      s.raise c r = t.postCopy j (groveOf c) .cellFault [] 0)

/-- R290, R319, R326: the faults of decoding and fetching and the BUDGET interrupt are exceptions of the cell; a BUDGET held
for 3 µs escalates under EN and locks under GUARD. -/
def Obligations.CellEventsTakeTheirException : Prop :=
  ∀ (s : State) (core : CoreId) (c : BitVec 8),
    (∀ w, s.runs core.toNat = true → s.fetchWord core.toNat (s.core core.toNat).pc.toNat = some w →
      decodeLeaf core (BitVec.ofNat 32 w) = none →
      ∃ u, Takes (exec (.illegalInstruction core) s) s u core.toNat { exc := .illegal }) ∧
    (∀ a f, s.runs core.toNat = true → s.fetchFault core.toNat a.toNat = some f →
      exec (.instructionFetchFault core a) s = .next
        ((s.setCore core.toNat { s.core core.toNat with pc := a }).raise core.toNat
          { exc := f.1, acc := 3, chk := f.2, faddr := a })) ∧
    ((s.core c.toNat).budget = true → s.interruptible c.toNat = true →
      ∃ u, Takes (exec (.budgetInterrupt c) s) (s.abandonWait c.toNat) u c.toNat { exc := .budget } ∧
        (u.core c.toNat).pc = 0x400 ∧
        (u.core c.toNat).savepc = (s.core c.toNat).pc ∧ (u.core c.toNat).savest = (s.core c.toNat).status ∧
        (u.core c.toNat).budget = false ∧ (u.core c.toNat).wait = .none ∧ (u.core c.toNat).en = true ∧
        (u.core c.toNat).gpr = (s.core c.toNat).gpr) ∧
    (∀ k, k = s.core c.toNat → k.budget = true → k.locked = false → s.groveRuns (groveOf c.toNat) = true →
      (k.guard = true → ∃ t, exec (.budgetHoldTimeout c) s = .next t ∧
        t.core c.toNat = { k with locked := true, budget := false, wait := .none } ∧ CoreOnly s t c.toNat) ∧
      (k.guard = false → k.en = true →
        ∃ v u, Takes (exec (.budgetHoldTimeout c) s) v u c.toNat { exc := .budget } ∧ (u.core c.toNat).wait = .none ∧
          (u.core c.toNat).pc = 0x800 ∧ (u.core c.toNat).guard = true ∧ (u.core c.toNat).gsavepc = k.pc ∧
          (u.core c.toNat).gsavest = (v.core c.toNat).status ∧ (u.core c.toNat).budget = false))

/-! ## 07, 08, 11: units that a cell commands -/

/-- A write of a peripheral register by a cell waits for the cell's buffered stores (11 R294, 12 R336): `s` is the state after them.
The write then ends in a state that holds `P`. -/
def Sys2Proof.Claims.AfterStores (i : Instr) (c : Nat) (s : State) (P : State → Prop) : Prop :=
  ∀ before : State, before.fenced c = (s, none) → ∃ t, exec i before = .next t ∧ P t

/-- R307 to R310: KEYLD asks heartwood and waits for its answer, or finds its key in the window; WIPE clears a bank or a half and
nothing else of memory, here with no delivery in flight and no store buffered. Heartwood's answer ends the waiting KEYLD: its
status goes into rd. -/
def Obligations.KeyldAndWipeActOnBankAndHalf : Prop :=
  (∀ (s : State) (c : BitVec 8) (rd : BitVec 5) (h : Handle) (n : Nat) (st : Status),
    (s.core c.toNat).wait = .keyld rd h n → (s.cell c.toNat).answer = some st → (s.core c.toNat).locked = false →
      ∃ t, exec (.keyldAnswer c) s = .next t ∧ (t.core c.toNat).wait = .none ∧ (t.cell c.toNat).answer = none ∧
        (t.core c.toNat).reg rd = (if rd = 0 then 0 else BitVec.ofNat 64 st.code) ∧
        (t.core c.toNat).pc = (s.core c.toNat).pc + 4 ∧ t.mem = s.mem ∧ (∀ d, d ≠ c.toNat → t.cell d = s.cell d)) ∧
  (∀ (s : State) (c : CoreId), c.toNat ≠ trunkCore → Free s c.toNat →
    let k := s.core c.toNat
    (∀ rd ra, ∀ t : BitVec 8, t.toNat < 2 → k.bankGranted (decide (t.toNat = 1)) = true →
      ∃ u, exec (.keyld c rd ra t) s = .next u ∧ (u.core c.toNat).wait = .keyld rd ((k.reg ra).setWidth 32) t.toNat ∧
        (u.cell c.toNat).delivering (decide (t.toNat = 1)) =
          (s.cell c.toNat).delivering (decide (t.toNat = 1)) ++ [(k.reg ra).setWidth 32] ∧
        (u.core c.toNat).pc = k.pc ∧ (u.core c.toNat).gpr = k.gpr ∧ u.mem = s.mem ∧ u.heart = s.heart) ∧
    (∀ rd ra w, (s.grove (groveOf c.toNat)).lookup ((k.reg ra).setWidth 32) (s.cell c.toNat).jpart = some w →
      ∃ u, exec (.keyld c rd ra 2) s = .next u ∧ (u.core c.toNat).reg rd = 0 ∧ (u.core c.toNat).pc = k.pc + 4 ∧
        (u.core c.toNat).wait = k.wait ∧ u.mem = s.mem ∧ u.heart = s.heart) ∧
    (∀ t : BitVec 8, 1 ≤ t.toNat → t.toNat < 5 → k.bankGranted (decide (t.toNat = 2 ∨ t.toNat = 4)) = true →
      k.sbuf = [] → k.imprecise = none → (s.cell c.toNat).halfS.delivering = [] → (s.cell c.toNat).halfL.delivering = [] →
      ∃ u, exec (.wipe c 0 0 t) s = .next u ∧ (u.core c.toNat).pc = k.pc + 4 ∧ (u.core c.toNat).gpr = k.gpr ∧
        (u.cell c.toNat).halfS = (if t.toNat = 3 then {} else (s.cell c.toNat).halfS) ∧
        (u.cell c.toNat).halfL = (if t.toNat = 4 then {} else (s.cell c.toNat).halfL) ∧
        u.mem = (if t.toNat = 1 then memZero s.mem (cellBase c.toNat + 0x101000) 4096
          else if t.toNat = 2 then memZero s.mem (cellBase c.toNat + 0x100000) 4096 else s.mem)))

/-- R183, R184, R307: BNX on a bank whose control block it refuses writes that status and goes on; one that it accepts takes its
operands and holds the cell with status 1. BNX_END with a stop writes status 2 and the step, releases the cell and leaves PROG at
the bank and the microprogram; with the end of a microprogram that ran undisturbed and ends DONE it writes the result where the
control block has it, status 0 and rd. The operand area after a stop or beside a result is open (log entry 20). -/
def Obligations.BnxStartsAndStops : Prop :=
  (∀ (s : State) (c : CoreId) (rd : BitVec 5) (b : Bool), c.toNat < trunkCore → Free s c.toNat →
    (s.core c.toNat).bankGranted b = true → (s.cell c.toNat).delivering b = [] →
    let k := bankKey c.toNat b
    let cb := memRead s.mem k 64
    let m := mpOf (cbNum cb) (cbSize cb) (cbEph cb) (memRead s.mem (k + cbB cb) 8)
    cbStatus cb ≠ 2 → cbStatus cb ≠ 3 →
      (∀ x, bnxCheck cb m ((s.cell c.toNat).half b) = none → m = some x →
        ∃ t, exec (.bnx c rd (if b then 1 else 0)) s = .next t ∧ (t.core c.toNat).wait = .bnx b rd ∧
          memRead t.mem (k + 6) 2 = [1, 0] ∧ (t.core c.toNat).pc = (s.core c.toNat).pc ∧
          (t.core c.toNat).gpr = (s.core c.toNat).gpr ∧
          (t.cell c.toNat).bnu b = some { cb, ins := s.bnuInputs c.toNat b cb x }) ∧
      (∀ st, bnxCheck cb m ((s.cell c.toNat).half b) = some st →
        ∃ t, exec (.bnx c rd (if b then 1 else 0)) s = .next t ∧ memRead t.mem (k + 6) 2 = le 2 st ∧
          (t.core c.toNat).reg rd = (if rd = 0 then 0 else BitVec.ofNat 64 st) ∧
          (t.core c.toNat).pc = (s.core c.toNat).pc + 4)) ∧
  (∀ (s : State) (c : BitVec 8) (rd : BitVec 5) (b : Bool) (n : Nat), (s.core c.toNat).wait = .bnx b rd →
    let k := bankKey c.toNat b
    let cb := memRead s.mem k 64
    (∃ t, exec (.bnxEnd c .stopped n) s = .next t ∧ (t.core c.toNat).wait = .none ∧
      (t.core c.toNat).prog = progBnx b (cbNum (s.bnuRun c.toNat b).1.cb) (cbStep cb + n) ∧ memRead t.mem (k + 6) 2 = [2, 0] ∧
      (t.core c.toNat).pc = (s.core c.toNat).pc ∧ (t.core c.toNat).gpr = (s.core c.toNat).gpr) ∧
    (∀ run x res, (s.cell c.toNat).bnu b = some run → run.left = none → run.result = (0, res) →
      mpOf (cbNum run.cb) (cbSize run.cb) (cbEph run.cb) ((run.part 1).take 8) = some x → 0x40 ≤ resultAt run.cb x →
      ∃ t, exec (.bnxEnd c .ended n) s = .next t ∧ (t.core c.toNat).wait = .none ∧ memRead t.mem (k + 6) 2 = [0, 0] ∧
        memRead t.mem (k + resultAt run.cb x) res.length = res ∧ (t.core c.toNat).reg rd = 0 ∧
        (t.core c.toNat).pc = (s.core c.toNat).pc + 4))

/-- R317, R329, R333, R336: the trunk's write of an access-table entry, which grants no write to a custom function's code region, and a DRAM line whose tag fails under a buffered store. -/
def Obligations.TableWritesAndDiscardedStores : Prop :=
  ∀ s : State,
    (∀ g, ∀ e : BitVec 8, ∀ v, s.groveServes g = true →
      ∃ t, exec (.accessTableWrite g e v) s = .next t ∧
        (tblGet (t.grove g).access e.toNat).getD 0 = s.barWrites g (v &&& 0x7FFFFFFF3FFF7FFF) ∧
        (∀ j, j ≠ e.toNat → tblGet (t.grove g).access j = tblGet (s.grove g).access j) ∧
        t.grove (!g) = s.grove (!g) ∧ t.mem = s.mem ∧
        (∀ c x, tblGet s.cells c = some x → groveOf c = g → (t.core c).look = []) ∧
        { t with cells := s.cells, groveA := s.groveA, groveB := s.groveB, free := s.free } = s) ∧
    (∀ c : BitVec 8, ∀ line : BitVec 40, ∀ b rest, line.toNat % 64 = 0 → 0x1000000000 ≤ line.toNat →
      line.toNat < 0x13C0000000 → s.groveServes (groveOf c.toNat) = true →
      (s.core c.toNat).sbuf = b :: rest → b.key / 64 * 64 = line.toNat →
      ∃ t, exec (.dramStoreDiscard c line) s = .next t ∧ t.mem = s.mem ∧ line.toNat ∈ t.dramBad ∧
        (t.core c.toNat).sbuf = rest ∧
        (t.core c.toNat).imprecise = some ((s.core c.toNat).imprecise.getD line.toNat))

/-- R223 to R226, R229 to R231: the commands of a digest context: GO takes the registers and makes it BUSY, context 1 with it under
PAIR; ABORT ends it, SAVE and RESTORE answer in DSTAT, DCMPGO starts a comparison whose end says whether the bytes match, and a
read of DBYTESL latches DBYTESH. Each changes that context alone but for SAVE's area and keeps memory otherwise. R222: at the end of
a list a count of 0 or above 4,096 fails the context with BAD_PARAMETER; one fragment with FINAL and no key gives the digest of
its bytes, in DRES. A command that a cell writes comes after its buffered stores; one of them that was discarded is reported
instead. -/
def Obligations.DigestContextCommands : Prop :=
  ∀ (s : State) (c : BitVec 8) (i : Bool),
    let x := s.cell c.toNat
    let d := x.dctx i
    let ctx (t : State) : DCtx := (t.cell c.toNat).dctx i
    let same (t : State) : Prop := { t with cells := s.cells } = s ∧ (∀ e, e ≠ c.toNat → t.cell e = s.cell e) ∧
      (t.cell c.toNat).dctx (!i) = x.dctx (!i) ∧ { t.cell c.toNat with dctx0 := x.dctx0, dctx1 := x.dctx1 } = x
    let fed : Prop := i = true ∧ x.dctx0.feeds = true
    let alone : Prop := d.paired = false ∧ (i = true ∨ (x.dctx1.paired = false ∧ d.pair = false ∧ d.curPair = false))
    let write (w : Instr) (P : State → Prop) : Prop := AfterStores w c.toNat s P
    (∀ before r, before.fenced c.toNat = (s, some r) → ∀ w ∈ [Instr.dgoGo c i, .dgoAbort c i, .dcmpgo c i, .dsaveSave c i, .dsaveRestore c i],
      exec w before = .next (s.raise c.toNat r)) ∧
    (d.state ≠ .busy → ¬fed → (i = false → d.feeds = false) → (d.state = .idle ∨ d.partition = x.jpart) →
      write (.dgoGo c i) (fun t => (ctx t).state = .busy ∧ (ctx t).code = 0 ∧ (ctx t).partition = x.jpart ∧
        (if d.state = .open then (ctx t).curAlg = d.curAlg ∧ (ctx t).curKeyed = d.curKeyed
          else (ctx t).curAlg = d.alg.toNat ∧ (ctx t).curKeyed = d.keyed ∧ (ctx t).curKey = d.key ∧
            (ctx t).curOut = d.outLen.toNat) ∧ same t)) ∧
    (d.state ≠ .busy → i = false → d.feeds = true → (d.state = .idle ∨ d.partition = x.jpart) → x.dctx1.state ≠ .busy →
      (x.dctx1.state = .idle ∨ x.dctx1.partition = x.jpart) →
      write (.dgoGo c i) (fun t => (t.cell c.toNat).dctx0.state = .busy ∧ (t.cell c.toNat).dctx1.state = .busy ∧
        (t.cell c.toNat).dctx1.paired = true ∧ t.mem = s.mem ∧ (∀ e, e ≠ c.toNat → t.cell e = s.cell e))) ∧
    (fed → write (.dgoGo c i) (fun t => (ctx t).state = .error ∧
      (ctx t).code.toNat = Status.badParameter.code ∧ same t)) ∧
    (d.state = .busy → ¬fed → write (.dgoGo c i) (fun t => t = s)) ∧
    (d.state ≠ .busy → ¬fed → d.state ≠ .idle → d.partition ≠ x.jpart →
      write (.dgoGo c i) (fun t => (ctx t).state = .error ∧
        (ctx t).code.toNat = Status.partitionMismatch.code ∧ same t)) ∧
    ((i = true ∨ x.dctx1.paired = false) → write (.dgoAbort c i) (fun t => (ctx t).state = .idle ∧ (ctx t).res = [] ∧
      (ctx t).absorbed = [] ∧ (ctx t).keyHeld = [] ∧ same t)) ∧
    (write (.dcmpgo c i) (fun t => ctx t = { d with cmpBusy := true, cmpValid := false, cmpMatch := false } ∧ same t)) ∧
    (d.cmpBusy = true → d.state ≠ .busy → s.badBurst c.toNat (s.who c.toNat) d.cmp.toNat d.cmpLen.toNat = none →
      ∃ t, exec (.dcmpEnd c i) s = .next t ∧ (ctx t).cmpBusy = false ∧ (ctx t).cmpValid = true ∧ same t ∧
        ((ctx t).cmpMatch = true ↔ d.state = .done ∧ d.partition = x.jpart ∧
          s.engineRead c.toNat (s.who c.toNat) d.cmp.toNat d.cmpLen.toNat = some ((padTo 64 d.res).take d.cmpLen.toNat))) ∧
    (∃ t, exec (.dbyteslRead c i) s = .next t ∧ ctx t = { d with bytesH := d.bytes.extractLsb' 32 32 } ∧ same t) ∧
    (d.state = .busy → write (.dsaveSave c i) (fun t => ctx t = { d with saveSt := .refused } ∧ same t)) ∧
    (d.state ≠ .busy → (d.state = .idle ∨ d.partition = x.jpart) → d.save.toNat % 64 = 0 →
      sramAddr c.toNat d.save.toNat = true →
      (s.drawn.engineWrite c.toNat (s.who c.toNat) d.save.toNat (s.freeBytes 512)).2 = true →
      write (.dsaveSave c i) (fun t => ∃ kept, (ctx t).saveSt = .done ∧
        t.mem = (s.drawn.engineWrite c.toNat (s.who c.toNat) d.save.toNat (s.freeBytes 512)).1.mem ∧
        (t.grove (groveOf c.toNat)).dsaved = kept :: (s.grove (groveOf c.toNat)).dsaved ∧
        kept.area = s.freeBytes 512 ∧ kept.partition = x.jpart ∧ kept.ctx.absorbed = d.absorbed)) ∧
    (d.state ≠ .busy → s.engineRead c.toNat (s.who c.toNat) d.save.toNat 512 = none →
      write (.dsaveRestore c i) (fun t => ctx t = { d with saveSt := .failed } ∧ same t)) ∧
    (∀ b y, d.state ≠ .busy → s.engineRead c.toNat (s.who c.toNat) d.save.toNat 512 = some b →
      (s.grove (groveOf c.toNat)).dsaved.find? (fun z => z.area == b && z.partition == x.jpart) = some y →
      write (.dsaveRestore c i) (fun t => (ctx t).saveSt = .done ∧ (ctx t).state = y.ctx.state ∧
        (ctx t).curAlg = y.ctx.curAlg ∧ (ctx t).absorbed = y.ctx.absorbed ∧ (ctx t).keyHeld = y.ctx.keyHeld ∧
        (ctx t).bytes = y.ctx.bytes ∧ (ctx t).partition = x.jpart ∧ (ctx t).save = d.save ∧ same t)) ∧
    (d.state = .busy → alone → d.wasOpen = false → (d.count.toNat = 0 ∨ 4096 < d.count.toNat) →
      ∃ t, exec (.digestListEnd c i) s = .next t ∧ (ctx t).state = .error ∧
        (ctx t).code.toNat = Status.badParameter.code ∧ same t) ∧
    (∀ e data, d.state = .busy → alone → d.count = 1 → d.wasOpen = false → d.wasDone = false → d.latched = true →
      d.curKeyed = false → 1 ≤ d.curAlg → d.curAlg ≤ 6 →
      s.engineFetch c.toNat d.who d.list.toNat 16 = (s, some e) → field e 13 3 = 0 → field e 12 1 = 1 →
      field e 8 4 ≤ 2 ^ 24 → s.engineFetch c.toNat d.who (field e 0 8) (field e 8 4) = (s, some data) →
      ∃ t, exec (.digestListEnd c i) s = .next t ∧ (ctx t).state = .done ∧ (ctx t).bytes.toNat = data.length % 2 ^ 64 ∧
        (ctx t).gen = d.gen + 1 ∧ same t ∧
        (ctx t).res = (if d.curAlg = 1 then sha256 data else if d.curAlg = 2 then sha384 data
          else if d.curAlg = 3 then sha512 data else if d.curAlg = 4 then sha3 32 data
          else if d.curAlg = 5 then sha3 48 data else sha3 64 data))

/-- R207, R216 to R219: PQPOST posts the descriptor at the offset, marks its status 0xFFFF, and sets OVF with 4 outstanding or
ADDR when it cannot read the descriptor; the end of a request takes it off the port, counts it in DONE and writes its status: OK
behind the output of an AES-ECB encryption, and BAD_PARAMETER for an operation of no code. -/
def Obligations.PipelinePortPostsAndEnds : Prop :=
  ∀ (s : State) (c : BitVec 8) (v : BitVec 32),
    let p := (s.cell c.toNat).port
    let port (t : State) : PPort := (t.cell c.toNat).port
    let a := (if v.toNat % 2 = 1 then 0x0200000000 else 0x0100000000) + v.toNat / 64 % 2 ^ 17 * 64
    let write (P : State → Prop) : Prop := AfterStores (.pqpostWrite c v) c.toNat s P
    (4 ≤ p.outstanding.length → write (fun t => port t = { p with ovf := true } ∧ t.mem = s.mem)) ∧
    (p.outstanding.length < 4 → s.check c.toNat (s.who c.toNat) a .read ≠ none →
      write (fun t => port t = { p with addr := true } ∧ t.mem = s.mem)) ∧
    (∀ key, p.outstanding.length < 4 → s.check c.toNat (s.who c.toNat) a .read = none → memKey c.toNat a = some key →
      write (fun t => t.mem = memWrite s.mem (key + 56) [0xFF, 0xFF] ∧
        (port t).outstanding.map (fun r => r.key) = p.outstanding.map (fun r => r.key) ++ [key] ∧ (port t).done = p.done)) ∧
    (∀ r w n cut, p.outstanding[n]? = some r → r.bound = some w → dOp r.desc ∉ pipeOps →
      ∃ t, exec (.pipelineRequestEnd c n cut) s = .next t ∧
        t.mem = memWrite s.mem (r.key + 56) (le 2 Status.badParameter.code) ∧
        (port t).done = p.done + 1 ∧ (∀ q ∈ (port t).outstanding, q.id ≠ r.id)) ∧
    (∀ r w n data u, p.outstanding[n]? = some r → r.bound = some w → dOp r.desc = 1 → field r.desc 2 1 = 0 →
      descOk c.toNat r.desc (numBe (dIv r.desc) % 2 ^ 32) 0 = true → permitsOp w r.desc = true →
      s.source c.toNat r (dLen r.desc) none = (s, data) → data.length = dLen r.desc →
      s.engineWrite c.toNat r.who (dDst r.desc) (ecb (aesEnc w.key) 16 data) = (u, true) →
      ∃ t, exec (.pipelineRequestEnd c n none) s = .next t ∧ t.mem = memWrite u.mem (r.key + 56) [0, 0] ∧
        (port t).done = p.done + 1 ∧ (∀ q ∈ (port t).outstanding, q.id ≠ r.id))

/-! ## 10: Seed -/

/-- R273 to R276: a cell's Seed request. SRREQ while one waits sets OVR; a valid one is served by what the queue holds, waits in its
class for what it does not, or fails with RANDOM_UNAVAILABLE when nothing can serve it; SRCANCEL ends a waiting one; a delivery that
the generator can make in full ends it. -/
def Obligations.SeedRequestsOfACell : Prop :=
  ∀ (s : State) (c : BitVec 8) (v : BitVec 32),
    let p := (s.cell c.toNat).seed
    let port (t : State) : SeedPort := (t.cell c.toNat).seed
    let g := groveOf c.toNat
    let n := v.toNat % 2 ^ 13
    let at_ := p.dst.toNat / 8 * 8
    let legal : Prop := v.toNat % 8 = 0 ∧ 0 < n ∧ n ≤ 4096
    let write (P : State → Prop) : Prop := AfterStores (.srreqWrite c v) c.toNat s P
    (p.state = .waiting → write (fun t => port t = { p with ovr := true } ∧ t.mem = s.mem)) ∧
    (p.state ≠ .waiting → s.seedAlive = false → legal →
      write (fun t => (port t).state = .failed ∧ (port t).code = 0x0704 ∧ t.mem = s.mem)) ∧
    (p.state ≠ .waiting → ¬legal → write (fun t => t = s)) ∧
    (p.state ≠ .waiting → s.seedAlive = true → legal → v.getLsbD 13 = false → (s.core c.toNat).pl = false →
      (s.grove g).seedWait1 = [] → n ≤ (s.grove g).gen.queue.length →
      (s.engineWrite c.toNat (s.who c.toNat) at_ ((s.grove g).gen.queue.take n)).2 = true →
      write (fun t => (port t).state = .done ∧ (port t).got = n ∧
        t.mem = (s.engineWrite c.toNat (s.who c.toNat) at_ ((s.grove g).gen.queue.take n)).1.mem)) ∧
    (p.state ≠ .waiting → s.seedAlive = true → legal → (s.grove g).gen.queue = [] →
      write (fun t => (port t).state = .waiting ∧ (port t).len = n ∧ (port t).got = 0 ∧ t.mem = s.mem ∧
        (if v.getLsbD 13 = true ∨ (s.core c.toNat).pl = true
          then (t.grove g).seedWait2 = (s.grove g).seedWait2 ++ [{ cell := c.toNat }]
          else (t.grove g).seedWait1 = (s.grove g).seedWait1 ++ [{ cell := c.toNat }]))) ∧
    (p.state = .waiting → AfterStores (.srcancelWrite c) c.toNat s (fun t => port t = { p with state := .idle } ∧
      (∀ r ∈ (t.grove g).seedWait1 ++ (t.grove g).seedWait2, r.cell = c.toNat → r.job ≠ none) ∧ t.mem = s.mem)) ∧
    (∀ bs, p.state = .waiting → p.low = false → p.got < p.len → s.seedAlive = true → (s.grove g).servesNow c.toNat = true →
      p.len - p.got ≤ (s.grove g).gen.supply 0 → bs = ((s.grove g).gen.give 4096 0 (p.len - p.got)).2 →
      bs.length = p.len - p.got → (s.engineWrite c.toNat p.who (at_ + p.got) bs).2 = true →
      ∃ t, exec (.seedDeliveryDone c) s = .next t ∧ (port t).state = .done ∧ (port t).got = p.len ∧
        t.mem = (s.engineWrite c.toNat p.who (at_ + p.got) bs).1.mem)

/-- R267 to R272, R279: a block of the noise source. A run of 35 or a count of 750 fails its test, stops the source for 10 µs and is
recorded; a block that passes instantiates or reseeds the next generator in turn, whose queue is filled: the trunk's here, with the
groves' links keyed. In PATTERN the block is the pattern's (R279). -/
def Obligations.SeedBlocksAreTested : Prop :=
  ∀ (s : State) (bits : List Bool),
    (s.seed.restarting = true → exec .seedSourceRestart s =
      .next { s with seed := { s.seed with source := true, restarting := false, run := 0 } }) ∧
    (s.seed.mode = .pattern → ∀ other, exec (.seedBlock bits) s = exec (.seedBlock other) s) ∧
    (s.seed.source = true → s.seed.mode ≠ .pattern → 750 ≤ bits.count (bits.headD false) → s.seed.starting = false →
      ((true :: s.seed.recent).take 1024).count true < 3 → s.trunk.held = [] → s.trunk.change = none → s.twin.step ≠ .session →
      ∃ t, exec (.seedBlock bits) s = .next t ∧ t.seed.source = false ∧ t.seed.restarting = true ∧ t.seed.fail = s.seed.fail ∧
        t.mem = s.mem ∧ t.heart = s.heart) ∧
    (s.seed.source = true → blockTest bits s.seed.lastBit s.seed.run = none → s.seed.mode = .normal → s.seed.fail = false →
      s.seed.starting = false → s.seed.nextGen = 0 → (∀ g, (s.grove g).linkKey ≠ []) →
      s.trunk.held = [] → s.trunk.change = none → s.twin.step ≠ .session →
      ∃ t, exec (.seedBlock bits) s = .next t ∧ t.seed.gen = (s.seed.gen.seeded (sampledBytes bits)).fill 1024 ∧
        t.seed.gen.running = true ∧ t.seed.nextGen = 1 ∧ t.seed.recent = (false :: s.seed.recent).take 1024 ∧
        t.mem = s.mem ∧ t.heart = s.heart)

/-! ## 09: heartwood -/

/-- R120, R248, R249: CHECK of a cell's job refuses, in the order of the table, a handle of another partition, one that names no
key, and one whose generation is past; LOAD refuses a handle whose partition is not JPART, and
otherwise puts the key into the window or the half; it answers the waiting KEYLD. -/
def Obligations.HeartwoodAnswersItsRequests : Prop :=
  ∀ (s : State) (c : BitVec 8),
    (∀ j x, (s.cell c.toNat).jobNow = some j → s.job? j = some x → s.argsOf x = none → x.checked = none →
      ∃ t, exec (.heartwoodCheck c) s = .next t ∧
        ((∃ h ∈ x.handles, handlePart h.2 ≠ x.partition) → (t.job? j).map (·.checked) = some (some .partitionMismatch)) ∧
        ((∀ h ∈ x.handles, handlePart h.2 = x.partition) → (∃ h ∈ x.handles, s.findKey h.2 = .error .keyNotFound) →
          (t.job? j).map (·.checked) = some (some .keyNotFound)) ∧
        ((∀ h ∈ x.handles, handlePart h.2 = x.partition) → (∀ h ∈ x.handles, s.findKey h.2 ≠ .error .keyNotFound) →
          (∃ h ∈ x.handles, s.findKey h.2 = .error .keyStaleGeneration) →
          (t.job? j).map (·.checked) = some (some .keyStaleGeneration))) ∧
    (∀ j x keys, (s.cell c.toNat).jobNow = some j → s.job? j = some x → s.argsOf x = none → x.checked = none →
      s.check36 x = .ok keys → drawsValue x = false → (∀ k ∈ keys, ∀ n, k.2 = .slot n → (s.slot n).tk48 = false) →
      x.issued = none →
      exec (.heartwoodCheck c) s = .next (s.setJob j { x with checked := some .ok })) ∧
    (∀ rd h n x, (s.core c.toNat).wait = .keyld rd h 2 → (s.cell c.toNat).answer = none →
      s.loadCheck (s.cell c.toNat).jpart (s.cell c.toNat).jobNow h 2 = .ok (n, x) →
      ∃ t, exec (.heartwoodLoadWindow c) s = .next t ∧ (t.cell c.toNat).answer = some .ok ∧
        (∃ w ∈ (t.grove (groveOf c.toNat)).window, w.handle = h ∧ w.partition = x.partition ∧ w.key = x.key ∧ w.valid = true) ∧
        t.heart = s.heart ∧ t.mem = s.mem) ∧
    (∀ rd h, (s.core c.toNat).wait = .keyld rd h 2 → (s.cell c.toNat).answer = none →
      handlePart h ≠ (s.cell c.toNat).jpart →
      ∃ t, exec (.heartwoodLoadWindow c) s = .next t ∧ (t.cell c.toNat).answer = some .partitionMismatch ∧
        t.heart = s.heart ∧ t.mem = s.mem) ∧
    (∀ rd h, (s.core c.toNat).wait = .keyld rd h 0 → (s.cell c.toNat).halfS.delivering = [h] →
      handlePart h ≠ (s.cell c.toNat).jpart →
      ∃ t, exec (.heartwoodLoadHalf c) s = .next t ∧ (t.cell c.toNat).answer = some .partitionMismatch ∧
        (t.cell c.toNat).halfS.delivering = [] ∧ (t.cell c.toNat).halfS.key = (s.cell c.toNat).halfS.key ∧
        t.heart = s.heart ∧ t.mem = s.mem) ∧
    (∀ rd h n x, (s.core c.toNat).wait = .keyld rd h 0 → (s.cell c.toNat).halfS.delivering = [h] →
      s.loadCheck (s.cell c.toNat).jpart (s.cell c.toNat).jobNow h 0 = .ok (n, x) → x.secretive = false →
      ∃ t, exec (.heartwoodLoadHalf c) s = .next t ∧ (t.cell c.toNat).answer = some .ok ∧
        (t.cell c.toNat).halfS.key = x.key ∧ (t.cell c.toNat).halfS.full = true ∧
        (t.cell c.toNat).halfS.loads = (s.cell c.toNat).halfS.loads + 1 ∧ t.heart = s.heart ∧ t.mem = s.mem)

/-- R244, R250, R264: heartwood's own timers: a failed ceiling's retry, a prime pair found, and the journal's erase. -/
def Obligations.HeartwoodTimers : Prop :=
  ∀ s : State,
    (∀ n : BitVec 17, ∀ x, x = s.slot n.toNat → x.occupied = true → x.commitFailed = true → s.heart.serving = true → x.tk48 = false →
      (∃ t, exec (.ceilingCommitRetry n true) s = .next t ∧ (t.slot n.toNat).ceiling = x.ceiling + x.block ∧
        (t.slot n.toNat).commitFailed = false ∧ (t.slot n.toNat).counter = x.counter) ∧
      (∃ t, exec (.ceilingCommitRetry n false) s = .next t ∧ t.slot n.toNat = x)) ∧
    (∀ k : BitVec 2, ∀ pool, k.toNat < 3 → pool = (tblGet s.heart.primes k.toNat).getD [] → pool.length < 8 →
      s.trunk.ready = true → s.heart.serving = true → s.halted = false → s.noneServes = false →
      exec (.primePoolRefill k) s = .next { s with free := s.free + 1, heart := { s.heart with
        primes := tblSet s.heart.primes k.toNat
          (pool ++ [primePair (pairBytes k.toNat) (s.freeBytes (pairBytes k.toNat))]) } }) ∧
    (s.heart.erasing = true → exec .journalEraseDone s = .next { s with heart := { s.heart with
      journal := [], erasing := false, zeroising := false, serving := true } })

/-! ## 03: the host interface -/

/-- R66, R80 to R85, R73, 18 R459: a doorbell starts one read of its queue's index record, or asks for one more; one that names no
queue is discarded and counted in IDXERR; in DORMANT it wakes the module and is kept. The read brings a host index, which is
taken, or is discarded and counted when it is N or more; a failed read takes none, and of the administrative queue it sets
FETCHERR; a read asked for meanwhile goes out then. The administrative and the created submission queues then take their turn for
the one entry read that is outstanding. A head taken lets a waiting completion be written when there is room. On a function that
is not there, or before READY, all three do nothing. -/
def Obligations.DoorbellsAndIndexRecords : Prop :=
  ∀ (s : State) (fn : BitVec 6),
    let f := fn.toNat
    (s.opened f = false → (∀ v, exec (.queueDoorbell fn v) s = .next s) ∧
      (∀ kind n i, exec (.indexRecordReadDone fn kind n i) s = .next s) ∧
      (∀ n h, exec (.completionHeadDoorbell fn n h) s = .next s)) ∧
    (s.opened f = true → s.dormant = true →
      (∀ (v : BitVec 32) x, s.ringRef f (v.getLsbD 15) (v.toNat % 1024) = some x →
        ∃ t, exec (.queueDoorbell fn v) s = .next t ∧ t.trunk.waking = true ∧
          t.trunk.rung = s.trunk.rung ++ [(f, v.getLsbD 15, v.toNat % 1024)] ∧ t.queues = s.queues ∧ t.fns = s.fns ∧ t.out = s.out) ∧
      (∀ (n : BitVec 10) (h : BitVec 16) x, s.ringRef f true n.toNat = some x →
        ∃ t, exec (.completionHeadDoorbell fn n h) s = .next t ∧ t.trunk.waking = true ∧
          t.trunk.rung = s.trunk.rung ++ [(f, true, n.toNat)] ∧ t.queues = s.queues ∧ t.fns = s.fns ∧ t.out = s.out) ∧
      (∀ kind n i, exec (.indexRecordReadDone fn kind n i) s = .next s)) ∧
    (s.opened f = true → s.dormant = false →
      (∀ v : BitVec 32, s.ringRef f (v.getLsbD 15) (v.toNat % 1024) = none →
        ∃ t, exec (.queueDoorbell fn v) s = .next t ∧ (t.fn f).idxErr = (s.fn f).idxErr + 1 ∧ t.queues = s.queues ∧
          t.jobs = s.jobs ∧ t.mem = s.mem) ∧
      (∀ (v : BitVec 32) x, s.ringRef f (v.getLsbD 15) (v.toNat % 1024) = some x →
        ∃ t, exec (.queueDoorbell fn v) s = .next t ∧ t.jobs = s.jobs ∧ t.mem = s.mem ∧
          t.out = (if x.ring.reading then s.out else .hostRead f x.record.toNat 4 :: s.out) ∧
          (t.ringRef f (v.getLsbD 15) (v.toNat % 1024)).map (fun y => y.ring) =
            some (if x.ring.reading then { x.ring with again := true } else { x.ring with reading := true })) ∧
      (∀ (kind : Bool) (n : BitVec 10) x, s.ringRef f kind n.toNat = some x →
        (x.ring.reading = false → ∀ i, exec (.indexRecordReadDone fn kind n i) s = .next s) ∧
        (x.ring.reading = true → x.ring.again = false →
          (∀ i : BitVec 16, 2 ^ x.log ≤ i.toNat →
            ∃ t, exec (.indexRecordReadDone fn kind n (some i)) s = .next t ∧ (t.fn f).idxErr = (s.fn f).idxErr + 1 ∧
              t.jobs = s.jobs ∧ t.mem = s.mem) ∧
          (∀ i : BitVec 16, i.toNat < 2 ^ x.log → kind = false →
            ∃ u : State, exec (.indexRecordReadDone fn kind n (some i)) s = .next u.fetch ∧
              (u.ringRef f kind n.toNat).map (fun y => y.ring) = some { x.ring with reading := false, host := i.toNat } ∧
              u.out = s.out ∧ u.jobs = s.jobs ∧ u.mem = s.mem ∧ u.trunk = s.trunk) ∧
          (∃ t, exec (.indexRecordReadDone fn kind n none) s = .next t ∧ t.out = s.out ∧ t.jobs = s.jobs ∧ t.mem = s.mem ∧
            (t.ringRef f kind n.toNat).map (fun y => y.ring) = some { x.ring with reading := false } ∧
            (t.fn f).adm.fetchErr = ((s.fn f).adm.fetchErr || n == 0))) ∧
        (x.ring.reading = true → x.ring.again = true → n ≠ 0 →
          ∃ t, exec (.indexRecordReadDone fn kind n none) s = .next t ∧ t.out = .hostRead f x.record.toNat 4 :: s.out ∧
            (t.ringRef f kind n.toNat).map (fun y => y.ring) = some { x.ring with reading := true, again := false })) ∧
      (∀ (n : BitVec 10) (h : BitVec 16), s.ringRef f true n.toNat = none →
        ∃ t, exec (.completionHeadDoorbell fn n h) s = .next t ∧ (t.fn f).idxErr = (s.fn f).idxErr + 1 ∧ t.queues = s.queues) ∧
      (∀ (n : BitVec 10) y, ∀ h : BitVec 16, 5 ≤ n.toNat → s.queue? (queueKey f true n.toNat) = some y → y.destroyed = false →
        (2 ^ y.log ≤ h.toNat →
          ∃ t, exec (.completionHeadDoorbell fn n h) s = .next t ∧ (t.fn f).idxErr = (s.fn f).idxErr + 1 ∧ t.queues = s.queues) ∧
        (h.toNat < 2 ^ y.log → y.waiting = [] → ∃ t, exec (.completionHeadDoorbell fn n h) s = .next t ∧ t.out = s.out ∧
          t.queue? (queueKey f true n.toNat) = some { y with ring := { y.ring with host := h.toNat } }) ∧
        (∀ e rest, h.toNat < 2 ^ y.log → y.waiting = e :: rest → (y.ring.dev + 1) % 2 ^ y.log ≠ h.toNat →
          ∃ t, exec (.completionHeadDoorbell fn n h) s = .next t ∧
            .hostWrite y.fn (y.base.toNat + 32 * y.ring.dev)
              (e.bytes (s.sqHead y.fn e.sq) (decide (y.ring.wrap % 2 = 0))) ∈ t.out))) ∧
    (s.trunk.fetching.isSome = true → s.fetch = s) ∧
    (∀ (q : Nat) x, s.trunk.fetching = none → s.dormant = false → s.trunk.ready = true → s.fetchable f q = true →
      s.ringRef f false q = some x → (q = 0 ∨ ∃ y, (queueKey f false q, y) ∈ s.queues ∧ y.fn = f ∧ y.num = q ∧ y.completion = false) →
      (∀ g p, s.fetchable g p = true → g = f ∧ p = q) →
      s.fetch.trunk.fetching = some (f, q) ∧ s.fetch.out = .hostRead f (x.base.toNat + 64 * x.ring.dev) 64 :: s.out)

/-- R84, R88, R90, R92, 02 R44, 01 R27: the entry whose read is outstanding makes one job in an intake, with its fields and its
inline input; one that a check refuses completes at once under the partition's next receipt number and makes none. The input of
an entry that is not inline is the bytes read, and goes into the job's buffer; a failed read ends the job. -/
def Obligations.EntriesMakeJobs : Prop :=
  ∀ s : State,
    (∀ (fn : BitVec 6) (n : BitVec 10) q e m io, s.opened fn.toNat = true → s.dormant = false → n ≠ 0 →
      s.trunk.fetching = some (fn.toNat, n.toNat) →
      s.queue? (queueKey fn.toNat false n.toNat) = some q → q.destroyed = false → q.ring.dev ≠ q.ring.host →
      s.intakeFull q = false → q.chain = [] → q.completion = false → q.fn = fn.toNat → q.num = n.toNat →
      e.length = 64 → entryFirst e = true → entryLast e = true →
      (entryInline e = true → entryBad q.dual q.requeue e = false → s.entryCheck q [e] = none →
        ∃ t x, exec (.entryFetchDone fn n (some e) m io) s = .next t ∧ t.nextJob = s.nextJob + 1 ∧
          t.job? s.nextJob = some x ∧ x.fn = q.fn ∧ x.q = q.num ∧ x.code = field e 0 2 ∧ x.tag = field e 2 2 ∧
          x.handleA.toNat = field e 8 4 ∧ x.handleB.toNat = field e 16 4 ∧ x.staged = true ∧
          x.input = piece e 24 (field e 32 4) ∧ x.outCap = field e 36 4 ∧ x.stamp = s.sched.tick ∧
          (∀ g ∈ s.route q.fn q.dual, s.nextJob ∈ (t.grove g).intake)) ∧
      ((entryBad q.dual q.requeue e = true ∨ entryInline e = true ∧ ∃ st, s.entryCheck q [e] = some st) →
        ∃ t, exec (.entryFetchDone fn n (some e) m io) s = .next t ∧ t.jobs = s.jobs ∧ t.nextJob = s.nextJob ∧
          (t.part q.fn).nextReceipt = (s.part q.fn).nextReceipt + 1 ∧ t.mem = s.mem)) ∧
    (∀ j x bs, s.job? j = some x → x.staged = false →
      (∀ e, x.entries = [e] → entryInline e = false → x.refusal = none →
        ∃ t, exec (.inputStaged j (some bs)) s = .next t ∧
          t.job? j = some { x with staged := true, input := piece bs 0 (field e 32 4) } ∧
          t.mem = (match x.buf with
            | some a => memWrite s.mem a (e ++ piece bs 0 (field e 32 4))
            | none => s.mem)) ∧
      (∃ t, exec (.inputStaged j none) s = .next t ∧ t.job? j = none ∧ t.mem = s.mem))

/-- R69, R70, R7: a mailbox doorbell makes an enabled mailbox BUSY and reads its 256 request bytes; on a BUSY one it sets OVR;
a request that cannot be read is DONE with MALFORMED_ENTRY and DMAERR; MBCTL takes the bits whose enables are set. -/
def Obligations.MailboxesTakeAMessage : Prop :=
  ∀ (s : State) (fn : BitVec 6) (v : BitVec 32) (m : BitVec 3), s.opened fn.toNat = true → s.dormant = false →
    m.toNat < mailboxes fn.toNat →
    let f := fn.toNat
    let x := (s.fn f).mailbox m.toNat
    let box (t : State) : Mailbox := (t.fn f).mailbox m.toNat
    (v.toNat % 8 = m.toNat →
      ∃ t, exec (.mailboxDoorbell fn v) s = .next t ∧ t.mem = s.mem ∧ t.jobs = s.jobs ∧ FnOnly s { t with trunk := s.trunk, out := s.out } f ∧
        box t = (if x.state = .busy then { x with ovr := true } else if x.en then { x with state := .busy } else x) ∧
        t.out = (if x.state ≠ .busy ∧ x.en = true then .hostRead f x.req.toNat 256 :: s.out else s.out)) ∧
    (∀ io, x.state = .busy →
      ∃ t, exec (.mailboxRequestReadDone fn m none io) s = .next t ∧
        box t = { x with state := .done, seq := x.seq + 1, lastSt := 0x0201, dmaErr := true }) ∧
    (∃ t, exec (.mbctlWrite fn m v) s = .next t ∧ FnOnly s t f ∧ { box t with en := x.en, ie := x.ie, vec := x.vec } = x ∧
      (box t).en = (if v.getLsbD 16 then v.getLsbD 0 else x.en) ∧
      (box t).ie = (if v.getLsbD 17 then v.getLsbD 1 else x.ie) ∧
      (∀ i, i < 6 → (box t).vec.getLsbD i = if v.getLsbD (24 + i) then v.getLsbD (8 + i) else x.vec.getLsbD i))

/-- R73, R74: AQCTL and SVCTL. Enabling with sizes 1 to 12 makes the pair or the queue ACTIVE with empty rings; with another size
it is refused and CFGERR set; clearing EN drops ACTIVE and what waits. -/
def Obligations.AdministrativeAndServiceControl : Prop :=
  ∀ (s : State) (fn : BitVec 6) (v : BitVec 32), s.opened fn.toNat = true → s.dormant = false →
    v.extractLsb' 16 16 = BitVec.allOnes 16 →
    let f := fn.toNat
    let a := (s.fn f).adm
    let adm (t : State) : AdminPair := (t.fn f).adm
    let ok (n : Nat) : Prop := 1 ≤ n ∧ n ≤ 12
    let sq := v.toNat / 2 ^ 8 % 16
    let cq := v.toNat / 2 ^ 12 % 16
    (a.active = false → v.getLsbD 0 = true → ok sq → ok cq →
      ∃ t, exec (.aqctlWrite fn v) s = .next t ∧ FnOnly s t f ∧ (adm t).active = true ∧ (adm t).en = true ∧
        (adm t).sqLog.toNat = sq ∧ (adm t).cqLog.toNat = cq ∧ (adm t).sq = {} ∧ (adm t).cq = {} ∧
        (adm t).ie = v.getLsbD 1 ∧ (adm t).vec.toNat = v.toNat / 4 % 64) ∧
    (v.getLsbD 0 = true → ¬(ok sq ∧ ok cq) → a.en = false →
      ∃ t, exec (.aqctlWrite fn v) s = .next t ∧ (adm t).active = false ∧ (adm t).en = false ∧ (adm t).cfgErr = true) ∧
    (v.getLsbD 0 = false → a.waiting = [] →
      ∃ t, exec (.aqctlWrite fn v) s = .next t ∧ FnOnly s { t with trunk := s.trunk } f ∧ (adm t).active = false ∧
        (adm t).en = false ∧ t.trunk = { s.trunk with fetching := t.trunk.fetching } ∧
        (s.trunk.fetching = some (f, 0) → t.trunk.fetching = none)) ∧
    (∀ q : BitVec 2,
      let x := (s.fn f).service q.toNat
      let svc (t : State) : SvcQueue := (t.fn f).service q.toNat
      (x.active = false → v.getLsbD 0 = true → ok sq →
        ∃ t, exec (.svctlWrite fn q v) s = .next t ∧ (svc t).active = true ∧ (svc t).en = true ∧ (svc t).log.toNat = sq ∧
          (q ≠ 0 → (svc t).ring = {} ∧ FnOnly s t f)) ∧
      (v.getLsbD 0 = true → ¬ok sq → x.en = false →
        ∃ t, exec (.svctlWrite fn q v) s = .next t ∧ (svc t).active = false ∧ (svc t).cfgErr = true ∧ FnOnly s t f) ∧
      (v.getLsbD 0 = false →
        ∃ t, exec (.svctlWrite fn q v) s = .next t ∧ (svc t).active = false ∧ (svc t).waiting = [] ∧ FnOnly s t f))

/-- R66, R77, R78, R7, 01 R18: TICKL, ENL and JOBSL answer the low word and latch the high one; the page 3 counters answer and
clear; SVSTAT answers and clears DROP. Nothing else of the state changes. ENL answers 0 on a VF. Before READY all of them answer
0 and change nothing; in DORMANT a read wakes the module and waits; one of a function that is not there is not answered. -/
def Obligations.RegisterReadsAnswerLatchAndClear : Prop :=
  ∀ (s : State) (fn : BitVec 6),
    let f := fn.toNat
    let y := s.fn f
    let open_ : Prop := s.live f = true ∧ s.trunk.ready = true ∧ s.dormant = false
    let reads (i : Instr) (off : Nat) : Prop :=
      (s.live f = false → exec i s = .next s) ∧
      (s.live f = true → s.trunk.ready = false → s.dormant = false → exec i s = .next { s with out := .regRead f off 0 :: s.out }) ∧
      (s.live f = true → s.dormant = true →
        exec i s = .next { s with trunk := { s.trunk with waking := true, reads := s.trunk.reads ++ [(f, off)] } })
    let answers (i : Instr) (off v : Nat) (z : Fn) : Prop :=
      exec i s = .next ({ s with out := .regRead f off v :: s.out }.setFn f z)
    reads (.ticklRead fn) 0x3000 ∧ reads (.enlRead fn) 0x310C ∧ reads (.jobslRead fn) 0x3200 ∧
    reads (.page3CounterRead fn .expire) 0x3208 ∧ reads (.page3CounterRead fn .overrun) 0x320C ∧
    reads (.page3CounterRead fn .malform) 0x3210 ∧ reads (.page3CounterRead fn .idxerr) 0x3214 ∧
    (∀ q : BitVec 2, reads (.svstatRead fn q) (0x2114 + 0x20 * q.toNat)) ∧
    (open_ →
      answers (.ticklRead fn) 0x3000 (s.sched.tick % 2 ^ 32) { y with tickH := BitVec.ofNat 16 (s.sched.tick / 2 ^ 32) } ∧
      (f = 0 → answers (.enlRead fn) 0x310C (s.clock.energyJ.toNat % 2 ^ 32) { y with enH := s.clock.energyJ.extractLsb' 32 32 }) ∧
      (f ≠ 0 → exec (.enlRead fn) s = .next { s with out := .regRead f 0x310C 0 :: s.out }) ∧
      answers (.jobslRead fn) 0x3200 (y.jobs.toNat % 2 ^ 32) { y with jobsH := y.jobs.extractLsb' 32 32 } ∧
      answers (.page3CounterRead fn .expire) 0x3208 y.expire.toNat { y with expire := 0 } ∧
      answers (.page3CounterRead fn .overrun) 0x320C y.overrun.toNat { y with overrun := 0 } ∧
      answers (.page3CounterRead fn .malform) 0x3210 y.malform.toNat { y with malform := 0 } ∧
      answers (.page3CounterRead fn .idxerr) 0x3214 y.idxErr.toNat { y with idxErr := 0 } ∧
      (∀ q : BitVec 2,
        let v := y.service q.toNat
        answers (.svstatRead fn q) (0x2114 + 0x20 * q.toNat)
          (b2n v.active + 2 * b2n v.cfgErr + v.waiting.length * 2 ^ 8 + v.drop.toNat * 2 ^ 16)
          (y.setService q.toNat { v with drop := 0 })))

/-- 01 R18, 03 R64 to R69, R76: in DORMANT page 0 answers and a read beyond it wakes the module and waits; a write with partial
byte enables and one to page 0 change nothing; a write to BAR2 is a doorbell; a write of a control register, an interrupt
coalescing register or an MSI-X table word does what the register is for. R98: when the oldest pending addition has seen its
boundaries the vector's message goes out, or its PBA bit is set while it is masked; the pending count returns to 0. -/
def Obligations.RegisterAccessesReachTheirPage : Prop :=
  ∀ (s : State) (fn : BitVec 6) (o : BitVec 16) (v : BitVec 32), s.live fn.toNat = true →
    let f := fn.toNat
    (s.dormant = true → o.toNat / 0x1000 % 4 ≠ 0 →
      exec (.bar0ReadDormant fn o) s = .next { s with trunk := { s.trunk with waking := true, reads := s.trunk.reads ++ [(f, o.toNat)] } }) ∧
    (s.dormant = true → exec (.bar0ReadDormant fn 0x01C) s = .next { s with out := .regRead f 0x01C s.statusWord :: s.out }) ∧
    (∀ bar, exec (.registerWrite fn bar o v true) s = .next s) ∧
    (o.toNat / 0x1000 % 4 = 0 → exec (.registerWrite fn 0 o v false) s = .next s) ∧
    (o.toNat % 0x1000 < 0x800 → exec (.registerWrite fn 2 o v false) s = exec (.queueDoorbell fn v) s) ∧
    (0x800 ≤ o.toNat % 0x1000 → exec (.registerWrite fn 2 o v false) s = exec (.mailboxDoorbell fn v) s) ∧
    (exec (.registerWrite fn 0 0x2000 v false) s = exec (.aqctlWrite fn v) s) ∧
    (∀ q : BitVec 2, o.toNat = 0x2110 + 0x20 * q.toNat →
      exec (.registerWrite fn 0 o v false) s = exec (.svctlWrite fn q v) s) ∧
    (∀ m : BitVec 3, m.toNat < mailboxes f → o.toNat = 0x1010 + 0x100 * (m.toNat / 4) + 0x20 * (m.toNat % 4) →
      exec (.registerWrite fn 0 o v false) s = exec (.mbctlWrite fn m v) s) ∧
    (∀ n, n < 32 → o.toNat = 0x2300 + 4 * n → s.trunk.ready = true → s.dormant = false → ((s.fn f).vector n).pend = 0 →
      ∃ t, exec (.registerWrite fn 0 o v false) s = .next t ∧ FnOnly s t f ∧
        (t.fn f).vector n = { (s.fn f).vector n with cnt := v.setWidth 8, ticks := v.extractLsb' 8 8 }) ∧
    (∀ n, n < 64 → o.toNat = 16 * n + 8 →
      ∃ t, exec (.registerWrite fn 4 o v false) s = .next t ∧ FnOnly s t f ∧
        (t.fn f).vector n = { (s.fn f).vector n with data := v }) ∧
    (∀ vec : BitVec 6,
      let x := (s.fn f).vector vec.toNat
      let due := if x.ticks ≠ 0 then x.ticks.toNat else 1
      s.dormant = false → (x.ticks ≠ 0 ∨ x.cnt ≠ 0) → x.pend ≠ 0 → due ≤ x.age →
      ∃ t, exec (.coalesceTickExpiry fn vec) s = .next t ∧ FnOnly { s with out := t.out } t f ∧
        t.out = (if x.masked then s.out else .msix f vec.toNat x.addr x.data :: s.out) ∧
        (t.fn f).vector vec.toNat = { x with pba := x.pba || x.masked, pend := 0, age := 0 })

/-- R99, R30, 19 R479: FLR takes a function's registers and queues away, on the PF every function's and VF Enable; a VF that VF
Enable takes away is reset; D3hot is entered and left, and WAKE# is released on the return to D0. -/
def Obligations.FunctionsAreResetAndPowered : Prop :=
  ∀ (s : State) (fn n : BitVec 6),
    (s.live fn.toNat = true → fn ≠ 0 →
      ∃ t, exec (.flr fn) s = .next t ∧ t.fn fn.toNat = {} ∧ (∀ k q, t.queue? k = some q → q.fn ≠ fn.toNat) ∧
        (∀ r ∈ t.trunk.reads, r.1 ≠ fn.toNat) ∧ t.trunk.numVfs = s.trunk.numVfs) ∧
    (s.live 0 = true → ∃ t, exec (.flr 0) s = .next t ∧ t.trunk.numVfs = 0 ∧ (∀ f, f < 64 → t.fn f = {}) ∧
      (∀ k q, t.queue? k = some q → 64 ≤ q.fn) ∧ t.log.stream = none) ∧
    (s.live 0 = true → ∃ t, exec (.vfEnableWrite n) s = .next t ∧ t.trunk.numVfs = n.toNat ∧
      (∀ f, n.toNat < f → f ≤ s.trunk.numVfs → f < 64 → t.fn f = {})) ∧
    (∀ d, s.live fn.toNat = true → ∃ t, exec (.functionPowerStateChange fn d) s = .next t ∧ FnOnly s t fn.toNat ∧
      t.fn fn.toNat = { s.fn fn.toNat with d3hot := d, wakeWanted := (s.fn fn.toNat).wakeWanted && d })

/-! ## 02, 06: the tick, cells and groves -/

/-- R36, R40, R41, R56, 06 R154, 19 R471: a boundary opens the next tick (the first one opens the tick set at start-up) on the grid of due
times, to which one late by less than a period keeps, a pending period that is due takes effect, every cell that sees the pulse latches the
tick and has a fresh budget, all of it where no internal job takes a part, and the energy of one period is added. A locked core keeps
its BUDGET (12 R325). -/
def Obligations.BoundaryOpensTheTick : Prop :=
  ∀ (s : State) (lateA lateB : Nat) (m : Meters), s.sched.running = true → s.trunk.ready = true → s.dormant = false →
    s.sched.stalled = false →
    ∃ t, exec (.tickBoundary lateA lateB m) s = .next t ∧
      t.sched.tick = (if s.sched.firstBoundary then s.sched.tick else (s.sched.tick + 1) % 2 ^ 48) ∧
      t.sched.firstBoundary = false ∧ t.sched.inGuard = false ∧ t.elec.m = m ∧
      t.sched.boundaryAt = (if s.sched.firstBoundary = false ∧ s.sched.resumed = false ∧
          s.sched.boundaryAt + s.sched.period * 25 ≤ s.clock.cd18 ∧ s.clock.cd18 < s.sched.boundaryAt + 2 * (s.sched.period * 25)
        then s.sched.boundaryAt + s.sched.period * 25 else s.clock.cd18) ∧ t.sched.resumed = false ∧
      (∀ p c, s.sched.pend = some (p, c) → c ≤ t.sched.tick → t.sched.period = p ∧ t.sched.pend = none) ∧
      (∀ p c, s.sched.pend = some (p, c) → t.sched.tick < c → t.sched.period = s.sched.period ∧ t.sched.pend = some (p, c)) ∧
      (s.sched.pend = none → t.sched.period = s.sched.period ∧ t.sched.pend = none) ∧
      t.clock.energyNj = (s.clock.energyNj + m.pinMw * t.sched.period) % 10 ^ 9 ∧
      t.clock.energyJ = s.clock.energyJ + BitVec.ofNat 64 ((s.clock.energyNj + m.pinMw * t.sched.period) / 10 ^ 9) ∧
      (∀ c, c < 256 →
        let late := if groveOf c then lateB else lateA
        late < t.sched.period * 1000 →
        (t.cell c).ctick = BitVec.ofNat 48 t.sched.tick ∧ ((s.core c).locked = false → (t.core c).budget = false) ∧
          (t.groveServes (groveOf c) = true → (t.cell c).intern = [] → (t.cell c).brem = (t.sched.period - 8) * 1000 - late))

/-- R41 t3, R56, R60: the end of the budget empties the plan of every cell of a running grove that had work or time left, with BUDGET raised and BREM 0; a
missed tick stalls the schedule and raises source 24, which halts; the generator's return ends the stall; the thermal limit
rises by 8 once 99 cool ticks have passed, for the hundredth boundary. R361, R369, 13 R341: while a HALT-class response is in force, or a life-cycle change runs, a
boundary admits no job: whatever stands in a plan without having started was in it before. -/
def Obligations.BudgetEndHaltAndHeat : Prop :=
  ∀ s : State,
    (∀ used, s.sched.running = true → s.sched.inGuard = false →
      ∃ t, exec (.budgetEnd used) s = .next t ∧ t.sched.inGuard = true ∧
        (∀ c, c < 256 → s.stops c = true →
          (t.cell c).plan = [] ∧ (t.cell c).brem = 0 ∧ (t.core c).budget = true)) ∧
    (s.sched.running = true → s.sched.stalled = false →
      ∃ t, exec .tickMissed s = .next t ∧ t.sched.stalled = true ∧
        (s.bark.tarm.getLsbD 24 = true → t.bark.tstky.getLsbD 24 = true ∧ t.halted = true)) ∧
    (s.sched.stalled = true → exec .tickGeneratorResume s =
      .next { s with sched := { s.sched with stalled := false, resumed := true, boundaryAt := s.clock.cd18 } }) ∧
    (∀ n, s.sched.coolTicks = some n → 99 ≤ n →
      ∃ t, exec .thermalLimitStep s = .next t ∧ t.groveA = { s.groveA with thermal := min 128 (s.groveA.thermal + 8) } ∧
        t.groveB = { s.groveB with thermal := min 128 (s.groveB.thermal + 8) } ∧ t.sched.coolTicks = (if n = 99 then none else some (n - 100)) ∧
        { t with groveA := s.groveA, groveB := s.groveB, sched := s.sched } = s) ∧
    (∀ t lateA lateB m, s.halted = true ∨ s.changing = true → exec (.tickBoundary lateA lateB m) s = .next t →
      ∀ j g k, t.copy? j g = some k → k.place = .planned → ∃ k0, s.copy? j g = some k0 ∧ k0.place = .planned)

/-- R57, 06 R166 to R171: four missed pulses stop a grove and wipe its memory; a silent link and a report of the grove lose it, its
cells drained but for FAILED ones and its work moved; the trunk tries one rejoin, with a fresh key as soon as its generator gives one (10 R274); a link that does not train leaves the
grove as it was; one that does brings it back, wiped, with the kernel in its cells' instruction SRAM (11 R288) and its named cells
under test. -/
def Obligations.GrovesAreLostAndRejoin : Prop :=
  ∀ (s : State) (g : Bool),
    (s.groveServes g = true →
      ∃ t, exec (.groveMissedTicks g) s = .next t ∧ (t.grove g).missed = 4 ∧
        (∀ c ∈ cellsOf g, (t.cell c).plan = [] ∧ (t.cell c).resident = none ∧ (t.cell c).st = (s.cell c).st) ∧
        (∀ c, groveOf c ≠ g → t.cell c = s.cell c) ∧
        (∀ c ∈ cellsOf g, ∀ a, a < 2 ^ 48 → memGet t.mem (cellBase c + a) = 0) ∧
        (∀ a, a < 2 ^ 48 → memGet t.mem (groveBase g + a) = 0)) ∧
    (s.groveServes g = true →
      ∃ t, exec (.groveLost g) s = .next t ∧ exec (.groveLinkSilent g) s = .next t ∧ (t.grove g).lost = true ∧
        (t.grove g).powered = false ∧ (t.grove g).lostAt = s.clock.cd18 ∧
        (∀ c ∈ cellsOf g, (t.cell c).st = if (s.cell c).st = .failed then .failed else .drained) ∧
        (s.groveServes (!g) = true → (t.grove g).intake = [])) ∧
    ((s.grove g).lost = true → (s.grove g).rejoinTried = false → (s.grove g).rising = none → s.trunk.ready = true →
      (s.seedAlive = true →
        ∃ t, exec (.groveRejoinAttempt g) s = .next t ∧ (t.grove g).powered = true ∧
          (t.grove g).rising = some ((cellsOf g).map (fun c => (c, s.clock.cd18))) ∧
          (t.grove g).rejoinTried = true ∧ (t.grove g).lost = true ∧
          (∀ u k, s.trunkTake linkKeyLen = some (u, k) → (t.grove g).linkKey = k) ∧
          (s.trunkTake linkKeyLen = none → (t.grove g).linkKey = [])) ∧
      (s.seedAlive = false →
        ∃ t, exec (.groveRejoinAttempt g) s = .next t ∧ t.grove g = { s.grove g with rejoinTried := true })) ∧
    (∀ cells, (s.grove g).rising = some cells → s.trunk.change = none → s.trunk.held = [] →
      (∃ t, exec (.groveLinkTrainTimeout g) s = .next t ∧
        t.grove g = { s.grove g with powered := false, rising := none, linkUp := false } ∧ t.cells = s.cells ∧ t.mem = s.mem) ∧
      (∀ bad, (s.grove g).linkKey = [] → exec (.groveLinkTrained g bad) s = .next s) ∧
      (∀ bad, (s.grove g).linkKey ≠ [] → ∃ t, exec (.groveLinkTrained g bad) s = .next t ∧ (t.grove g).lost = false ∧
        (t.grove g).linkUp = true ∧ (t.grove g).rising = none ∧
        (∀ c ∈ cells, (t.cell c.1).st = .selftest) ∧
        (∀ c ∈ cellsOf g, ∀ a, a < 2 ^ 48 → memGet t.mem (cellBase c + a) = kernelImage.getD a 0)))

/-- R152, R153, R156 to R159: a fence takes a serving cell out, with its plan, its core and its memory gone, whatever the cause,
an invalid state code among them; the wipe's end starts the self-test; the test's end wipes what it used and loads the kernel (11 R288), and a passed one lets the cell wait for its boundary or
leaves it drained, a failed one or a third fence makes it FAILED. -/
def Obligations.CellsAreFencedAndTested : Prop :=
  ∀ (s : State) (c : BitVec 8),
    let x := s.cell c.toNat
    let fenced (t : State) : Prop := (t.cell c.toNat).st = .fenced ∧ (t.cell c.toNat).plan = [] ∧
      (t.cell c.toNat).resident = none ∧ t.core c.toNat = {} ∧ (t.cell c.toNat).atValid = false ∧
      (∀ a, a < 2 ^ 48 → memGet t.mem (cellBase c.toNat + a) = 0)
    ((x.st = .idle ∨ x.st = .resident ∨ x.st = .draining) → s.groveServes (groveOf c.toNat) = true →
      (∀ cause, ∃ t, exec (.cellFence c cause) s = .next t ∧ fenced t) ∧
      (∀ code, ∃ t, exec (.invalidCstate c code) s = .next t ∧ fenced t)) ∧
    (x.st = .fenced → ∃ t, exec (.fenceWipeDone c) s = .next t ∧ (t.cell c.toNat).st = .selftest ∧
      (t.cell c.toNat).testAt = s.clock.cd18 ∧ (t.cell c.toNat).markedDrained = x.markedDrained ∧
      (∀ d, d ≠ c.toNat → t.cell d = s.cell d) ∧ { t with cells := s.cells } = s) ∧
    (x.st = .selftest → x.testPassed = false →
      (∃ t, exec (.selftestDone c false) s = .next t ∧ (t.cell c.toNat).st = .failed) ∧
      (x.testByRestore = false → 3 ≤ (x.fences.filter (fun w => decide (s.window < w + 10))).length →
        ∃ t, exec (.selftestDone c true) s = .next t ∧ (t.cell c.toNat).st = .failed) ∧
      ((x.testByRestore = true ∨ (x.fences.filter (fun w => decide (s.window < w + 10))).length < 3) →
        ∃ t, exec (.selftestDone c true) s = .next t ∧
          (t.cell c.toNat).fences = (if x.testByRestore then [] else x.fences) ∧
          (x.markedDrained = true → (t.cell c.toNat).st = .drained ∧ (t.cell c.toNat).markedDrained = false) ∧
          (∀ a, a < 2 ^ 48 → memGet t.mem (cellBase c.toNat + a) = kernelImage.getD a 0) ∧
          (x.markedDrained = false → (t.cell c.toNat).st = .selftest ∧ (t.cell c.toNat).testPassed = true ∧
            (∀ a, a < cellBase c.toNat ∨ cellBase c.toNat + 2 ^ 48 ≤ a → memGet t.mem a = memGet s.mem a) ∧
            (x.core.imprecise = none → { t with cells := s.cells, mem := s.mem } = s))))

/-- R41 t5, R54, R155, R160, R161, 01 R26, R27: after the cell's buffered stores (11 R294), or with the
report of one that was discarded, DPPOST hands a completion record over; DPDISP sends an item that has not started back;
DPREM sets the resident job's remaining time; the trunk takes the oldest record: a single job ends with one receipt and its output
is written, a DUAL job waits for its other copy's result and then ends. -/
def Obligations.DispatcherAndCompletions : Prop :=
  ∀ (s : State) (c : BitVec 8),
    let g := groveOf c.toNat
    let write (w : Instr) (P : State → Prop) : Prop := Sys2Proof.Claims.AfterStores w c.toNat s P
    (∀ (off : BitVec 32) (j : Nat) x y st,
      let k := groveBase g + off.toNat
      let has := num (memRead s.mem (k + 6) 1) % 2 = 1
      let n := num (memRead s.mem (k + 8) 4)
      off.toNat % 64 = 0 → off.toNat + 128 ≤ 2 ^ 23 → num (memRead s.mem k 4) = j → s.job? j = some x → s.copy? j g = some y →
      y.place ≠ .ended → y.cell = c.toNat → (∃ i ∈ (s.cell c.toNat).plan, i.job = j) →
      Status.ofCode (num (memRead s.mem (k + 4) 2)) = some st → (has → n ≤ x.outCap) →
      write (.dppostWrite c off) (fun t => ∃ r, r ∈ t.posted ∧ r.job = j ∧ r.grove = g ∧ r.status = st ∧ r.outLen = n ∧
        (has → r.out = memRead s.mem (x.outputAt g) n) ∧ (¬has → r.out = []) ∧ r.entryDigest = memRead s.mem (k + 16) 48 ∧
        r.outDigest = memRead s.mem (k + 64) 48 ∧ r.epoch = s.trunk.epoch.toNat ∧
        (t.copy? j g).map (fun z => z.place) = some .ended ∧ (∀ i ∈ (t.cell c.toNat).plan, i.job ≠ j))) ∧
    (∀ j k, s.copy? j g = some k → k.place = .planned → k.cell = c.toNat → (∃ i ∈ (s.cell c.toNat).plan, i.job = j) →
      write (.dpdispWrite c j) (fun t => (t.copy? j g).map (fun z => z.place) = some .waiting ∧
        (∀ i ∈ (t.cell c.toNat).plan, i.job ≠ j) ∧ t.mem = s.mem)) ∧
    (∀ j k, ∀ us : BitVec 21, (s.cell c.toNat).resident = some j → s.copy? j g = some k →
      write (.dpremWrite c us) (fun t => t.copy? j g = some { k with remaining := us.toNat } ∧ { t with jobs := s.jobs } = s)) ∧
    (∀ before r, before.fenced c.toNat = (s, some r) →
      (∀ off, exec (.dppostWrite c off) before = .next (s.raise c.toNat r)) ∧
      (∀ j, exec (.dpdispWrite c j) before = .next (s.raise c.toNat r)) ∧
      (∀ us, exec (.dpremWrite c us) before = .next (s.raise c.toNat r))) ∧
    (∀ p rest x k, s.posted = p :: rest → s.job? p.job = some x → x.mark = none → x.copy p.grove = some k →
      (x.copy (!p.grove) = none →
        ∃ t, exec .completionReceived s = .next t ∧ t.job? p.job = none ∧ t.posted = rest ∧ t.mem = s.mem ∧
          (t.part x.partition).nextReceipt = (s.part x.partition).nextReceipt + 1 ∧
          (x.silent = false → p.status.good = true → p.out ≠ [] → .hostWrite x.fn x.outPtr.toNat p.out ∈ t.out)) ∧
      (∀ o, x.copy (!p.grove) = some o → o.result = none →
        ∃ t, exec .completionReceived s = .next t ∧ t.posted = rest ∧ t.parts = s.parts ∧ t.mem = s.mem ∧
          t.copy? p.job p.grove = some { k with result := some {
            status := p.status, out := p.out, outLen := p.outLen, entryDigest := p.entryDigest, outDigest := p.outDigest
            epoch := p.epoch } }) ∧
      (∀ o r, x.copy (!p.grove) = some o → o.result = some r →
        ∃ t, exec .completionReceived s = .next t ∧ t.job? p.job = none ∧
          (t.part x.partition).nextReceipt = (s.part x.partition).nextReceipt + 1))

/-- R38, R143 to R146, 13 R357: when the boundary of a new window is next, its close ends every partition's tree and gives a checkpoint to bank 3; the oldest closed
root is signed when the attestation key is there, kept and posted; the attestation key is generated when its slot is empty and
partition 0 has an active master key. -/
def Obligations.WindowsCloseAndRootsPost : Prop :=
  ∀ s : State,
    (∀ n, n = (s.sched.tick + 1) % 2 ^ 48 → s.trunk.ready = true → s.sched.firstBoundary = false →
      s.sched.windowOpen < n / 10000 →
      ∃ t, exec .windowClose s = .next t ∧ t.sched.windowOpen = n / 10000 ∧
        (t.log.ckptQueue.getLast?).map (fun x => (x.kind, x.tick)) = some (1, n) ∧ t.mem = s.mem ∧
        (∀ p, (s.part p).count ≠ 0 → (t.part p).count = 0 ∧ (t.part p).frontier = [] ∧
          (t.part p).nextReceipt = (s.part p).nextReceipt ∧
          (t.part p).closing = (s.part p).closing ++ [{
            window := s.sched.windowOpen, closeNo := s.sched.closes, first := (s.part p).first, count := (s.part p).count
            close := false, signed := false, digest := frontierRoot (s.part p).frontier, tick := n, signature := [] }])) ∧
    (s.sched.windowOpen = (s.sched.tick + 1) % 2 ^ 48 / 10000 → exec .windowClose s = .next s) ∧
    (∀ (p : BitVec 6) r rest, (s.part p.toNat).closing = r :: rest → s.sched.windowOpen ≤ r.window + 4096 →
      ∃ t x, exec (.receiptRootPost p) s = .next t ∧ (t.part p.toNat).closing = rest ∧ x ∈ (t.part p.toNat).roots ∧
        x.window = r.window ∧ x.first = r.first ∧ x.count = r.count ∧ x.digest = r.digest ∧ x.signed = s.attestKey ∧
        t.mem = s.mem) ∧
    (∀ u r, (s.trunk.life = .operational ∨ s.trunk.life = .maintenance) → (s.activeMaster 0).isSome = true →
      (s.slot attestSlot).occupied = false → s.heart.serving = true → s.trunk.ready = true → s.trunkDraw 56 = some (u, r) →
      ∃ t, exec .attestKeyGenerate s = .next t ∧ (t.slot attestSlot).occupied = true ∧ (t.slot attestSlot).key = keyFrom 0x29 48 r ∧
        (t.slot attestSlot).alg = 0x29 ∧ (t.slot attestSlot).partition = 0 ∧ t.trunk.attestCert ≠ [] ∧ t.mem = s.mem)

/-! ## 04: the trunk command set -/

namespace Sys2Proof.Claims

/-- The request `q` passes what R103 checks before a row's own parameters: its function is served and the module awake, its
Length is good, the life-cycle state permits the row, no LOCKOUT and no life-cycle change stops it, it holds one of the row's
roles, in partition 0 where the row asks for that, and no byte outside the row's bytes is set. A row marked (c) has a cell. Nothing
ends the command while it executes (R111). -/
structure Admitted (s : State) (q : Req) (k : Cmd) : Prop where
  served : s.opened q.fn.toNat = true ∧ s.dormant = false
  length : 8 ≤ q.len ∧ q.len ≤ 256 ∧ (q.via.isMailbox = false → q.len = q.carried)
  life : s.trunk.life ∈ k.states ∧ s.trunk.change = none ∧ (s.lockout = false ∨ k.underLockout = true)
  role : (q.session = 0 ∧ Role.host ∈ k.roles ∧ (k.zero = true → q.fn = 0)) ∨
    (∃ x least, q.session ≠ 0 ∧ s.session? q.session.toNat = some x ∧ x.fn = q.fn.toNat ∧ x.isOpen = true ∧ least ∈ k.roles ∧
      (least = .host ∨ x.role = least ∨ (x.role = .officer ∧ least = .operator)) ∧ (k.zero = true → x.partition = 0))
  assigned : q.reserved k.bytes = false
  cell : k.cellJob = true → s.halted = false ∧ (s.trunk.life = .recovery ∨ s.trunk.dark = false ∧ s.internalJobs < 256)
  whole : k.ended q.io.during = none
  /-- The command does not stand behind an earlier one of its partition (R111), and is none that goes on after a wait. -/
  turn : s.trunk.resuming = none ∧ ∀ p, s.behind k.code p = false

/-- The answer of a command whose effect leaves `u`: the session has been used, and the response is written (R102, R108, 03 R70,
R94). What it writes is the statement `ResponsesReachTheirCarrier`. -/
def reply (u : State) (q : Req) (code : Nat) (st : Status) (results : Bytes) : Answer :=
  .next ((u.touchSession q).respond q code st results)

/-- As `reply`, for a command whose changes may first wait for the twin's partner: while they do, the answer waits with them (16 R416).
`s` is the state that the command found, `part` the partition that it concerns. -/
def replyWhenAcked (s u : State) (q : Req) (code part : Nat) (st : Status) (results : Bytes) : Answer :=
  .next (s.finish u q code part st results)

/-- A row of the catalogue: code, minimum roles, whether they are held in partition 0, states, message bytes. -/
def row (code : Nat) (roles : List Role) (zero : Bool) (states : List Life) (bytes : List (Nat × Nat)) : Cmd :=
  { code, roles, zero, states, cellJob := false, bytes }

/-- Every state of R338. -/
def allStates : List Life := [.factory, .transit, .blank, .operational, .maintenance, .recovery, .retired]
/-- Every state but TRANSIT and RETIRED. -/
def working : List Life := [.factory, .blank, .operational, .maintenance, .recovery]

/-- Every row that has a message, with its code. -/
def messages (q : Req) : List (Nat × Instr) := [
  (0x0101, .getInfo q), (0x0102, .getMreg q), (0x0103, .attest q), (0x0104, .getCert q), (0x0105, .readRoot q),
  (0x0201, .openSession q), (0x0202, .present q), (0x0203, .closeSession q), (0x0204, .enrol q), (0x0205, .revoke q),
  (0x0206, .setQuorum q), (0x0301, .createQueue q), (0x0302, .destroyQueue q), (0x0303, .setPartition q),
  (0x0304, .getPartition q), (0x0401, .setTick q), (0x0402, .drainCellsFinish q), (0x0402, .drainCellsEvict q),
  (0x0403, .restoreCells q), (0x0404, .setPowerCap q), (0x0405, .enterDormant q), (0x0406, .setOutputsRead q),
  (0x0406, .setOutputsLed2 q), (0x0406, .setOutputsFanMin q), (0x0406, .setOutputsLockRelease q),
  (0x0406, .setOutputsLockEngage q), (0x0501, .keyImport q), (0x0502, .keyGenerate q), (0x0503, .keyExport q),
  (0x0504, .keyDelete q), (0x0505, .keyInfo q), (0x0506, .masterKeyGenerate q), (0x0506, .masterKeyLoad q),
  (0x0506, .masterKeyActivate q), (0x0506, .masterKeyRetire q), (0x0507, .archiveBackup q), (0x0507, .archiveRestore q),
  (0x0601, .logRead q), (0x0602, .logStream q), (0x0603, .logClear q), (0x0604, .tamperClear q), (0x0605, .barkConfig q),
  (0x0606, .barkStatus q), (0x0607, .logSnapshotRead q), (0x0607, .logSnapshotSet q), (0x0607, .logSnapshotRestore q),
  (0x0608, .logExport q), (0x0701, .lcChange q), (0x0702, .fwUpdate q), (0x0703, .setRdp q), (0x0801, .twinPairPrimary q),
  (0x0801, .twinPairSecondary q), (0x0801, .twinUnpair q), (0x0802, .twinStatus q), (0x0803, .twinPromote q),
  (0x0A01, .setRfOff q), (0x0A01, .setRfReader q), (0x0A01, .setRfWatch q), (0x0A02, .mediaRelease q),
  (0x0A03, .mediaFormat q), (0x0A04, .mediaStatus q), (0x0B01, .seedTestNormal q), (0x0B01, .seedTestRaw q),
  (0x0B01, .seedTestPattern q), (0x0B02, .seedRawRead q)]

end Sys2Proof.Claims

/-- R103, R111, R112, 13 R341: before anything a row does, a Length outside 8 to 256 is answered MALFORMED_ENTRY; then, under LOCKOUT
all but ATTEST and LC_CHANGE, and during a life-cycle change every row, are answered STATE_REFUSED, and the answer is all that
happens. (One of a partition that an earlier command still changes waits first.) In DORMANT a request only wakes the module. -/
def Obligations.EveryRowChecksLengthAndStateFirst : Prop :=
  ∀ (s : State) (q : Req) (code : Nat) (i : Instr), (code, i) ∈ messages q → s.opened q.fn.toNat = true →
    (s.dormant = true → exec i s = .next { s with trunk := { s.trunk with waking := true } }) ∧
    (s.dormant = false → s.trunk.resuming = none → (∀ p, s.behind code p = false) → (q.len < 8 ∨ 256 < q.len) → exec i s = reply s q code .malformedEntry []) ∧
    (s.dormant = false → s.trunk.resuming = none → (∀ p, s.behind code p = false) → 8 ≤ q.len → q.len ≤ 256 → (q.via.isMailbox = false → q.len = q.carried) →
      (s.trunk.change.isSome = true ∨ (s.lockout = true ∧ code ≠ 0x0103 ∧ code ≠ 0x0701)) →
      exec i s = reply s q code .stateRefused [])

/-- R102, R108, 03 R70, R93, R94: a response is the code, the status, the length and, with a class 0x00 status alone, the results; a
mailbox is then DONE with the status in LASTST and SEQ one higher, or has DMAERR when its response cannot be written; an
administrative message gets a completion of 256 bytes without receipt. Of a function that has gone no response is written. The session named has been used now. -/
def Obligations.ResponsesReachTheirCarrier : Prop :=
  ∀ (u : State) (q : Req) (code : Nat) (st : Status) (results : Bytes), results.length ≤ 248 → q.io.during ≠ .gone →
    let f := q.fn.toNat
    let bytes := le 2 code ++ le 2 st.code ++ le 2 (if st.code < 256 then 8 + results.length else 8) ++ le 2 0 ++
      (if st.code < 256 then results else []) ++ List.replicate (if st.code < 256 then 248 - results.length else 248) 0
    ∃ t, reply u q code st results = .next t ∧
      (∀ x, q.session ≠ 0 → u.session? q.session.toNat = some x → x.fn = f →
        t.session? q.session.toNat = some { x with lastAt := u.clock.cd18 }) ∧
      t.mem = u.mem ∧ t.heart = u.heart ∧ t.trunk = u.trunk ∧ t.sched = u.sched ∧ t.jobs = u.jobs ∧
      (∀ m, q.via = .mailbox m →
        let x := (u.fn f).mailbox m.toNat
        (t.fn f).mailbox m.toNat = { x with
          state := .done, seq := x.seq + 1, lastSt := BitVec.ofNat 16 st.code, dmaErr := x.dmaErr || !q.io.responseOk } ∧
        (q.io.responseOk = true → .hostWrite f x.rsp.toNat bytes ∈ t.out) ∧
        (x.ie = false → q.io.responseOk = false → t.out = u.out)) ∧
      (∀ tag ptr, q.via = .admin tag ptr → .hostWrite f ptr.toNat bytes ∈ t.out ∧
        ((u.fn f).adm.active = true → (u.fn f).adm.waiting = [] →
          (u.fn f).adm.cq.room (u.fn f).adm.cqLog.toNat = false →
          (t.fn f).adm.waiting = [{ tag := tag.toNat, status := st, sq := 0, tick := u.nextTick, cell := 0xFF, slices := 0
                                    outLen := 256, epoch := u.trunk.epoch.toNat, receipt := 0 }]))

/-- 03 R70, R71, 04 R101, R115 to R117: the message that a mailbox holds runs the row of its code, and of its operation or mode byte
where several rows share a code; a code of no row is answered BAD_FUNCTION. -/
def Obligations.MessagesRunTheirRow : Prop :=
  ∀ (s : State) (fn : BitVec 6) (m : BitVec 3) (msg : Bytes) (io : Io), s.opened fn.toNat = true → s.dormant = false →
    m.toNat < mailboxes fn.toNat → ((s.fn fn.toNat).mailbox m.toNat).state = .busy →
    let q : Req := { fn, via := .mailbox m, len := field msg 2 2, carried := 256
                     session := BitVec.ofNat 32 (field msg 4 4), body := msg.drop 8, io }
    let code := field msg 0 2
    let op := q.b 8 1
    let run := exec (.mailboxRequestReadDone fn m (some msg) io) s
    (∀ i, (code, i) ∈ messages q → code ∉ [0x0402, 0x0406, 0x0506, 0x0507, 0x0607, 0x0801, 0x0A01, 0x0B01] → run = exec i s) ∧
    (code = 0x0402 → run = exec (if op = 1 then .drainCellsEvict q else .drainCellsFinish q) s) ∧
    (code = 0x0406 → run = exec (if op = 1 then .setOutputsLed2 q else if op = 2 then .setOutputsFanMin q
      else if op = 3 then .setOutputsLockRelease q else if op = 4 then .setOutputsLockEngage q else .setOutputsRead q) s) ∧
    (code = 0x0506 → run = exec (if op = 1 then .masterKeyLoad q else if op = 2 then .masterKeyActivate q
      else if op = 3 then .masterKeyRetire q else .masterKeyGenerate q) s) ∧
    (code = 0x0507 → run = exec (if op = 1 then .archiveRestore q else .archiveBackup q) s) ∧
    (code = 0x0607 → run = exec (if q.b 10 1 = 1 then .logSnapshotSet q else if q.b 10 1 = 2 then .logSnapshotRestore q
      else .logSnapshotRead q) s) ∧
    (code = 0x0801 → run = exec (if op = 1 then .twinPairSecondary q else if op = 2 then .twinUnpair q
      else .twinPairPrimary q) s) ∧
    (code = 0x0A01 → run = exec (if op = 1 then .setRfReader q else if op = 2 then .setRfWatch q else .setRfOff q) s) ∧
    (code = 0x0B01 → run = exec (if op = 1 then .seedTestRaw q else if op = 2 then .seedTestPattern q
      else .seedTestNormal q) s) ∧
    (8 ≤ q.len → q.len ≤ 256 → io.during ≠ .gone → (∀ i, (code, i) ∉ messages q) → ∃ t, run = .next t ∧
      ((t.fn fn.toNat).mailbox m.toNat).lastSt = 0x0203)

/-- R112, R113, 05 R146: GET_INFO, GET_MREG, GET_CERT, READ_ROOT and GET_PARTITION answer with what the state holds and change nothing
of the machine. -/
def Obligations.ReportsAnswerWhatTheStateHolds : Prop :=
  ∀ (s : State) (q : Req),
    (Admitted s q (row 0x0101 [.host] false allStates []) →
      exec (.getInfo q) s = reply s q 0x0101 .ok (le 8 Config.serial.toNat ++ le 4 s.image.fwver.toNat ++
        le 4 s.trunk.epoch.toNat ++ le 2 s.trunk.life.code ++ le 1 s.trunk.rdp.toNat ++ le 1 s.twin.role.code ++
        le 2 s.sched.period ++ le 2 s.active ++ le 2 s.parkedCount ++ le 2 (1024 - s.poolUsed false) ++
        le 2 (1024 - s.poolUsed true) ++ le 6 s.sched.tick)) ∧
    (Admitted s q (row 0x0102 [.host] false allStates [(8, 2)]) → 1 ≤ q.b 9 1 → q.b 9 1 ≤ 5 → q.b 8 1 + q.b 9 1 ≤ 8 →
      exec (.getMreg q) s = reply s q 0x0102 .ok ((s.trunk.mregs.drop (q.b 8 1)).take (q.b 9 1)).flatten) ∧
    (∀ c, c = (if q.b 8 1 = 0 then s.trunk.devidCert else if q.b 8 1 = 1 then s.trunk.attestCert else s.twin.set) →
      Admitted s q (row 0x0104 [.host] false allStates [(8, 1), (10, 2)]) → q.b 8 1 ≤ 2 → c ≠ [] → q.b 10 2 ≤ c.length →
      exec (.getCert q) s = reply s q 0x0104 .ok (le 2 c.length ++ le 2 (min 240 (c.length - q.b 10 2)) ++ le 4 0 ++
        (c.drop (q.b 10 2)).take 240)) ∧
    (∀ l r, l = (s.part (s.ownPart q)).roots.filter (fun x => decide (s.sched.windowOpen ≤ x.window + 4096) && x.window == q.b 8 8) →
      l[q.b 16 1]? = some r → Admitted s q (row 0x0105 [.host] false [.factory, .operational, .maintenance] [(8, 9)]) →
      exec (.readRoot q) s = reply s q 0x0105 .ok (padTo 168 (le 8 r.window ++ le 8 r.first ++ le 4 r.count ++
        le 8 Config.serial.toNat ++ le 1 (s.ownPart q) ++ le 1 (b2n r.close) ++ le 1 (b2n r.signed) ++ le 1 0 ++ padTo 32 r.digest ++
        le 6 r.tick ++ le 2 0 ++ padTo 96 r.signature) ++ le 1 l.length)) ∧
    (∀ p x, p = q.b 8 1 → x = s.part p → p ≤ 63 → (p = s.ownPart q ∨ q.fn = 0) →
      Admitted s q (row 0x0304 [.host] false allStates [(8, 1)]) →
      exec (.getPartition q) s = reply s q 0x0304 .ok (le 1 x.qA ++ le 1 x.qB ++
        le 2 (s.queues.filter (fun y => y.2.fn == p)).length ++ le 4 (s.slotsUsed p false) ++ le 4 (s.slotsUsed p true) ++
        le 8 x.nextReceipt ++ le 1 x.officers.length ++ le 1 x.mOfficer ++ le 1 x.auditors.length ++ le 1 x.mAuditor ++
        le 1 x.operators.length))

namespace Sys2Proof.Claims

/-- As `Admitted`, for the rows that concern the session that the request names, whether it assembles or is open (R106, R112). -/
structure ForSession (s : State) (q : Req) (k : Cmd) (x : Session) : Prop where
  served : s.opened q.fn.toNat = true ∧ s.dormant = false
  length : 8 ≤ q.len ∧ q.len ≤ 256 ∧ (q.via.isMailbox = false → q.len = q.carried)
  life : s.trunk.life ∈ k.states ∧ s.trunk.change = none ∧ s.lockout = false
  session : q.session ≠ 0 ∧ s.session? q.session.toNat = some x ∧ x.fn = q.fn.toNat
  assigned : q.reserved k.bytes = false
  cell : k.cellJob = true → s.halted = false ∧ (s.trunk.life = .recovery ∨ s.trunk.dark = false ∧ s.internalJobs < 256)
  whole : k.ended q.io.during = none
  turn : s.trunk.resuming = none ∧ ∀ p, s.behind k.code p = false

/-- The bytes of a PRESENT (R112). -/
def presentRow (bytes : List (Nat × Nat)) : Cmd :=
  { row 0x0202 [.host] false [.factory, .transit, .blank, .operational, .maintenance, .recovery] bytes with cellJob := true }

end Sys2Proof.Claims

/-- R106 to R108: OPEN_SESSION makes an assembling session under an unused handle of its partition and role, with a fresh challenge;
PRESENT lets an enrolled credential that verifies join, by an operator's signature or a custodian card, and the session opens
with its quorum; a credential that fails is answered CARD_REJECTED and the third failure closes an assembling session;
CLOSE_SESSION, once the session's commands have ended (R111), and both expiries end a session, with its pending master keys and a Seed
test mode it set. -/
def Obligations.SessionsOpenAssembleAndEnd : Prop :=
  ∀ (s : State) (q : Req),
    (∀ role u bs, roleOf (q.b 8 1) = some role → q.b 9 1 ≤ 63 → (s.part (q.b 9 1)).certs role ≠ [] →
      (q.b 9 1 = s.ownPart q ∨ q.fn = 0) → s.sessions.length < 64 → s.trunkDraw 51 = some (u, bs) →
      Admitted s q (row 0x0201 [.host] false [.factory, .transit, .blank, .operational, .maintenance, .recovery] [(8, 2)]) →
      ∃ h, exec (.openSession q) s = reply (u.setSession h {
          fn := q.fn.toNat, role, partition := q.b 9 1, isOpen := false, challenge := bs.drop 3, joined := [], failures := 0
          openedAt := s.clock.cd18, lastAt := s.clock.cd18 }) q 0x0201 .ok
          (le 4 h ++ le 1 (if role = .operator then 1 else (s.part (q.b 9 1)).quorum role) ++
            le 1 ((s.part (q.b 9 1)).certs role).length ++ le 2 0 ++ bs.drop 3) ∧
        h / 2 ^ 26 = q.b 9 1 ∧ h / 2 ^ 24 % 4 = role.code ∧ h % 2 ^ 24 ≠ 0 ∧ s.session? h = none) ∧
    (∀ x cert, q.b 8 1 = 0 → x.role = .operator → tblGet (s.part x.partition).operators (q.b 10 2) = some cert → cert ≠ [] →
      ForSession s q (presentRow [(8, 1), (10, 2), (16, 96)]) x → cert ∉ x.joined →
      (signedOver cert x.challenge q.session (q.str 16 96) = true →
        exec (.present q) s = reply ((s.setSession q.session.toNat { x with
            joined := x.joined ++ [cert], isOpen := true }).internAsk 0x0202) q 0x0202 .ok (le 1 (x.joined.length + 1) ++ le 1 1 ++ le 1 2)) ∧
      (signedOver cert x.challenge q.session (q.str 16 96) = false → x.isOpen = false →
        ∃ u : State, exec (.present q) s = reply u q 0x0202 .cardRejected [] ∧
          u.session? q.session.toNat = if 2 ≤ x.failures then none else some { x with failures := x.failures + 1 })) ∧
    (∀ x, (q.b 8 1 = 1 ∨ q.b 8 1 = 2) → x.role ≠ .operator → pinOk (q.str 112 16) = true →
      s.carrierReady (q.b 8 1 == 2) = true →
      (cardOn (q.b 8 1 == 2) q.io.card).outcome = .answered →
      (∃ c ∈ (s.part x.partition).certs x.role, c.2 = q.io.card.cert) → q.io.card.cert ∉ x.joined →
      signedOver q.io.card.cert x.challenge q.session q.io.card.signature = true →
      ForSession s q (presentRow [(8, 1), (112, 16)]) x →
      ∃ u : State, exec (.present q) s = reply (u.setSession q.session.toNat { x with
            joined := x.joined ++ [q.io.card.cert]
            isOpen := x.isOpen || decide ((s.part x.partition).quorum x.role ≤ x.joined.length + 1) }) q 0x0202 .ok
          (le 1 (x.joined.length + 1) ++ le 1 ((s.part x.partition).quorum x.role) ++
            le 1 (if x.isOpen = true ∨ (s.part x.partition).quorum x.role ≤ x.joined.length + 1 then 2 else 1)) ∧
        u.sessions = s.sessions ∧ u.parts = s.parts ∧ u.heart = s.heart ∧ u.mem = s.mem) ∧
    (∀ x, ForSession s q (row 0x0203 [.host] false allStates []) x →
      (∃ w ∈ s.inExecution, w.2.fn = q.fn ∧ w.2.session = q.session) →
      exec (.closeSession q) s = .next (s.hold q 0x0203 (s.ownPart q) .session)) ∧
    (∀ x, ForSession s q (row 0x0203 [.host] false allStates []) x →
      (∀ w ∈ s.inExecution, w.2.fn = q.fn → w.2.session ≠ q.session) →
      ∃ u : State, exec (.closeSession q) s = reply u q 0x0203 .ok [] ∧ u.session? q.session.toNat = none ∧
        (∀ h, h ≠ q.session.toNat → u.session? h = s.session? h) ∧
        (s.seed.session = some q.session → u.seed.mode = .normal) ∧
        (∀ p i, (s.master p i).session = q.session → (s.master p i).st = .pending → (u.master p i).st = .empty)) ∧
    (∀ (h : BitVec 32) x, s.session? h.toNat = some x →
      (∃ t, exec (.sessionIdleExpiry h) s = .next t ∧ t.session? h.toNat = none ∧
        (∀ k, k ≠ h.toNat → t.session? k = s.session? k)) ∧
      (x.isOpen = false → ∃ t, exec (.sessionAssemblyExpiry h) s = .next t ∧ t.session? h.toNat = none) ∧
      (x.isOpen = true → exec (.sessionAssemblyExpiry h) s = .next s))

/-- R109: ENROL puts a certificate into an empty place, with quorum 1 for the first of its role; the first officer of partition 0
needs no session; REVOKE takes one out while more than the quorum stay; SET_QUORUM sets M between 1 and the number enrolled.
A commit that is not read back good is answered COMMIT_UNKNOWN. -/
def Obligations.EnrolmentChangesAreCommitted : Prop :=
  ∀ (s : State) (q : Req) (role : Role) (p : Nat), roleOf (q.b 8 1) = some role → p = q.b 9 1 → p ≤ 63 →
    s.extensionsFull = false →
    let st : Status := if q.io.flashOk then .ok else .commitUnknown
    let states : List Life := [.factory, .blank, .operational, .maintenance]
    let certs (t : State) : Tbl Bytes := (t.part p).certs role
    let rest (t : State) : Prop := (∀ d, d ≠ p → t.part d = s.part d) ∧ t.mem = s.mem ∧ t.heart = s.heart ∧ t.jobs = s.jobs
    (∀ cert first zero, first = decide (role = .officer ∧ p = 0 ∧ (s.part 0).officers = [] ∧
        (s.trunk.life = .factory ∨ s.trunk.life = .blank)) →
      zero = decide (role = .officer ∧ (s.part p).officers = []) →
      Admitted s q (row 0x0204 (if first then [.host] else [.officer]) zero states [(8, 3), (12, 12)]) →
      (zero = false → p = s.ownPart q) → q.b 10 1 ≤ 15 → 1 ≤ q.b 12 4 → q.b 12 4 ≤ 4096 → q.io.object = some cert →
      tblGet (certs s) (q.b 10 1) = none →
      ∃ u : State, exec (.enrol q) s = reply u q 0x0204 st [] ∧ rest u ∧
        tblGet (certs u) (q.b 10 1) = some (padTo (q.b 12 4) cert) ∧
        (∀ i, i ≠ q.b 10 1 → tblGet (certs u) i = tblGet (certs s) i) ∧
        (u.part p).quorum role = (if certs s = [] then 1 else (s.part p).quorum role)) ∧
    (Admitted s q (row 0x0205 [.officer] false states [(8, 3)]) → p = s.ownPart q → tblGet (certs s) (q.b 10 1) ≠ none →
      (s.part p).quorum role < (certs s).length →
      ∃ u : State, exec (.revoke q) s = reply u q 0x0205 st [] ∧ rest u ∧ tblGet (certs u) (q.b 10 1) = none ∧
        (∀ i, i ≠ q.b 10 1 → tblGet (certs u) i = tblGet (certs s) i) ∧ (u.part p).quorum role = (s.part p).quorum role) ∧
    (Admitted s q (row 0x0206 [.officer] false states [(8, 3)]) → p = s.ownPart q → role ≠ .operator → 1 ≤ q.b 10 1 →
      q.b 10 1 ≤ (certs s).length →
      ∃ u : State, exec (.setQuorum q) s = reply u q 0x0206 st [] ∧ rest u ∧ certs u = certs s ∧
        (u.part p).quorum role = q.b 10 1)

/-- R81, R87, R112, R114: CREATE_QUEUE makes a queue of the asked kind under the lowest free number; DESTROY_QUEUE takes a completion
queue away, answers NOT_IDLE while a submission queue uses it, and destroys a submission queue with what it had not admitted;
SET_PARTITION sets both quotas. -/
def Obligations.QueuesAndPartitionsAreMade : Prop :=
  ∀ (s : State) (q : Req),
    let f := q.fn.toNat
    let states : List Life := [.factory, .operational, .maintenance]
    (∀ c n, c = decide (q.b 8 1 = 1) → q.b 8 1 ≤ 1 → (if c then 5 else 1) ≤ n → n < 1024 →
      s.queue? (queueKey f c n) = none → (∀ m, (if c then 5 else 1) ≤ m → m < n → s.queue? (queueKey f c m) ≠ none) →
      s.poolUsed c < 1024 → 1 ≤ q.b 9 1 → q.b 9 1 ≤ 16 → q.b 24 8 % 16 = 0 → q.b 16 8 % (if c then 32 else 64) = 0 →
      (c = true → q.b 14 1 ≤ 1 ∧ q.b 15 1 ≤ 63) →
      (c = false → (∃ y, s.queue? (queueKey f true (q.b 10 2)) = some y ∧ y.destroyed = false) ∧ 1 ≤ q.b 12 1 ∧
        q.b 12 1 ≤ max (s.part f).qA (s.part f).qB ∧ 1 ≤ q.b 13 1 ∧ q.b 13 1 ≤ 64 ∧ q.b 14 1 ≤ 7 ∧
        (4 ≤ q.b 14 1 → q.b 14 1 % 2 = 1)) →
      Admitted s q (row 0x0301 [.host] false states (if c then [(8, 2), (14, 18)] else [(8, 7), (16, 16)])) →
      ∃ x, exec (.createQueue q) s = reply (s.setQueue (queueKey f c n) x) q 0x0301 .ok (le 2 n) ∧ x.fn = f ∧
        x.completion = c ∧ x.num = n ∧ x.log = q.b 9 1 ∧ x.base.toNat = q.b 16 8 ∧ x.record.toNat = q.b 24 8 ∧ x.ring = {} ∧
        x.waiting = [] ∧ x.chain = [] ∧ x.destroyed = false ∧
        (c = true → x.ie = decide (q.b 14 1 = 1) ∧ x.vec.toNat = q.b 15 1) ∧
        (c = false → x.cq = q.b 10 2 ∧ x.quota = q.b 12 1 ∧ x.weight = q.b 13 1 ∧ x.dual = decide (q.b 14 1 % 2 = 1) ∧
          x.requeue = decide (q.b 14 1 / 2 % 2 = 1) ∧ x.degrade = decide (4 ≤ q.b 14 1))) ∧
    (∀ c x, c = decide (q.b 8 1 = 1) → q.b 8 1 ≤ 1 → s.queue? (queueKey f c (q.b 10 2)) = some x → x.destroyed = false →
      Admitted s q (row 0x0302 [.host] false states [(8, 1), (10, 2)]) →
      (c = true → (∀ k y, (k, y) ∈ s.queues → ¬(y.fn = f ∧ y.completion = false ∧ y.cq = q.b 10 2)) →
        exec (.destroyQueue q) s = reply (s.delQueue (queueKey f true (q.b 10 2))) q 0x0302 .ok []) ∧
      (c = true → (∃ k y, (k, y) ∈ s.queues ∧ y.fn = f ∧ y.completion = false ∧ y.cq = q.b 10 2) →
        exec (.destroyQueue q) s = reply s q 0x0302 .notIdle []) ∧
      (c = false → ∃ u : State, exec (.destroyQueue q) s = reply u q 0x0302 .ok [] ∧ u.mem = s.mem ∧
        (∀ y, u.queue? (queueKey f false (q.b 10 2)) = some y → y.destroyed = true) ∧
        (∀ j y, u.job? j = some y → y.fn = f → y.q = q.b 10 2 → y.admitted = true))) ∧
    (1 ≤ q.b 8 1 → q.b 8 1 ≤ 63 → q.b 9 1 ≤ 128 → q.b 10 1 ≤ 128 → s.extensionsFull = false →
      Admitted s q (row 0x0303 [.officer] true [.factory, .blank, .operational, .maintenance] [(8, 3)]) →
      ∃ u : State, exec (.setPartition q) s = reply u q 0x0303 (if q.io.flashOk then .ok else .commitUnknown) [] ∧
        u.part (q.b 8 1) = { s.part (q.b 8 1) with qA := q.b 9 1, qB := q.b 10 1 } ∧
        (∀ d, d ≠ q.b 8 1 → u.part d = s.part d) ∧ u.mem = s.mem ∧ u.heart = s.heart)

/-- 02 R39, R59, 06 R163, R164, R166, 04 R115, 18 R457: SET_TICK schedules its period for the next boundary that opens a multiple
of 10,000; DRAIN_CELLS schedules its drain 2 µs ahead and marks fenced and tested cells; RESTORE_CELLS starts the self-tests of
drained and failed cells, and powers a grove up first; SET_POWER_CAP sets the cap and the mode; ENTER_DORMANT answers, then
gates both groves and stops the tick, and is answered NOT_IDLE while work waits. -/
def Obligations.ScheduleAndPowerCommands : Prop :=
  ∀ (s : State) (q : Req),
    let states : List Life := [.factory, .operational, .maintenance]
    (∀ c, c = (s.nextTick + 9999) / 10000 * 10000 → 50 ≤ q.b 8 2 → q.b 8 2 ≤ 400 → q.b 8 2 % 10 = 0 →
      Admitted s q (row 0x0401 [.operator] true states [(8, 2)]) →
      exec (.setTick q) s = reply { s with sched := { s.sched with pend := some (q.b 8 2, c) } } q 0x0401 .ok (le 6 c)) ∧
    (∀ (evict : Bool) cells b, cells = maskCells (q.str 16 32) → b = s.tickAt (s.clock.cd18 + 50) →
      q.b 8 1 = (if evict then 1 else 0) → 8 ≤ s.leftBy cells →
      Admitted s q (row 0x0402 [.operator] true states [(8, 1), (16, 32)]) →
      ∃ (u : State) (n : Nat), exec (if evict then .drainCellsEvict q else .drainCellsFinish q) s = reply u q 0x0402 .ok (le 6 b ++ le 2 n) ∧
        u.sched = { s.sched with drains := s.sched.drains ++ [(b, evict, cells)] } ∧ u.jobs = s.jobs ∧ u.mem = s.mem ∧
        n = (cells.filter (fun c => !s.goingDrained c && (s.cell c).st != .failed)).length ∧
        (∀ c, u.cell c = if c ∈ cells ∧ ((s.cell c).st = .fenced ∨ (s.cell c).st = .selftest)
          then { s.cell c with markedDrained := true } else s.cell c)) ∧
    (∀ cells, cells = (maskCells (q.str 16 32)).filter (fun c => (s.cell c).st == .drained || (s.cell c).st == .failed) →
      cells ≠ [] → Admitted s q (row 0x0403 [.operator] true states [(16, 32)]) →
      ((∀ c ∈ cells, s.groveServes (groveOf c) = true) →
        ∃ u : State, exec (.restoreCells q) s = reply u q 0x0403 .ok (le 6 (s.tickAt (s.clock.cd18 + 1000))) ∧ u.mem = s.mem ∧
          (∀ c ∈ cells, (u.cell c).st = .selftest ∧ (u.cell c).testByRestore = true ∧ (u.cell c).markedDrained = false) ∧
          (∀ c, c ∉ cells → u.cell c = s.cell c)) ∧
      (∀ g, (∀ c ∈ cells, groveOf c = g) → s.groveServes g = false → (s.grove g).rising = none → s.seedAlive = true →
        ∃ t, exec (.restoreCells q) s = .next t ∧ (t.grove g).powered = true ∧
          (t.grove g).rising = some (cells.map (fun c => (c, s.clock.cd18))) ∧
          t.out = s.out ∧ t.trunk.restores.length = s.trunk.restores.length + 1)) ∧
    ((q.b 8 1 = 0 ∨ (10 ≤ q.b 8 1 ∧ q.b 8 1 ≤ 30)) → Admitted s q (row 0x0404 [.operator] true states [(8, 1)]) →
      exec (.setPowerCap q) s = reply { s with
        sched := { s.sched with cap := q.b 8 1 }
        trunk := { s.trunk with power := if q.b 8 1 = 0 then .full else .capped } } q 0x0404 .ok []) ∧
    (Admitted s q (row 0x0405 [.operator] true [.factory, .blank, .operational, .maintenance] []) →
      (s.busyBeside q = true → exec (.enterDormant q) s = reply s q 0x0405 .notIdle []) ∧
      (s.busyBeside q = false → ∃ t, exec (.enterDormant q) s = .next t ∧ t.dormant = true ∧ t.sched.running = false ∧
        t.groveA.powered = false ∧ t.groveB.powered = false ∧ t.seed.source = false ∧ t.seed.gen = {} ∧
        (∀ c, c < 256 → ∀ a, a < 2 ^ 48 → memGet t.mem (cellBase c + a) = 0) ∧
        (∀ m, q.via = .mailbox m → ((t.fn q.fn.toNat).mailbox m.toNat).state = .done ∧
          ((t.fn q.fn.toNat).mailbox m.toNat).lastSt = 0)))

/-- 19 R475, R476, 10 R277 to R280: SET_OUTPUTS answers with what the outputs are, the seconds left rounded down or up, and sets LED2, the fan minimum and LOCK, whose release ends at its expiry; SEED_TEST
enters and leaves the test modes; SEED_RAW_READ answers 1,920 raw bits, which are free (log entry 3), in RAW alone. -/
def Obligations.OutputsAndSeedTestCommands : Prop :=
  ∀ (s : State) (q : Req),
    let outputs (op : Nat) (bytes : List (Nat × Nat)) (k : Instr) (t : State) : Prop :=
      q.b 8 1 = op → Admitted s q (row 0x0406 (if op = 3 then [.officer] else [.operator]) true working bytes) →
      ∃ u r, exec k s = reply u q 0x0406 .ok r ∧ { u with free := s.free } = t ∧ r.length = 8 ∧
        r.take 3 = le 1 t.elec.led2 ++ le 1 t.elec.fanMin ++ le 1 (b2n t.elec.lockUntil.isSome)
    (∀ left, left = (s.elec.lockUntil.map (fun t => t - s.clock.cd18)).getD 0 → q.b 8 1 = 0 →
      Admitted s q (row 0x0406 [.host] false allStates [(8, 1)]) →
      ∃ u n, exec (.setOutputsRead q) s = reply u q 0x0406 .ok (le 1 s.elec.led2 ++ le 1 s.elec.fanMin ++
        le 1 (b2n s.elec.lockUntil.isSome) ++ le 1 0 ++ le 4 n) ∧ { u with free := s.free } = s ∧
        left / second ≤ n ∧ n ≤ left / second + 1) ∧
    (q.b 9 1 ≤ 2 → outputs 1 [(8, 2)] (.setOutputsLed2 q) { s with elec := { s.elec with led2 := q.b 9 1 } }) ∧
    (30 ≤ q.b 9 1 → q.b 9 1 ≤ 100 →
      outputs 2 [(8, 2)] (.setOutputsFanMin q) { s with elec := { s.elec with fanMin := q.b 9 1 } }) ∧
    (1 ≤ q.b 10 2 → q.b 10 2 ≤ 600 → outputs 3 [(8, 1), (10, 2)] (.setOutputsLockRelease q)
      { s with elec := { s.elec with lockUntil := some (s.clock.cd18 + q.b 10 2 * 25000000) } }) ∧
    (outputs 4 [(8, 1)] (.setOutputsLockEngage q) { s with elec := { s.elec with lockUntil := none } }) ∧
    (exec .lockReleaseExpiry s = .next { s with elec := { s.elec with lockUntil := none } }) ∧
    (q.b 8 1 = 0 → Admitted s q (row 0x0B01 [.officer] true allStates [(8, 1)]) →
      ∃ u : State, exec (.seedTestNormal q) s = reply u q 0x0B01 .ok [] ∧ u.seed.mode = .normal ∧ u.mem = s.mem ∧ u.heart = s.heart ∧
        (s.seed.mode ≠ .normal → u.seed.session = none ∧ u.seed.gen = {} ∧ u.seed.starting = true)) ∧
    (q.b 8 1 = 1 → s.image.seedcfg.getLsbD 0 = true → s.extensionsFull = false →
      Admitted s q (row 0x0B01 [.officer] true allStates [(8, 1)]) →
      ∃ u : State, exec (.seedTestRaw q) s = reply u q 0x0B01 .ok [] ∧ u.seed.mode = .raw ∧ u.seed.session = some q.session ∧
        u.seed.gen = {} ∧ u.groveA.gen = {} ∧ u.groveB.gen = {} ∧ u.mem = s.mem ∧ u.heart = s.heart ∧
        (∀ c, (s.cell c).seed.state = .waiting → (u.cell c).seed.state = .failed ∧ (u.cell c).seed.code = 0x0704)) ∧
    (q.b 8 1 = 2 → s.image.seedcfg.getLsbD 1 = true → s.extensionsFull = false →
      Admitted s q (row 0x0B01 [.officer] true [.factory] [(8, 1), (16, 32)]) →
      ∃ u : State, exec (.seedTestPattern q) s = reply u q 0x0B01 .ok [] ∧ u.seed.mode = .pattern ∧
        u.seed.session = some q.session ∧ u.seed.patternSeed = q.str 16 32 ∧ u.seed.blocks = 0 ∧ u.seed.nextGen = 0 ∧ u.seed.gen = {} ∧
        u.groveA.gen = {} ∧ u.groveB.gen = {} ∧ u.mem = s.mem ∧ u.heart = s.heart) ∧
    (Admitted s q (row 0x0B02 [.officer] true allStates []) →
      (s.seed.mode = .raw → s.seed.session = some q.session →
        ∃ r, exec (.seedRawRead q) s = reply { s with free := s.free + 1 } q 0x0B02 .ok (le 2 1920 ++ le 6 0 ++ r) ∧
          r.length = 240) ∧
      (s.seed.mode ≠ .raw → exec (.seedRawRead q) s = reply s q 0x0B02 .randomUnavailable []))

/-- R235, R236, R241 to R247, R250, 16 R415: KEY_GENERATE and KEY_IMPORT put a key of the caller's partition into an empty slot with
the next generation of the slot and a ceiling of one block, persistent when its commit is read back good, and COMMIT_UNKNOWN when it is not;
KEY_EXPORT writes a key block that its key's exportability and the wrapping key allow; KEY_DELETE empties the slot, keeps its
generation and drops its contexts; KEY_INFO reports a key, or a master key, and changes nothing. In a twin session the answer of a key change waits for the partner (R416). -/
def Obligations.KeysAreMadeExportedAndDeleted : Prop :=
  ∀ (s : State) (q : Req),
    let p := s.ownPart q
    let states : List Life := [.factory, .operational, .maintenance]
    let st : Status := if q.io.flashOk then .ok else .commitUnknown
    let placed (u : State) (n alg : Nat) (key : Bytes) (limit : Nat) (fixed : Bytes) : Prop :=
      (u.slot n).occupied = true ∧ (u.slot n).isExt = false ∧ (u.slot n).key = key ∧ (u.slot n).alg = alg ∧
        (u.slot n).partition = p ∧ (u.slot n).gen = (s.slot n).highest + 1 ∧ (u.slot n).tk48 = decide (limit ≠ 0) ∧
        (u.slot n).limit = limit ∧ (u.slot n).persistent = q.io.flashOk ∧ (u.slot n).ceiling = (u.slot n).block ∧
        (u.slot n).fixed = BitVec.ofNat 32 (num fixed) ∧ u.mem = s.mem ∧ u.jobs = s.jobs
    (∀ n u key v f, let alg := q.b 8 2
      let len := keyLen alg ((generatedLen alg (q.b 17 1)).getD 32)
      let pair := isSym alg && decide (32 < len)
      let pub := if isPriv alg then publicLen alg else 0
      (isSym alg = true ∨ isPriv alg = true) → usageOk (q.b 10 2) = true → limitOk (q.b 16 1) (q.b 24 8) = true →
      (generatedLen alg (q.b 17 1)).isSome = true → s.mayInstall p = none → s.seed.mode ≠ .raw → pub ≤ q.b 48 4 →
      s.target (q.b 12 4) (isPriv alg) pair = .ok n → s.newKey alg len = .ok (u, key) →
      (if isPriv alg then some (u, []) else u.trunkDraw 4) = some (v, f) →
      Admitted s q { row 0x0502 [.operator] false states [(8, 10), (24, 14), (40, 12)] with cellJob := true } →
      ∃ t : State, exec (.keyGenerate q) s =
          replyWhenAcked s t q 0x0502 p st (le 4 (mkHandle p n (t.slot n).gen).toNat ++ le 4 pub) ∧
        placed t n alg key (q.b 24 8) f ∧ (t.slot n).usage.toNat = q.b 10 2 ∧ (t.slot n).expiry = q.b 32 6 ∧
        (pub ≠ 0 → .hostWrite q.fn.toNat (q.b 40 8) (publicOf alg key) ∈ t.out)) ∧
    (∀ n w block wk x (fixed : Option Bytes) v f, w = BitVec.ofNat 32 (q.b 8 4) → handlePart w = p →
      limitOk (q.b 28 1) (q.b 32 8) = true → 1 ≤ q.b 24 4 → q.b 24 4 ≤ 8192 → q.io.object = some block →
      s.mayInstall p = none → s.wrapKey w [1, 3] = .ok wk → unwrap wk (padTo (q.b 24 4) block) = .ok (x, fixed) →
      s.target (q.b 12 4) (isPriv x.alg) (!isPriv x.alg && decide (32 < x.key.length)) = .ok n →
      (if isPriv x.alg then some (s, []) else match fixed with
        | some f => some (s, f)
        | none => s.trunkDraw 4) = some (v, f) →
      Admitted s q { row 0x0501 [.operator] false states [(8, 8), (16, 13), (32, 8)] with cellJob := true } →
      ∃ t : State, exec (.keyImport q) s = replyWhenAcked s t q 0x0501 p st (le 4 (mkHandle p n (t.slot n).gen).toNat) ∧
        placed t n x.alg x.key (q.b 32 8) f ∧ (t.slot n).usage = x.usage ∧ (t.slot n).forms = x.forms ∧
        .hostRead q.fn.toNat (q.b 16 8) (q.b 24 4) ∈ t.out) ∧
    (∀ h w n wk block, h = BitVec.ofNat 32 (q.b 8 4) → w = BitVec.ofNat 32 (q.b 12 4) → handlePart h = p → handlePart w = p →
      s.findNamed h = .ok (.slot n) → s.wrapKey w [0, 1, 4] = .ok wk → mayExport (s.slot n) wk = true →
      block = wrapBlock (s.slot n).keyBlock wk.alg wk.key (s.freeBytes 16) → block.length ≤ q.b 24 4 →
      Admitted s q (row 0x0503 [.operator] false [.operational, .maintenance] [(8, 20)]) →
      exec (.keyExport q) s = reply { s with free := s.free + 1, out := .hostWrite q.fn.toNat (q.b 16 8) block :: s.out } q 0x0503
        .ok (le 4 block.length)) ∧
    (∀ h n, h = BitVec.ofNat 32 (q.b 8 4) → handlePart h = p → s.keyReadOnly = false → s.findNamed h = .ok (.slot n) →
      Admitted s q (row 0x0504 [.operator] false states [(8, 4)]) →
      ∃ t : State, exec (.keyDelete q) s = replyWhenAcked s t q 0x0504 p st [] ∧ (t.slot n).occupied = false ∧
        (t.slot n).key = [] ∧ (t.slot n).gen = (s.slot n).gen ∧
        ((s.slot n).extended = true → (t.slot (n + 1)).occupied = false) ∧
        (∀ g, ∀ x ∈ (t.grove g).window, x.handle ≠ h) ∧ t.mem = s.mem ∧ t.jobs = s.jobs) ∧
    (∀ h, h = BitVec.ofNat 32 (q.b 8 4) → handlePart h = p →
      Admitted s q (row 0x0505 [.host] false [.operational, .maintenance] [(8, 4)]) →
      (∀ n x, s.findNamed h = .ok (.slot n) → x = s.slot n →
        exec (.keyInfo q) s = reply s q 0x0505 .ok (le 2 x.alg ++ le 2 x.usage.toNat ++ le 1 (b2n x.tk48) ++
          le 1 (b2n x.persistent + 2 * b2n x.unreplicated) ++ le 2 0 ++ le 8 (s.infoCounter n) ++ le 6 x.expiry)) ∧
      (∀ i, s.findNamed h = .ok (.master i) →
        exec (.keyInfo q) s = reply s q 0x0505 .ok (le 2 0x50 ++ le 2 0x0105 ++ le 1 0 ++ le 1 1)) ∧
      (∀ e, s.findNamed h = .error e → e ≠ .randomUnavailable → exec (.keyInfo q) s = reply s q 0x0505 e []))

/-- R254, R258 to R261, 17 R442: MASTER_KEY generates a key on an empty slot, pending until a share is on every officer's card, loads it
from shares, makes a loaded slot active, which leaves the records under the previous key to be re-wrapped, and empties one that nothing
depends on; REWRAP_BATCH re-wraps 256 records and after the last frees the previous master key. -/
def Obligations.MasterKeyCeremonies : Prop :=
  ∀ (s : State) (q : Req),
    let p := s.ownPart q
    let i := q.b 9 1
    let m := s.master p i
    let st : Status := if q.io.flashOk = true ∧ s.heart.erasing = false then .ok else .commitUnknown
    (Admitted s q (row 0x0506 [.officer] false [.factory, .blank, .operational, .maintenance] [(8, 2)]) → i ≤ 7 →
      s.keyReadOnly = false → s.heart.serving = true →
      (s.heart.bbkr.image = [] → (s.trunkDraw (48 + 32 * max 1 (s.part p).mOfficer)).isSome = true) →
      (∀ v bs, q.b 8 1 = 0 → m.st = .empty → m.gen < 511 → s.carrierReady (!s.iccPresent) = true →
        (cardOn (!s.iccPresent) q.io.card).outcome = .answered → s.custodian p q.io.card = true →
        s.trunkDraw (32 * max 1 (s.part p).mOfficer) = some (v, bs) → (v.trunkDraw 56).isSome = true →
        ∃ t : State, exec (.masterKeyGenerate q) s = replyWhenAcked s t q 0x0506 p
            (if (s.part p).officers.length ≤ 1 then st else .ok) (le 1 1) ∧
          (t.master p i).key = bs.take 32 ∧ (t.master p i).gen = m.gen + 1 ∧ t.mem = s.mem ∧
          (∃ key, .cardCommand 0x36 (sealShare key (shareRecord p i (s.part p).officers.length 1 (m.gen + 1) (bs.take 32)
            (bs.drop 32))) ∈ t.out) ∧
          ((s.part p).officers.length ≤ 1 → (t.master p i).st = .loaded) ∧
          (1 < (s.part p).officers.length → (t.master p i).st = .pending ∧ (t.master p i).written = 1 ∧
            (t.master p i).session = q.session ∧ (t.master p i).poly = bs.drop 32)) ∧
      (∀ r, q.b 8 1 = 1 → m.st = .empty → m.gen < 511 → m.session ≠ q.session → s.carrierReady (!s.iccPresent) = true →
        (cardOn (!s.iccPresent) q.io.card).outcome = .answered → s.custodian p q.io.card = true →
        (s.trunkDraw 56).isSome = true →
        r = padTo 64 q.io.card.share → field r 0 1 = 1 → field r 1 1 = p → field r 2 1 = i →
        (1 < field r 3 1 → ∃ t : State, exec (.masterKeyLoad q) s = reply t q 0x0506 .ok (le 1 1) ∧
          (t.master p i).st = .empty ∧ (t.master p i).session = q.session ∧
          (t.master p i).shares = [(field r 5 1, piece r 20 32 ++ piece r 16 4)] ∧ t.mem = s.mem) ∧
        (field r 3 1 ≤ 1 → checkValue (piece r 20 32) = piece r 16 4 →
          ∃ t : State, exec (.masterKeyLoad q) s = replyWhenAcked s t q 0x0506 p st (le 1 1) ∧
            (t.master p i).st = .loaded ∧ (t.master p i).key = piece r 20 32 ∧
            (t.master p i).gen = max (m.gen + 1) (field r 6 2 % 512) ∧ t.mem = s.mem) ∧
        (field r 3 1 ≤ 1 → checkValue (piece r 20 32) ≠ piece r 16 4 →
          ∃ t : State, exec (.masterKeyLoad q) s = reply t q 0x0506 .cardRejected [] ∧ (t.master p i).st = .empty ∧
            (t.master p i).shares = [] ∧ t.mem = s.mem)) ∧
      (q.b 8 1 = 2 → m.st = .loaded → ∃ t : State, exec (.masterKeyActivate q) s = replyWhenAcked s t q 0x0506 p st (le 1 0) ∧
        (t.master p i).st = .active ∧ (t.master p i).key = m.key ∧ t.mem = s.mem ∧
        (∀ k, s.activeMaster p = some k → (t.master p k).st = .loaded ∧ (t.master p k).key = (s.master p k).key ∧
          (t.master p k).depends = decide (s.records p ≠ []) ∧
          (s.records p ≠ [] → tblGet t.heart.rewrap p = some (s.records p)))) ∧
      (q.b 8 1 = 3 → m.st = .loaded →
        (m.depends = true → exec (.masterKeyRetire q) s = reply s q 0x0506 .notIdle []) ∧
        (m.depends = false → ∃ t : State, exec (.masterKeyRetire q) s = replyWhenAcked s t q 0x0506 p st (le 1 0) ∧
          t.master p i = { gen := m.gen } ∧ t.mem = s.mem))) ∧
    (∀ (d : BitVec 6) todo, tblGet s.heart.rewrap d.toNat = some todo → s.heart.serving = true →
      (256 < todo.length → ∃ t, exec (.rewrapBatch d) s = .next t ∧
        tblGet t.heart.rewrap d.toNat = some (todo.drop 256) ∧ t.mem = s.mem ∧ t.jobs = s.jobs) ∧
      (todo.length ≤ 256 → ∃ t, exec (.rewrapBatch d) s = .next t ∧ tblGet t.heart.rewrap d.toNat = none ∧
        (∀ k, k < 8 → (t.master d.toNat k).depends = false) ∧ t.mem = s.mem ∧ t.jobs = s.jobs))

namespace Sys2Proof.Claims

/-- An object of kind `kind` with this payload was written to the SD card from `s` (17 R430, R431): its segments moved the write position
and the sequence, the header takes both and goes to blocks 0 and 1. -/
def Stored (s u : State) (kind partition : Nat) (payload : Bytes) : Prop :=
  let w : Writing := { kind, partition, object := [], payload }
  u.sd.writeBlock = s.sd.writeBlock + ((List.range w.segments).map w.blocks).sum ∧
    u.sd.writeSeq = s.sd.writeSeq + w.segments ∧ u.sd.nextBlock = u.sd.writeBlock ∧ u.sd.lastSeq = u.sd.writeSeq - 1 ∧
    u.sd.volume = s.sd.volume ∧ .sdWrite 0 u.sd.header ∈ u.out ∧ .sdWrite 1 u.sd.header ∈ u.out ∧ u.mem = s.mem ∧
    u.heart = s.heart ∧ u.log = s.log

/-- What a command that writes such an object needs: a ready card with a header and room, an identifier, no removal and no failed
transfer (17 R425, R430, R435). -/
def CanStore (s : State) (q : Req) (kind partition : Nat) (payload : Bytes) : Prop :=
  let w : Writing := { kind, partition, object := [], payload }
  s.sd.st = .ready ∧ s.sd.readOnly = false ∧ s.sd.volume ≠ none ∧ (s.trunkDraw 16).isSome = true ∧ q.io.sd = .done ∧
    s.sd.writeBlock + ((List.range w.segments).map w.blocks).sum ≤ s.sd.capacity

end Sys2Proof.Claims

/-- R262, 15 R402, R432, 17 R430 to R437, 13 R349, R350, R346: what goes to and comes from flash and the SD card: ARCHIVE writes one
object and restores a record into an empty slot of a lower generation, its use resumed at its ceiling and the next ceiling committed, draw-locked
when it encrypts; LOG_EXPORT
writes one object of the held records; MEDIA_FORMAT writes a fresh header; FW_UPDATE writes a verified operational image as PENDING into
the bank that does not run and a verified recovery image into its area, and refuses another; SET_RDP raises the level, and at level 2 the TAP is held in reset (R345). -/
def Obligations.ArchivesMediaAndFirmware : Prop :=
  ∀ (s : State) (q : Req),
    let archive := row 0x0507 [.officer] false [.blank, .operational, .maintenance] [(8, 2)]
    let p := q.b 9 1
    (∀ i payload, q.b 8 1 = 0 → p ≤ 63 → p = s.ownPart q → s.activeMaster p = some i → payload = s.archiveBytes p i →
      CanStore s q 1 p payload → Admitted s q archive →
      ∃ u : State, exec (.archiveBackup q) s = reply u q 0x0507 .ok
          (le 8 ({ kind := 1, partition := p, object := [], payload } : Writing).segments) ∧ Stored s u 1 p payload) ∧
    (∀ bs i segs plain n x c, q.b 8 1 = 1 → p ≤ 63 → p = s.ownPart q → s.mayInstall p = none →
      s.sd.st = .ready → s.sd.volume ≠ none → q.io.sd = .done → q.io.object = some bs → segmentsOf 1 bs = some segs →
      s.activeMaster p = some i → archivePlain (s.master p i).key p segs = some plain → field plain 0 1 = p →
      piece plain 34 4 = checkValue (s.master p i).key →
      archiveItems (s.master p i).key s.sched.tick (plain.length / 13) (plain.drop 38) = [.slot n x, .ceiling n c] →
      n < 0x12000 → n ≠ attestSlot → (isSym x.alg = true ∨ isPriv x.alg = true) → (s.slot n).free = true →
      (s.slot n).highest < x.gen → x.partition = p →
      (isSym x.alg = true → 32 < x.key.length → (s.slot (n + 1)).free = true) → Admitted s q archive →
      ∃ t : State, exec (.archiveRestore q) s =
          replyWhenAcked s t q 0x0507 p (if q.io.flashOk then .ok else .commitUnknown) (le 8 segs.length) ∧
        (t.slot n).occupied = true ∧ (t.slot n).key = x.key ∧ (t.slot n).alg = x.alg ∧ (t.slot n).gen = x.gen ∧
        (t.slot n).counter = c ∧ c ≤ (t.slot n).ceiling ∧
        (q.io.flashOk = true → x.tk48 = false → (t.slot n).ceiling = c + (t.slot n).block) ∧ (t.slot n).persistent = q.io.flashOk ∧
        (t.slot n).drawLocked = (x.drawLocked || x.encrypts) ∧ t.mem = s.mem) ∧
    (∀ recs payload, recs = s.log.exported (q.b 8 4) (q.b 12 4) → recs ≠ [] → 1 ≤ q.b 12 4 → q.b 12 4 ≤ 131072 →
      payload = recs.flatMap (fun r => r.bytes false) → CanStore s q 2 0xFF payload →
      Admitted s q (row 0x0608 [.operator, .auditor] true allStates [(8, 8)]) →
      ∃ u : State, exec (.logExport q) s = reply u q 0x0608 .ok (le 4 ((recs.head?.map (fun r => r.seq)).getD 0) ++
          le 4 ((recs.getLast?.map (fun r => r.seq)).getD 0) ++ le 4 recs.length ++ le 8 s.sd.writeSeq) ∧
        Stored s u 2 0xFF payload) ∧
    (∀ u id, q.b 8 1 = 0 → s.sd.st = .ready → s.sd.readOnly = false → s.trunkDraw 16 = some (u, id) → q.io.sd = .done →
      Admitted s q (row 0x0A03 [.operator] true working [(8, 1)]) →
      ∃ t : State, exec (.mediaFormat q) s = reply t q 0x0A03 .ok id ∧ t.sd.volume = some id ∧ t.sd.nextBlock = 2048 ∧
        t.sd.lastSeq = 0 ∧ t.sd.writeBlock = 2048 ∧ t.sd.writeSeq = 1 ∧ t.sd.journal = s.sd.journal ∧ t.mem = s.mem ∧
        .sdWrite 0 t.sd.header ∈ t.out ∧ .sdWrite 1 t.sd.header ∈ t.out) ∧
    (∀ img, q.b 8 1 = 0 → q.b 24 4 = img.length → 1 ≤ img.length → img.length ≤ 2 ^ 26 → q.io.object = some img →
      Admitted s q (row 0x0702 [.officer] true [.operational, .maintenance, .recovery] [(8, 1), (16, 12)]) →
      let st : Status := if s.imageOk img = false then .blockInvalid else if q.io.flashOk = false then .commitUnknown else .ok
      (field img 4 1 = 1 → ∃ t : State, ∃ b : Bool,
        exec (.fwUpdate q) s = reply t q 0x0702 st (if st = .ok then le 4 (field img 8 4) ++ le 1 (b2n b) else []) ∧
        b = decide (s.trunk.life = .recovery ∨ s.trunk.imageA.boot = .active) ∧
        (if b then t.trunk.imageB else t.trunk.imageA).boot = (if st = .ok then .pending else .inactive) ∧
        (if b then t.trunk.imageB else t.trunk.imageA).secver = field img 12 4 ∧
        (if b then t.trunk.imageB else t.trunk.imageA).good = s.imageOk img ∧
        (if b then t.trunk.imageB else t.trunk.imageA).stored = some img ∧
        (if b then t.trunk.imageA = s.trunk.imageA else t.trunk.imageB = s.trunk.imageB) ∧
        t.trunk.recovery = s.trunk.recovery ∧ t.trunk.minSecver = s.trunk.minSecver ∧ t.mem = s.mem) ∧
      (field img 4 1 = 2 → s.flash.xip = false → s.trunk.life ≠ .recovery → ∃ t : State,
        exec (.fwUpdate q) s = reply t q 0x0702 st (if st = .ok then le 4 (field img 8 4) ++ le 1 0 else []) ∧
        (if s.imageOk img = false then t.trunk.recovery = s.trunk.recovery
          else t.trunk.recovery.good = true ∧ t.trunk.recovery.stored = some img ∧ t.trunk.recovery.secver = field img 12 4) ∧
        t.trunk.imageA = s.trunk.imageA ∧ t.trunk.imageB = s.trunk.imageB ∧ t.trunk.minSecver = s.trunk.minSecver ∧
        t.mem = s.mem)) ∧
    (1 ≤ q.b 8 1 → q.b 8 1 ≤ 2 → s.trunk.rdp.toNat ≤ q.b 8 1 →
      Admitted s q (row 0x0703 [.officer] true [.factory, .operational, .maintenance] [(8, 1)]) →
      exec (.setRdp q) s = reply { s with trunk := { s.trunk with
          rdp := BitVec.ofNat 2 (q.b 8 1), tap := if q.b 8 1 = 2 then .idcode else s.trunk.tap } } q 0x0703 .ok [])

/-! ## 14, 15: the ring log and the bark -/

namespace Sys2Proof.Claims

/-- Bank 3 has nothing to do, and its sectors serve as they are: none is replaced, torn, half erased or out of use, and the permanent area
is full. -/
structure LogAtRest (s : State) : Prop where
  idle : (s.bank 3).ops = [] ∧ (s.bank 3).erasing = none
  sectors : (s.bank 3).toReplace = [] ∧ (s.bank 3).replaced = [] ∧ (s.bank 3).unfinished = []
  slots : s.log.spoilt = [] ∧ s.log.pos < 132096 ∧ (∀ p ∈ s.log.held, p.1 < 136192) ∧ 4096 < s.log.nextSeq
  waits : s.log.waiting = [] ∧ s.log.ckptQueue = [] ∧ s.log.lost = 0

end Sys2Proof.Claims

/-- R395, R399, R400, R401, R402, R382, R397, R393, R394: a held or open record is read, in its turn at bank 3; a stream starts with its first number and count, and ends one that runs; it adds an entry for
each held record it reads, skips one it cannot, waits for one that is not held yet, and ends after the last; a clear leaves only
permanent records and its own, and its sectors are erased one at a time; a record's selectors are set and restored, in the configuration store too; an open record is committed
when its second is over; each code with suppressed records has one summary. -/
def Obligations.RingLogIsStreamedClearedAndTimed : Prop :=
  ∀ s : State,
    (∀ (q : Req) (u : State), u = s.endStream → Admitted s q (row 0x0602 [.operator, .auditor] true allStates [(8, 8)]) →
      1 ≤ q.b 12 4 → q.b 12 4 ≤ 131072 →
      exec (.logStream q) s = reply { u with log := { u.log with
        stream := some {
          next := q.b 8 4, stop := (s.log.ordered.getLast?.map (fun r => r.seq)).getD 0, left := q.b 12 4
          first := 0, last := 0, sent := 0, skipped := 0 } } } q 0x0602 .ok [] ∧
        u.log = { s.log with stream := none } ∧ u.mem = s.mem ∧ u.heart = s.heart) ∧
    (∀ x, s.log.stream = some x → ((s.fn 0).service 2).waiting.length < 32 → s.dormant = false →
      (x.pick s.log.flash = none → x.pick s.log.waiting ≠ none → ∀ ok, exec (.logStreamEntry ok) s = .next s) ∧
      (x.pick s.log.flash = none → x.pick s.log.waiting = none → ∀ ok, ∃ t, exec (.logStreamEntry ok) s = .next t ∧
        t.log = { s.log with stream := none } ∧ t.mem = s.mem) ∧
      (∀ r, x.pick s.log.flash = some r → r ∈ s.log.flash ∧ x.left ≠ 0 ∧ before r.seq x.next = false ∧
        before x.stop r.seq = false ∧
        (∃ t, exec (.logStreamEntry true) s = .next t ∧ t.mem = s.mem ∧ t.log = { s.log with
          stream := some { x with
            next := nextNumber r.seq, left := x.left - 1, first := if x.sent = 0 then r.seq else x.first, last := r.seq
            sent := x.sent + 1 } }) ∧
        (exec (.logStreamEntry false) s = .next { s with log := { s.log with
          stream := some { x with next := nextNumber r.seq, left := x.left - 1, skipped := x.skipped + 1 } } }))) ∧
    (∀ q : Req, Admitted s q (row 0x0603 [.auditor] true [.operational, .maintenance, .recovery] []) →
      ∃ (t : State) (n : Nat),
        exec (.logClear q) s = reply t q 0x0603 (if q.io.flashOk then .ok else .commitUnknown) (le 4 n) ∧
        t.log.lastClear = n ∧ t.log.clearing = true ∧ t.mem = s.mem ∧ t.heart = s.heart ∧
        (LogAtRest s → s.log.opened = none → n = s.log.nextSeq ∧ t.log.opened = none ∧ t.log.waiting = [] ∧
          (∃ p ∈ t.log.held, p.2.code = 0x0903 ∧ p.2.seq = n) ∧
          (∀ p ∈ t.log.held, p.1 < 4096 ∨ (p.2.code = 0x0903 ∧ p.2.seq = n)))) ∧
    (s.log.toErase = [] → exec .logClearErase s = .next { s with log := { s.log with clearing := false } }) ∧
    (∀ n l, s.log.toErase = n :: l →
      ((∃ p r, .erase p r ∈ (s.bank 3).ops) → exec .logClearErase s = .next s) ∧
      ((∀ p r, .erase p r ∉ (s.bank 3).ops) → ∃ t, exec .logClearErase s = .next t ∧
        (t.bank 3).ops = (s.bank 3).ops ++ [.erase ((s.bank 3).phys n) false] ∧ t.log.waiting = s.log.waiting ∧
        t.mem = s.mem ∧ t.heart = s.heart)) ∧
    (∀ (q : Req) r o, s.log.named (q.b 8 4) = some (r, o) → Admitted s q (row 0x0601 [.operator, .auditor] true allStates [(8, 4)]) →
      ((o = true ∨ (s.bank 3).ops = []) → (o = true ∨ q.io.flashOk = true) →
        exec (.logRead q) s = reply s q 0x0601 .ok (le 4 (((s.log.after r.seq).map (fun x => x.seq)).getD 0) ++ le 4 0 ++
          r.bytes o)) ∧
      (o = false → (s.bank 3).ops = [] → q.io.flashOk = false → exec (.logRead q) s = reply s q 0x0601 .uncorrectable []) ∧
      (o = false → (s.bank 3).ops ≠ [] → exec (.logRead q) s = .next (s.hold q 0x0601 0 .flash))) ∧
    (∀ q : Req, q.b 10 1 = 0 → Admitted s q (row 0x0607 [.host] false allStates [(8, 3)]) →
      exec (.logSnapshotRead q) s = reply s q 0x0607 .ok (le 8 0 ++
        padTo 8 ((s.selectors (q.b 8 2)).map (fun x => BitVec.ofNat 8 x)))) ∧
    (∀ (q : Req) (w : List Nat), w = ((List.range 8).map (fun i => q.b (16 + i) 1)).takeWhile (· ≠ 0) → q.b 10 1 = 1 →
      (∀ x ∈ w, x ≤ 14) → (∀ i, w.length ≤ i → i < 8 → q.b (16 + i) 1 = 0) →
      (w = [1, 2, 3, 10] ∨ (tblGet s.log.selectors (q.b 8 2)).isSome = true ∨ s.log.selectors.length < 64) →
      Admitted s q (row 0x0607 [.officer] true working [(8, 3), (16, 8)]) →
      ∃ t : State, exec (.logSnapshotSet q) s = reply t q 0x0607 (if q.io.flashOk then .ok else .commitUnknown)
          (le 8 0 ++ padTo 8 (w.map (BitVec.ofNat 8))) ∧
        t.selectors (q.b 8 2) = w ∧ (∀ k, k ≠ q.b 8 2 → t.selectors k = s.selectors k) ∧
        (q.io.flashOk = true → tblGet t.stored.selectors (q.b 8 2) = (if w = [1, 2, 3, 10] then none else some w) ∧
          { t with log := s.log, flash := s.flash } = s) ∧
        (q.io.flashOk = false → q.io.flashKept = false → t.flash.store = s.flash.store) ∧ t.heart = s.heart ∧ t.mem = s.mem) ∧
    (∀ q : Req, q.b 10 1 = 2 → Admitted s q (row 0x0607 [.officer] true working [(8, 3)]) →
      ∃ t : State, exec (.logSnapshotRestore q) s = reply t q 0x0607 (if q.io.flashOk then .ok else .commitUnknown)
          (le 8 0 ++ padTo 8 [1, 2, 3, 10]) ∧
        t.log.selectors = tblDel s.log.selectors (q.b 8 2) ∧
        (q.io.flashOk = true → tblGet t.stored.selectors (q.b 8 2) = none ∧
          { t with log := { t.log with selectors := s.log.selectors }, flash := s.flash } = s) ∧
        (q.io.flashOk = false → q.io.flashKept = false → t.flash.store = s.flash.store) ∧ t.heart = s.heart ∧ t.mem = s.mem) ∧
    (∀ o, s.log.opened = some o → ∃ t, exec .openRecordTimeout s = .next t ∧ t.log.opened = none ∧
      t.log.waiting = s.log.waiting ++ [o] ∧ t.log.nextSeq = s.log.nextSeq ∧ t.mem = s.mem) ∧
    (∃ t, exec .logSecondRollover s = .next t ∧ t.log.second = s.opSeconds ∧ t.mem = s.mem ∧
      ((∀ p ∈ s.log.seconds, p.2.2 = 0) → t = { s with log := { s.log with seconds := [], second := s.opSeconds } }) ∧
      (∀ code w n, s.log.seconds = [(code, w, n)] → n ≠ 0 → s.trunk.shutdown = false → s.log.reopened = true →
        s.dormant = false → s.normalService = false → s.log.waiting.length < 255 →
        (t.log.waiting.getLast?).map (fun r => (r.seq, r.code, r.payload)) =
          some (s.log.nextSeq, 0x0901, le 2 code ++ le 4 n)))

/-- R361 to R364, R366 to R371, 04 R116: an armed source's alarm, where its condition is met, sets its bits with the effects of its class in force, a disarmed
one is counted, on the backup cell only the sources of R373 occur; the source's return is noted; TAMPER_CLEAR clears and arms again what
is asked and not recent; BARK_CONFIG sets mode and classes; BARK_STATUS reports the registers; a loop's new detector takes over; an invalid sequencer state erases
the BBKR; the always-on domain's power-on reset restarts its registers. -/
def Obligations.BarkAlarmsClearsAndConfigures : Prop :=
  ∀ s : State,
    (∀ a : Alarm, a.source < 28 → s.bark.enabled a.source = true → s.meets a = true →
      s.trunk.powerGood = true ∨ (a.source ≤ 14 ∨ a.source = 18 ∨ a.source = 19 ∨ a.source = 26) →
      let i := a.source
      let c := (s.bark.inForce i s.bark.column).code
      (s.bark.tarm.getLsbD i = true →
        ∃ t, exec (.barkAlarmGroup [a]) s = .next t ∧ t.bark.tstky.getLsbD i = true ∧ t.bark.tact.getLsbD i = true ∧
          t.bark.tarm.getLsbD i = false ∧ (1 ≤ c → t.bark.tntf.getLsbD i = true) ∧ (2 ≤ c → t.bark.thalt.getLsbD i = true) ∧
          (3 ≤ c → t.heart.serving = false ∧ t.heart.bbkr = {} ∧ t.sessions = [] ∧ t.elec.lockUntil = none) ∧
          (4 ≤ c → t.bark.lko = true) ∧ (c ≤ 2 → t.heart = s.heart ∧ t.sessions = s.sessions) ∧
          (∀ k, k ≠ i → t.bark.tstky.getLsbD k = s.bark.tstky.getLsbD k)) ∧
      (s.bark.tarm.getLsbD i = false →
        let n := (tblGet s.bark.tcount i).getD 0
        exec (.barkAlarmGroup [a]) s = .next { s with bark := { s.bark with
          tact := setBit s.bark.tact i, tcount := tblSet s.bark.tcount i (if n = 0xFFFF then n else n + 1) } })) ∧
    (∀ a : Alarm, s.meets a = false → exec (.barkAlarmGroup [a]) s = .next s) ∧
    (∀ a : Alarm, s.trunk.powerGood = false → ¬(a.source ≤ 14 ∨ a.source = 18 ∨ a.source = 19 ∨ a.source = 26) →
      exec (.barkAlarmGroup [a]) s = .next s) ∧
    (∀ i : BitVec 5, s.bark.tact.getLsbD i.toNat = true →
      ∃ t, exec (.barkSourceInactive i) s = .next t ∧ t.bark.tact.getLsbD i.toNat = false ∧
        tblGet t.bark.inactiveAt i.toNat = some s.clock.cd18 ∧
        { t with bark := { t.bark with tact := s.bark.tact, inactiveAt := s.bark.inactiveAt } } = s) ∧
    (∀ q : Req, Admitted s q (row 0x0604 [.officer] true working [(8, 4)]) →
      ∃ (t : State) (c r : Nat),
        exec (.tamperClear q) s = reply t q 0x0604 (if 256 ≤ s.log.waiting.length then .commitUnknown else .ok)
          (le 4 c ++ le 4 r) ∧
        (∀ i, c.testBit i = (decide (i < 28) && (q.b 8 4).testBit i && !s.recent i)) ∧
        (∀ i, r.testBit i = (decide (i < 28) && (q.b 8 4).testBit i && s.recent i)) ∧
        (∀ i, i < 32 → t.bark.tstky.getLsbD i = (s.bark.tstky.getLsbD i && !c.testBit i) ∧
          t.bark.thalt.getLsbD i = (s.bark.thalt.getLsbD i && !c.testBit i) ∧
          t.bark.tntf.getLsbD i = (s.bark.tntf.getLsbD i && !c.testBit i) ∧
          (c.testBit i = true → s.bark.enabled i = true → t.bark.tarm.getLsbD i = true)) ∧
        t.heart = s.heart ∧ t.mem = s.mem) ∧
    (∀ (q : Req) (cs : List Cls), let src := q.b 8 1
      let mode := q.b 9 1
      (List.range 4).map (fun i => Cls.ofCode (q.b (12 + i) 1)) = cs.map some → src ≤ 27 →
      (mode = 0 ∨ (src < 8 ∧ mode ≤ 2) ∨ (src < 12 ∧ mode ≤ 1)) →
      (∀ f, (sourceRow src).fixed = some f → ∀ x ∈ cs, x = f) →
      ¬(src < 12 ∧ mode = 0 ∧ s.bark.mode src ≠ 0 ∧ s.trunk.life ≠ .factory ∧ s.trunk.life ≠ .blank) →
      Admitted s q (row 0x0605 [.officer] true working [(8, 2), (12, 4)]) →
      ∃ t : State, exec (.barkConfig q) s = reply t q 0x0605 (if q.io.flashOk then .ok else .commitUnknown)
          (le 4 0 ++ [Life.blank, .operational, .maintenance, .recovery].map
            (fun l => BitVec.ofNat 8 (t.bark.inForce src l).code)) ∧
        t.bark.mode src = mode ∧ (∀ i, i < 4 → cs[i]? = some (t.bark.configured src (2 + i))) ∧
        (q.io.flashOk = true → tblGet t.stored.bark src = some (mode, cs) ∧ { t with bark := s.bark, flash := s.flash } = s) ∧
        (q.io.flashOk = false → q.io.flashKept = false → t.flash.store = s.flash.store) ∧ t.bark.tstky = s.bark.tstky ∧
        (src < 12 → mode = 0 → (tblGet t.bark.moving src).getD 0 = 0 → t.bark.tact.getLsbD src = false) ∧ t.heart = s.heart ∧
        t.mem = s.mem) ∧
    (∀ q : Req, Admitted s q (row 0x0606 [.host] false allStates []) →
      exec (.barkStatus q) s = reply s q 0x0606 .ok (le 4 s.bark.tstky.toNat ++ le 4 s.bark.thalt.toNat ++
        le 4 s.bark.tntf.toNat ++ le 4 s.bark.tarm.toNat ++ le 4 s.bark.tact.toNat ++ le 1 (b2n s.lockout) ++
        le 1 s.bark.alcs.toNat ++ le 2 0 ++ le 4 s.bsec ++ le 4 s.bark.lmode ++
        (List.range 32).flatMap (fun i => le 4 ((tblGet s.bark.tstamp i).getD 0).toNat) ++
        (List.range 32).flatMap (fun i => le 2 ((tblGet s.bark.tcount i).getD 0).toNat))) ∧
    (∀ l : BitVec 4, l.toNat < 8 → (tblGet s.bark.moving l.toNat).isSome = true →
      (∃ t, exec (.loopModeTransitionEnd l false) s = .next t ∧ tblGet t.bark.moving l.toNat = none ∧
        t.bark.tarm.getLsbD l.toNat = (decide (s.bark.mode l.toNat ≠ 0) && !s.bark.tstky.getLsbD l.toNat) ∧
        t.bark.tstky = s.bark.tstky ∧ { t with bark := s.bark, free := s.free } = s) ∧
      (s.bark.enabled l.toNat = true → s.bark.tarm.getLsbD l.toNat = true →
        ∃ t, exec (.loopModeTransitionEnd l true) s = .next t ∧ t.bark.tstky.getLsbD l.toNat = true ∧
          t.bark.tarm.getLsbD l.toNat = false ∧ tblGet t.bark.moving l.toNat = none)) ∧
    (∃ t, exec .sequencerInvalidState s = .next t ∧ t.heart.bbkr = {} ∧ t.bark.tstky.getLsbD 22 = true) ∧
    (s.trunk.powerGood = false →
      ∃ t, exec .aonPor s = .next t ∧ t.bark.tstky = 0x08000000 ∧ t.bark.lko = false ∧ t.bark.tarm = 0x07FFF000 ∧
        t.bsec = 0 ∧ t.heart.bbkr = {} ∧ t.rf.contentLost = true ∧ t.flash = s.flash ∧
        t.heart.journal = s.heart.journal ∧ t.log = s.log ∧ t.mem = s.mem)

/-! ## 13: the life cycle -/

/-- R340, R341, 04 R111: LC_CHANGE answers OK and begins the change when the transition's condition holds and no active source forbids
it, once no other command is in execution, and STATE_REFUSED otherwise; under LOCKOUT the change into RETIRED is left to the PF. After
200 ms what has not ended is stopped; the internal reset, which waits for the jobs, writes the three copies of the new code, enters the target and makes what
it makes of keys and enrolments; one cut off before the second copy leaves the old state (R342, R360). ATTEST answers with the signed
quote of R358. -/
def Obligations.LifeCycleChanges : Prop :=
  ∀ s : State,
    (∀ (q : Req) (d : Life), Life.ofCode (q.b 8 2) = some d → q.b 10 2 = s.trunk.life.code →
      let k (a : Role) : Cmd := { row 0x0701 [a] true allStates [(8, 4)] with underLockout := decide (d = .retired) }
      ((∃ a, authority s.trunk.life d = some a ∧ s.lockout = false ∧ Admitted s q (k a)) ∨
        (d = .retired ∧ s.trunk.life ≠ .retired ∧ s.lockout = true ∧ Admitted s q (k .host))) →
      (s.condition q d = true → s.sourceForbids d = false →
        (s.inExecution = [] →
          ∃ t, exec (.lcChange q) s = .next t ∧ t.trunk.change = some { target := d, timedOut := false, cut := q.io.cut } ∧
            t.trunk.life = s.trunk.life ∧ (t.log.ckptQueue.getLast?).map (fun x => (x.kind, x.tick)) = some (3, s.sched.tick) ∧
            (∃ o, t.out = o ++ ((s.touchSession q).respond q 0x0701 .ok []).out)) ∧
        (s.inExecution ≠ [] →
          exec (.lcChange q) s = .next { s.touchSession q with trunk := { s.trunk with
            change := some { target := d, timedOut := false, waits := some q } } })) ∧
      ((s.condition q d = false ∨ s.sourceForbids d = true) →
        exec (.lcChange q) s = reply s q 0x0701 .stateRefused [])) ∧
    (∀ c, s.trunk.change = some c →
      (c.waits = none → ∃ t, exec .lcChangeJobTimeout s = .next t ∧
        t.trunk.change = some { c with timedOut := true } ∧ t.trunk.life = s.trunk.life ∧ t.heart = s.heart) ∧
      (c.waits ≠ none → exec .lcChangeJobTimeout s = .next s) ∧
      ((s.jobs ≠ [] ∨ s.posted ≠ [] ∨ c.waits ≠ none) → exec .lcInternalReset s = .next s)) ∧
    (∀ c cut, cut = c.cut → s.trunk.change = some c → c.waits = none → s.jobs = [] → s.posted = [] →
      (cut.during = .gone → ∃ t, exec .lcInternalReset s = .next t ∧ t.trunk.life = s.trunk.life ∧
        (∀ x ∈ t.trunk.lifeCopies.take (min cut.copies 3), x.code.toNat = c.target.code) ∧
        t.trunk.lifeCopies.drop cut.copies = s.trunk.lifeCopies.drop cut.copies ∧
        (zeroises c.target = true → t.heart.bbkr = {} ∧ t.heart.serving = false)) ∧
      (cut.during = .lockout → cut.copies < 2 → ∃ t, exec .lcInternalReset s = .next t ∧ t.trunk.life = s.trunk.life ∧
        t.trunk.change = none ∧ (zeroises c.target = true → t.heart.bbkr = {})) ∧
      ((cut.during = .zeroize ∨ (cut.during = .lockout ∧ 2 ≤ cut.copies)) → ∃ t, exec .lcInternalReset s = .next t ∧
        t.trunk.life = c.target ∧ t.trunk.change = none ∧ t.trunk.ready = false)) ∧
    (∀ c cut, cut = c.cut → s.trunk.change = some c → c.waits = none → s.jobs = [] → s.posted = [] → cut.during = .none →
      ∃ t, exec .lcInternalReset s = .next t ∧ (∀ x ∈ t.trunk.lifeCopies.take 3, x.code.toNat = c.target.code ∧ x.mac = some x.code) ∧
        t.trunk.life = c.target ∧ t.trunk.change = none ∧ t.trunk.ready = false ∧
        t.trunk.bootCode = 0 ∧ t.bark.alcs.toNat = c.target.code ∧ t.mem = [] ∧ t.cells = [] ∧ t.sessions = [] ∧
        t.queues = [] ∧ t.log.waiting = [] ∧ t.trunk.numVfs = s.trunk.numVfs ∧
        (∀ n, (t.slot n).occupied = false ∧ (t.slot n).key = []) ∧ (∀ p i, t.master p i = { gen := (s.master p i).gen }) ∧
        (zeroises c.target = true → t.heart.bbkr = {} ∧ t.trunk.attestCert = []) ∧
        (zeroises c.target = false → t.heart.bbkr.root = s.heart.bbkr.root ∧ t.heart.bbkr.image = s.heart.bbkr.image) ∧
        (removesEnrolments c.target = true → ∀ p, (t.part p).officers = [] ∧ (t.part p).operators = [] ∧
          (t.part p).auditors = []) ∧
        (c.target = .retired → t.lockout = false) ∧ (c.target ≠ .retired → t.lockout = s.lockout) ∧
        (c.target = .factory → t.trunk.rework = s.trunk.rework + 1 ∧ t.trunk.rdp = 0) ∧
        (c.target ≠ .factory → t.trunk.rework = s.trunk.rework ∧ s.trunk.rdp ≤ t.trunk.rdp)) ∧
    (∀ q : Req, Admitted s q { row 0x0103 [.host] false allStates [(8, 32)] with underLockout := true } →
      ∃ r, exec (.attest q) s = reply s q 0x0103 .ok r ∧ r.length = 248 ∧
        piece r 56 32 = q.str 8 32 ∧ field r 4 8 = Config.serial.toNat ∧ field r 14 2 = s.trunk.life.code ∧
        field r 32 4 = s.trunk.epoch.toNat ∧ field r 36 4 = s.image.fwver.toNat ∧ field r 40 6 = s.sched.tick % 2 ^ 48 ∧
        field r 48 4 = s.bark.tstky.toNat ∧ piece r 88 48 = sha384 s.trunk.mregs.flatten ∧
        r.drop 152 = p384SignWith (devidKey s.trunk.rework) (r.take 152)
          (nonceOf p384 2 (num (devidKey s.trunk.rework)) (p384.hashNum (sha384 (r.take 152))) []))

/-! ## 16, 17: twin, antenna and media commands -/

/-- R409, R410, R423, 17 R444, R437: TWIN_PAIR stores a set that names this module and its partner and gives the role; operation 2
makes the module SOLO, in a session once the ceilings that it sends are acknowledged; TWIN_PROMOTE makes a split secondary of 601 s a split primary of the next epoch. SET_RF gives the antenna
its mode and MEDIA_RELEASE powers a slot down. TWIN_STATUS and MEDIA_STATUS report. -/
def Obligations.TwinAntennaAndMediaCommands : Prop :=
  ∀ (s : State) (q : Req),
    let st : Status := if q.io.flashOk then .ok else .commitUnknown
    let pair := row 0x0801 [.officer] true [.blank, .operational, .maintenance] [(8, 1), (16, 12)]
    let rf := row 0x0A01 [.operator] true working [(8, 1)]
    let release := row 0x0A02 [.operator] true allStates [(8, 1)]
    (∀ set, q.io.object = some set → q.b 24 4 = set.length → 1 ≤ set.length → set.length ≤ 16384 → s.twin.role = .solo →
      s.extensionsFull = false → Admitted s q pair →
      (q.b 8 1 = 0 → s.setOk set 0 = true → ∃ t : State, exec (.twinPairPrimary q) s = reply t q 0x0801 st [] ∧
        t.twin.role = .primary ∧ t.twin.epoch = 1 ∧ t.twin.identity = false ∧ t.twin.set = set ∧
        t.twin.domain = piece (statement set) 4 16 ∧
        t.twin.partner.toNat = field (statement set) 76 8 ∧ t.twin.partnerDigest = piece (statement set) 84 48 ∧
        t.mem = s.mem ∧ t.jobs = s.jobs) ∧
      (q.b 8 1 = 1 → s.holdsKeys = false → s.setOk set 1 = true →
        ∃ t : State, exec (.twinPairSecondary q) s = reply t q 0x0801 st [] ∧ t.twin.role = .secondary ∧ t.twin.epoch = 0 ∧
          t.twin.identity = true ∧ t.twin.set = set ∧ t.twin.domain = piece (statement set) 4 16 ∧ t.twin.partner.toNat = field (statement set) 20 8 ∧
          t.twin.partnerDigest = piece (statement set) 28 48 ∧ t.mem = s.mem ∧ t.jobs = s.jobs) ∧
      (q.b 8 1 = 1 → s.holdsKeys = true → ∃ t : State, exec (.twinPairSecondary q) s = reply t q 0x0801 .stateRefused [] ∧
        t.twin = s.twin) ∧
      (q.b 8 1 = 0 → s.setOk set 0 = false → ∃ t : State, exec (.twinPairPrimary q) s = reply t q 0x0801 .badParameter [] ∧
        t.twin = s.twin)) ∧
    (q.b 8 1 = 2 → s.twin.role ≠ .solo → s.twin.unpairing = none → s.extensionsFull = false →
      Admitted s q pair →
      let waits : Prop := s.twin.step = .session ∧ (s.nativeSlots ≠ [] ∨ ∃ u ∈ s.twin.unacked, u.grant = false)
      (¬waits → ∃ t : State, exec (.twinUnpair q) s = reply t q 0x0801 st [] ∧ t.twin.role = .solo ∧ t.twin.set = [] ∧
        t.twin.identity = s.twin.identity ∧ t.twin.step ≠ .session ∧ (∀ n, (t.slot n).unreplicated = false) ∧
        (∀ n, (t.slot n).key = (s.slot n).key) ∧ t.mem = s.mem ∧ t.jobs = s.jobs) ∧
      (waits → ∃ t : State, exec (.twinUnpair q) s = .next t ∧ t.twin.unpairing = some q ∧ t.twin.role = s.twin.role ∧
        t.twin.sent = s.twin.sent + s.nativeSlots.length ∧ t.heart = s.heart ∧ t.mem = s.mem ∧ t.jobs = s.jobs)) ∧
    (Admitted s q (row 0x0803 [.officer] true [.operational, .maintenance] [(8, 4)]) →
      ((s.twin.role ≠ .splitSecondary ∨ s.since s.twin.lossAt < 601 * 25000000) →
        exec (.twinPromote q) s = reply s q 0x0803 .stateRefused []) ∧
      (s.twin.role = .splitSecondary → 601 * 25000000 ≤ s.since s.twin.lossAt → q.b 8 4 = s.twin.epoch.toNat →
        ∃ t : State, exec (.twinPromote q) s = reply t q 0x0803 st (le 4 (s.twin.epoch + 1).toNat) ∧
          t.twin.role = .splitPrimary ∧ t.twin.epoch = s.twin.epoch + 1 ∧ t.twin.promoted = true ∧ t.mem = s.mem ∧
          t.heart = s.heart)) ∧
    (Admitted s q (row 0x0802 [.host] false allStates []) →
      exec (.twinStatus q) s = reply s q 0x0802 .ok (le 1 s.twin.role.code ++ le 1 (b2n (s.twin.step == .session)) ++
        le 4 s.twin.epoch.toNat ++ le 4 s.twin.unreplicated.length ++ le 6 s.twin.hbTick)) ∧
    (Admitted s q (row 0x0A04 [.host] false allStates []) →
      exec (.mediaStatus q) s = reply s q 0x0A04 .ok (le 1 s.sd.st.code ++ le 1 s.sd.busMode ++ le 1 s.icc.st.code ++
        le 1 s.icc.cls ++ le 4 0 ++ padTo 16 (s.sd.volume.getD []) ++
        (if s.sd.volume.isSome then le 8 s.sd.nextBlock ++ le 8 s.sd.lastSeq ++ le 8 s.sd.capacity else le 8 0 ++ le 8 0 ++ le 8 0) ++
        le 1 s.sd.journal.length)) ∧
    (Admitted s q rf →
      (q.b 8 1 = 0 → exec (.setRfOff q) s =
        reply { s with rf := { s.rf with mode := .off, cardHeld := false, field := .none } } q 0x0A01 .ok []) ∧
      (q.b 8 1 = 1 → s.rf.frame = false → exec (.setRfReader q) s =
        reply { s with rf := { s.rf with mode := .reader, cardHeld := false, field := .none } } q 0x0A01 .ok []) ∧
      (q.b 8 1 = 2 → s.rf.frame = false → exec (.setRfWatch q) s =
        reply { s with rf := { s.rf with
          mode := .watch, cardHeld := false, field := if s.rf.external then .none else .tenth
          baselineTaken := s.rf.baselineTaken + 1 } } q 0x0A01 .ok []) ∧
      (s.rf.frame = true → (q.b 8 1 = 1 → exec (.setRfReader q) s = reply s q 0x0A01 .tagBusy []) ∧
        (q.b 8 1 = 2 → exec (.setRfWatch q) s = reply s q 0x0A01 .tagBusy []))) ∧
    (Admitted s q release →
      (q.b 8 1 = 0 → s.sd.st ≠ .absent → s.sd.st ≠ .released →
        ∃ t : State, exec (.mediaRelease q) s = reply t q 0x0A02 .ok [] ∧
          t.sd = { st := .released, journal := s.sd.journal } ∧ t.icc = s.icc ∧ t.mem = s.mem) ∧
      (q.b 8 1 = 1 → s.icc.st ≠ .absent → s.icc.st ≠ .released →
        ∃ t : State, exec (.mediaRelease q) s = reply t q 0x0A02 .ok [] ∧ t.icc = { st := .released } ∧ t.sd = s.sd ∧
          t.mem = s.mem) ∧
      (q.b 8 1 = 0 → (s.sd.st = .absent ∨ s.sd.st = .released) → exec (.mediaRelease q) s = reply s q 0x0A02 .noMedia []) ∧
      (q.b 8 1 = 1 → (s.icc.st = .absent ∨ s.icc.st = .released) → exec (.mediaRelease q) s = reply s q 0x0A02 .noMedia []))

/-! ## 16: the twin link -/

namespace Sys2Proof.Claims

/-- A frame other than HEARTBEAT is of a session or an attempt in force and its counter is new (R407, R412, R414). -/
def Heard (s : State) (session : BitVec 32) (counter : Nat) : Prop :=
  session = s.twin.session ∧ (s.twin.step = .auth ∨ s.twin.step = .role ∨ s.twin.step = .session) ∧
    ((s.twin.fresh = true ∧ counter = 1) ∨ s.twin.seen < counter)

/-- The newest frame sent is of a kind, in the session of `s`, with a payload, sealed under the keys of `s` (R407). -/
def Sent (s t : State) (kind : Nat) (payload : Bytes) : Prop :=
  ∃ n o, t.out = .twinFrame kind s.twin.session.toNat n (s.twin.sealed kind n payload) :: o

/-- A session may be attempted as far as this module decides it (R411). -/
def MayPair (s : State) : Prop :=
  s.twin.role ≠ .solo ∧ (s.trunk.life = .blank ∨ s.trunk.life = .operational ∨ s.trunk.life = .maintenance) ∧
    s.lockout = false ∧ s.seed.fail = false ∧ s.trunk.ready = true ∧ s.twin.step ≠ .session

end Sys2Proof.Claims

/-- R407, R411 to R416, R418, R420, R422: the handshake from the link's training to the session with its roles; a frame of another
session or with an old counter is discarded and counted; replication, acknowledgements, ceilings, ranges and rekeying act in a
session; a loss, CLOSE or a missing heartbeat splits the roles, and the split primary's lease ends once. -/
def Obligations.TwinFramesAndTimers : Prop :=
  ∀ (s : State) (session : BitVec 32) (counter : Nat),
    let w := s.twin
    let quiet : Prop := s.trunk.held = [] ∧ s.trunk.change = none
    let split (t : State) (reason : Nat) : Prop := t.twin.step = .down ∧ t.twin.lossReason = reason ∧
      t.twin.lossAt = s.clock.cd18 ∧ t.mem = s.mem ∧
      t.twin.role = (if w.role = .primary ∨ w.role = .splitPrimary then .splitPrimary else .splitSecondary)
    (∀ l : BitVec 2, 1 ≤ l.toNat → l.toNat ≤ 2 → w.step ≠ .session → w.identity = true →
      exec (.twinLinkTrained l) s = .next { s with twin := { w with lanes := l.toNat, step := .trained } }) ∧
    (MayPair s → w.identity = false → s.dormant = false → (s.trunkTake 120).isSome = true →
      let begun (t : State) : Prop := t.twin.step = .hello ∧ t.twin.helloAt = s.clock.cd18 ∧ t.mem = s.mem ∧
        t.out = .twinFrame 1 t.twin.session.toNat 1 t.twin.helloPayload :: s.out
      (∀ l : BitVec 2, 1 ≤ l.toNat → l.toNat ≤ 2 →
        ∃ t, exec (.twinLinkTrained l) s = .next t ∧ begun t ∧ t.twin.lanes = l.toNat) ∧
      (w.lanes ≠ 0 → (w.step = .down ∨ w.step = .trained) → ∃ t, exec .twinHandshakeRetry s = .next t ∧ begun t)) ∧
    ((w.step = .hello ∨ w.step = .auth ∨ w.step = .role) →
      exec .twinHandshakeTimeout s = .next { s with twin := { w with step := .trained } }) ∧
    (∀ serial domain keys id, MayPair s → w.lanes ≠ 0 →
      let right := serial == w.partner && id != w.identity && padTo 16 domain == padTo 16 w.domain
      (w.identity = true → (s.trunkTake 88).isSome = true → w.keysOk keys = true →
        ∃ t sig, exec (.hello session serial id domain keys) s = .next t ∧ t.twin.step = .auth ∧ t.twin.session = session ∧
          t.twin.agrees = right ∧ t.mem = s.mem ∧
          t.out = .twinFrame 2 session.toNat 1 (t.twin.sealed 2 1 (s.trunk.devidCert ++ sig)) ::
            .twinFrame 1 session.toNat 1 t.twin.helloPayload :: s.out) ∧
      (w.identity = false → w.step = .hello → session = w.session → w.keysOk keys = true →
        ∃ t sig, exec (.hello session serial id domain keys) s = .next t ∧ t.twin.step = .auth ∧ t.twin.agrees = right ∧
          t.mem = s.mem ∧ t.out = .twinFrame 2 session.toNat 1 (t.twin.sealed 2 1 (s.trunk.devidCert ++ sig)) :: s.out) ∧
      ((w.identity = true ∨ (w.step = .hello ∧ session = w.session)) → w.keysOk keys = false →
        ∃ t, exec (.hello session serial id domain keys) s = .next t ∧ t.twin.step = .trained ∧ t.mem = s.mem)) ∧
    (Heard s session counter → w.step = .auth → ∀ cert sig,
      (w.agrees = true → sha384 cert = w.partnerDigest → p384Holds (certPublic cert) w.transcript sig = true →
        ∃ t, exec (.auth session counter cert sig) s = .next t ∧ t.twin.step = .role ∧ Sent s t 3 s.roleBytes ∧ t.mem = s.mem) ∧
      ((w.agrees = false ∨ sha384 cert ≠ w.partnerDigest ∨ p384Holds (certPublic cert) w.transcript sig = false) →
        ∃ t, exec (.auth session counter cert sig) s = .next t ∧ t.twin.step = .trained ∧ t.mem = s.mem ∧
          (w.identity = false → t.twin.authFails = w.authFails + 1 ∧ t.twin.slow = decide (3 ≤ w.authFails + 1)))) ∧
    (Heard s session counter → w.step = .role → ∀ held epoch persisted n empty positions,
      ∃ t, exec (.role session counter held epoch persisted n empty positions) s = .next t ∧ t.twin.step = .session ∧
        t.twin.role = (if s.wins held epoch.toNat empty then .primary else .secondary) ∧
        t.twin.epoch = BitVec.ofNat 32 (max w.epoch.toNat epoch.toNat + if s.twinEmpty = empty then 0 else 1) ∧
        t.twin.sessionAt = s.clock.cd18 ∧ t.mem = s.mem) ∧
    (session = w.session → w.step = .session → w.hbSeen < counter → w.hbFresh = false →
      exec (.heartbeat session counter) s = .next { s with twin := { w with
        hbSeen := counter, hbTick := s.sched.tick, frameTick := s.sched.tick } }) ∧
    (w.step = .session → ∃ t, exec .heartbeatSend s = .next t ∧ t.twin = { w with hbSent := w.hbSent + 1 } ∧
      t.out = .twinFrame 4 w.session.toNat (w.hbSent + 1)
        (w.sealed 4 (w.hbSent + 1) (le 1 w.role.code ++ le 4 w.epoch.toNat ++ le 1 (b2n s.dormant))) :: s.out) ∧
    (¬Heard s session counter →
      let counted : Answer := .next { s with twin := { w with discarded := w.discarded + 1 } }
      (∀ a b, exec (.auth session counter a b) s = counted) ∧
      (∀ a b c d e f, exec (.role session counter a b c d e f) s = counted) ∧
      (∀ a b c, exec (.repl session counter a b c) s = counted) ∧ (quiet → ∀ a b, exec (.ack session counter a b) s = counted) ∧
      (∀ a b, exec (.ceil session counter a b) s = counted) ∧ (∀ a b c d, exec (.grant session counter a b c d) s = counted) ∧
      (∀ a, exec (.req session counter a) s = counted) ∧ (∀ a, exec (.rekey session counter a) s = counted) ∧
      (quiet → ∀ a, exec (.close session counter a) s = counted)) ∧
    (Heard s session counter → w.step = .session →
      (w.role = .secondary → ∀ sequence item ok,
        ∃ t, exec (.repl session counter sequence item ok) s = .next t ∧ Sent s t 6 (le 8 sequence ++ le 1 (b2n ok)) ∧
          t.twin.persistedSeq = (if ok then sequence else w.persistedSeq) ∧ t.mem = s.mem ∧
          (∀ n x, item ≠ syncStart → item ≠ syncEnd → Change1.ofBytes item s.sched.tick = some (.slot n x) →
            (t.slot n).key = x.key ∧ (t.slot n).gen = x.gen ∧ (t.slot n).occupied = true ∧ (t.slot n).persistent = ok)) ∧
      (∀ sequence persisted n x, quiet → w.awaiting.find? (fun a => a.1 == sequence) = some (sequence, .slot n x) →
        ∃ t, exec (.ack session counter sequence persisted) s = .next t ∧ (∀ a ∈ t.twin.awaiting, a.1 ≠ sequence) ∧
          t.twin.partnerPersisted = (if persisted then sequence else w.partnerPersisted) ∧
          ((s.slot n).occupied = true → (t.slot n).unreplicated = false) ∧ t.mem = s.mem) ∧
      (∀ handle ceiling, ∃ t, exec (.ceil session counter handle ceiling) s = .next t ∧
        tblGet t.twin.ceilings (handleSlot handle) = some (ceiling.toNat, false) ∧
        Sent s t 6 (le 8 (2 ^ 63 + counter) ++ le 1 1) ∧ t.mem = s.mem) ∧
      (w.role = .secondary → ∀ handle first last, ∃ t r, exec (.grant session counter handle first last true) s = .next t ∧
        tblGet t.twin.ranges (handleSlot handle) = some r ∧ r.nextFirst = first.toNat ∧ r.nextTop = last.toNat ∧
        r.pending = false ∧ t.mem = s.mem ∧
        ((s.slot (handleSlot handle)).tk48 = true → Sent s t 6 (le 8 (2 ^ 63 + counter) ++ le 1 1))) ∧
      (w.role = .primary → ∀ handle r, tblGet w.ranges (handleSlot handle) = some r →
        (r.pending = true → ∃ t, exec (.req session counter handle) s = .next t ∧
          tblGet t.twin.ranges (handleSlot handle) = some { r with wanted := true } ∧ t.mem = s.mem) ∧
        (r.pending = false → r.alloc < (s.slot (handleSlot handle)).limit →
          let x := s.slot (handleSlot handle)
          ∃ t p, exec (.req session counter handle) s = .next t ∧ Sent s t 8 p ∧ t.mem = s.mem ∧
            tblGet t.twin.ranges (handleSlot handle) = some { r with
              alloc := min (r.alloc + x.block) x.limit, pending := true, wanted := false })) ∧
      (∀ keys, w.keysOk keys = true → (if w.identity then s.seed.mode = .normal ∧ s.seed.fail = false ∧ (s.trunkTake 88).isSome = true
          else w.rekeyPending = true) →
        ∃ t, exec (.rekey session counter keys) s = .next t ∧ t.twin.step = .session ∧ t.twin.rekeyPending = false ∧
          t.twin.fresh = true ∧ t.twin.hbFresh = true ∧ t.twin.sent = 0 ∧ t.twin.sessionAt = s.clock.cd18 ∧ t.mem = s.mem) ∧
      (∀ keys, w.keysOk keys = true → w.identity = true → s.seed.mode = .normal → s.seed.fail = false → s.trunkTake 88 = none →
        ∃ t, exec (.rekey session counter keys) s = .next t ∧ t.twin.rekeyIn = some (counter, keys) ∧ t.twin.keys = w.keys) ∧
      (∀ reason, quiet → w.unpairing = none → ∃ t, exec (.close session counter reason) s = .next t ∧ split t reason.toNat)) ∧
    (w.step = .session → w.rekeyPending = false → w.identity = false →
      (s.dormant = true → exec .twinRekeyDue s = .next { s with twin := { w with rekeyWaits := true } }) ∧
      (s.dormant = false → s.seed.mode = .normal → s.seed.fail = false → (s.trunkTake 120).isSome = true →
        ∃ t, exec .twinRekeyDue s = .next t ∧ t.twin.rekeyPending = true ∧
        Sent s t 0x0A t.twin.helloPayload ∧ t.mem = s.mem) ∧
      (s.dormant = false → s.seed.mode = .normal → s.seed.fail = false → s.trunkTake 120 = none →
        exec .twinRekeyDue s = .next { s with twin := { w with rekeyWaits := true } }) ∧
      (s.dormant = false → (s.seed.mode ≠ .normal ∨ s.seed.fail = true) → w.unpairing = none →
        ∃ t, exec .twinRekeyDue s = .next t ∧ split t 4)) ∧
    (w.step = .session → w.identity = true → exec .twinRekeyDue s = .next s) ∧
    (quiet → w.step = .session → w.unpairing = none → ∃ t, exec .twinLinkLoss s = .next t ∧ split t 0) ∧
    (∀ q, quiet → w.step = .session → w.unpairing = some q → ∃ t, exec .twinLinkLoss s = .next t ∧ t.twin.role = .solo ∧
      t.twin.unpairing = none ∧ t.mem = s.mem) ∧
    (quiet → w.step ≠ .session → exec .twinLinkLoss s = .next { s with twin := { w with step := .down } }) ∧
    (w.role = .splitPrimary → w.leaseEnded = false → w.promoted = false →
      ∃ t, exec .twinLeaseExpiry s = .next t ∧ t.twin = { w with leaseEnded := true } ∧ t.mem = s.mem)

/-! ## 17: cards, antenna and tag -/

/-- R425 to R429, R434 to R436, R438 to R440, R444 to R450: what the slots' switches, the identification, the watch, an external field
and a reader's frames do. -/
def Obligations.CardsAntennaAndTag : Prop :=
  ∀ s : State,
    (s.sd.st = .absent → ∃ t, exec .sdInsert s = .next t ∧ t.sd = { st := .identifying, journal := s.sd.journal } ∧
      t.mem = s.mem ∧ t.icc = s.icc) ∧
    (∀ x, x = s.sd → x.st ≠ .absent → ∃ t, exec .sdRemoval s = .next t ∧ t.sd = { journal := x.journal } ∧ t.mem = s.mem) ∧
    (s.sd.st = .ready → ∀ w, (s.sd.busMode = 4 ∨ s.sd.busMode = 5) → w < 8 →
      exec (.sdRetune w) s = .next { s with sd := { s.sd with busMode := s.sd.busMode - 1 } }) ∧
    (s.sd.st = .ready → exec .sdBusyTimeout s =
      .next { s with sd := { s.sd with failures := (s.sd.failures + 1) % 3 } }) ∧
    (s.sd.st ≠ .absent → s.sd.st ≠ .released → exec .sdCurrentLimit s =
      .next { s with sd := { st := .failed, journal := s.sd.journal }, out := .sdPowerDown :: s.out }) ∧
    (∀ (bm : BitVec 3) wp cap c0 c1 hs cs rb, s.sd.st = .identifying → s.dormant = false → s.trunk.ready = true →
      exec (.sdCardIdentified false bm wp cap c0 c1 hs cs rb) s = .next { s with sd := { s.sd with st := .failed } } ∧
      (headerOf c0 c1 = none → ∃ t, exec (.sdCardIdentified true bm wp cap c0 c1 hs cs rb) s = .next t ∧ t.sd.st = .ready ∧
        t.sd.busMode = bm.toNat ∧ t.sd.readOnly = wp ∧ t.sd.capacity = cap ∧ t.sd.volume = none ∧ t.mem = s.mem) ∧
      (∀ h, headerOf c0 c1 = some h →
        ∃ t, exec (.sdCardIdentified true bm wp cap c0 c1 hs cs rb) s = .next t ∧ t.sd.st = .ready ∧
          t.sd.volume = some (piece h 8 16) ∧ t.mem = s.mem ∧
          ((∀ e ∈ s.sd.journal, e.volume ≠ piece h 8 16) →
            let w := scanSegments (hs.zip cs) (field h 24 8) (field h 32 8) []
            t.sd.nextBlock = field h 24 8 ∧ t.sd.lastSeq = field h 32 8 ∧ t.sd.writeBlock = w.1 ∧ t.sd.writeSeq = w.2 + 1 ∧
              t.sd.journal = s.sd.journal) ∧
          (∀ e, s.sd.journal.find? (fun e => e.volume == piece h 8 16) = some e →
            t.sd.journal = s.sd.journal.filter (fun x => x != e) ∧
            (s.segmentValid rb = false → t.sd.writeBlock = e.block ∧ t.sd.writeSeq = e.seq)))) ∧
    (s.icc.st = .absent → ∃ t, exec .iccInsert s = .next t ∧ t.icc.st = .ready ∧ 1 ≤ t.icc.cls ∧ t.icc.cls ≤ 3 ∧
      t.mem = s.mem ∧ t.sd = s.sd) ∧
    (s.icc.st ≠ .absent → ∃ t, exec .iccRemoval s = .next t ∧ t.icc = {} ∧ t.mem = s.mem) ∧
    (s.rf.mode = .watch → s.rf.external = false → s.rf.cardHeld = false → ∀ poll,
      ∃ t, exec (.watchLoadChange poll) s = .next t ∧ (t.rf.cardHeld = true ↔ ∃ r ∈ poll, r.cards ≠ 0) ∧
        t.rf.field = (if t.rf.cardHeld then .full else .tenth) ∧ t.mem = s.mem) ∧
    (s.rf.cardHeld = true → exec .watchHoldExpiry s = .next { s with rf := { s.rf with
      cardHeld := false, field := if s.rf.mode = .watch ∧ s.rf.external = false then .tenth else .none } }) ∧
    (exec .externalFieldDetected s =
      .next { s with rf := { s.rf with external := true, field := .none, cardHeld := false } }) ∧
    (∃ t, exec .externalFieldGone s = .next t ∧ t.rf.external = false ∧ t.rf.frame = false ∧ t.rf.tag = .idle ∧
      t.rf.selected = false ∧ t.rf.swapPend = false ∧
      t.rf.field = (if s.rf.mode = .watch then .tenth else .none) ∧ t.mem = s.mem) ∧
    (s.tagHears = true →
      let answered (r : Rf) (data : Bytes) : Answer := .next { s with rf := { r with frame := true }, out := .tagAnswer data :: s.out }
      (s.rf.tag = .ready → exec .tagAttrib s = answered { s.rf with tag := .active, selected := false } [0] ∧
        exec .tagHltb s = answered { s.rf with tag := .halted } [0]) ∧
      (∀ up, (s.rf.tag = .idle ∨ s.rf.tag = .ready ∨ (s.rf.tag = .halted ∧ up = true)) →
        exec (.tagReqb up) s = answered { s.rf with tag := .ready, selected := false }
          (le 4 (Config.serial.toNat % 2 ^ 32) ++ [0, 8, 4])) ∧
      (s.rf.tag = .halted → exec (.tagReqb false) s = .next { s with rf := { s.rf with frame := true } }) ∧
      (s.rf.tag = .active →
        exec (.tagSelect [0xF0, 0x4B, 0x5A, 0x54, 0x41, 0x47, 0x00, 0x01]) s =
          answered { s.rf with selected := true } [0x90, 0x00] ∧
        exec .tagOtherApdu s = answered s.rf [0x6D, 0x00] ∧
        (∀ (off : BitVec 16) (n : BitVec 8), s.rf.selected = true → n.toNat ≤ 250 →
          exec (.tagReadBinary off n) s = answered s.rf ((s.tagBytes.drop off.toNat).take n.toNat ++ [0x90, 0x00])))) ∧
    (s.rf.frame = false → ∀ v : BitVec 32,
      exec (.tagctlSwap v) s = .next { s with rf := { s.rf with
        tagEn := v.getLsbD 1, swapPend := s.rf.swapPend || v.getLsbD 0 } } ∧
      (∀ o : BitVec 12, ∃ t, exec (.tagshadowWrite o v) s = .next t ∧
        piece t.rf.shadow (o.toNat / 4 * 4) 4 = le 4 v.toNat ∧
        (∀ i, (i < o.toNat / 4 * 4 ∨ o.toNat / 4 * 4 + 4 ≤ i) → i < 4096 → t.rf.shadow.getD i 0 = s.rf.shadow.getD i 0) ∧
        { t with rf := { t.rf with shadow := s.rf.shadow } } = s)) ∧
    (s.rf.frame = true → ∀ v : BitVec 32, exec (.tagctlSwap v) s = .next { s with rf := { s.rf with busyErr := true } } ∧
      ∀ o : BitVec 12, exec (.tagshadowWrite o v) s = .next { s with rf := { s.rf with busyErr := true } }) ∧
    (s.rf.rewrite = false → ∃ t, exec .tagSwapApply s = .next t ∧ t.rf.frame = false ∧ t.rf.swapPend = false ∧
      t.rf.page = (if s.rf.swapPend then s.rf.shadow else s.rf.page) ∧ t.mem = s.mem) ∧
    (s.rf.rewrite = true → ∃ t, exec .tagSwapApply s = .next t ∧ t.rf.frame = false ∧ t.rf.rewrite = false ∧ t.rf.busyErr = false ∧
      t.rf.page = s.tagFile (s.rf.generation + 1).toNat ∧ t.rf.shadow = t.rf.page ∧ t.rf.contentLost = false ∧ t.mem = s.mem)

/-! ## 13, 15, 19: start, reset, power and flash -/

namespace Sys2Proof.Claims

/-- Bank 3 has nothing to do, none of its sectors is out of use, and no bank has an unfinished erase. -/
def FlashAtRest (s : State) : Prop :=
  (s.bank 3).ops = [] ∧ (s.bank 3).erasing = none ∧ (s.bank 3).toReplace = [] ∧ (s.bank 3).replaced = [] ∧
    ∀ b, (s.bank b).unfinished = []

/-- A checkpoint of a kind and a tick stands in its slot, with both its units (15 R391, R392). -/
def CheckpointStands (t : State) (kind tick : Nat) : Prop :=
  ∃ n c, tblGet t.log.ckptSlots n = some { c, copy := some c.seq } ∧ c.kind = kind ∧ c.tick = tick

end Sys2Proof.Claims

/-- R100, R339, R347 to R351, 15 R392, R403, R404, 18 R459, 19 R465, R466, R472: START_UP ends at t7 or with the code of what failed, and takes
RETIRED where no two copies of the life-cycle code agree; READY confirms the
image that runs and raises the fuse; PERST# and a shutdown end in the reset that wipes memory, jobs and sessions and keeps the
BBKR and the bark's bits; the power-fail warning writes its checkpoint and the waiting records; the wake leaves DORMANT. -/
def Obligations.StartResetPowerAndWake : Prop :=
  ∀ s : State,
    (∀ r : BootResult, s.trunk.powerGood = true → s.trunk.shutdown = false → s.trunk.bootCode = 0 → s.trunk.runRecovery = false →
      (r.romOk = false → ∃ t, exec (.startUp r) s = .next t ∧ t.trunk.bootCode = 0x11 ∧ t.trunk.starting = false ∧
        t.trunk.perst = false ∧ t.mem = s.mem) ∧
      (r.romOk = true → r.lifeRead = [] → s.lifeVote = none → r.seedOk = false →
        ∃ t, exec (.startUp r) s = .next t ∧ t.trunk.bootCode = 0x13 ∧ t.trunk.starting = false ∧ t.trunk.life = .retired) ∧
      (r.romOk = true → r.lifeRead = [] → s.lifeVote = some s.life → r.seedOk = false →
        ∃ t, exec (.startUp r) s = .next t ∧ t.trunk.bootCode = 0x13 ∧ t.trunk.starting = false ∧ t.trunk.life = s.trunk.life) ∧
      (r.romOk = true → r.lifeRead = [] → s.lifeVote = some s.life → r.seedOk = true → s.life ≠ .recovery →
        s.trunk.imageA.boot = .active → s.trunk.imageB.boot ≠ .pending → r.imageA = true → s.verifies s.trunk.imageA = true →
        (r.dramOk = false → ∃ t, exec (.startUp r) s = .next t ∧ t.trunk.bootCode = 0x16 ∧ t.trunk.starting = false) ∧
        (∀ code, r.dramOk = true → r.katFail = some code → ∃ t, exec (.startUp r) s = .next t ∧ t.trunk.bootCode = 0x17 ∧
          t.trunk.starting = false ∧ t.log.reopened = true) ∧
        (r.dramOk = true → r.katFail = none → s.cyclesGone = false → Claims.FlashAtRest s →
          ∃ t, exec (.startUp r) s = .next t ∧ t.trunk.bootCode = 8 ∧ t.trunk.starting = true ∧ t.trunk.runB = false ∧
            t.trunk.ready = s.trunk.ready ∧ t.heart.serving = true ∧ t.log.reopened = true ∧
            Claims.CheckpointStands t 4 t.sched.tick ∧ t.sched.tick % 10000 = 0 ∧ t.sched.firstBoundary = true ∧
            t.clock.powerCycles = (s.log.ckpts.head?.map (fun x => x.cycle)).getD 0 + 1 ∧
            t.trunk.epoch = BitVec.ofNat 32 (t.clock.powerCycles * 256) ∧ t.bark.tnew = 0))) ∧
    (s.trunk.starting = true → (s.trunk.bootCode = 8 ∨ s.trunk.bootCode = 0x14) →
      ∃ t, exec .readyRaised s = .next t ∧ t.trunk.ready = true ∧ t.trunk.starting = false ∧ t.trunk.bootCode = 0x0F ∧
        t.trunk.minSecver = max s.trunk.minSecver s.image.secver ∧ t.sched.running = true ∧
        t.sched.boundaryAt = s.clock.cd18 ∧
        (s.image.boot = .pending → t.trunk.imageA.boot = (if s.trunk.runB then .inactive else .active) ∧
          t.trunk.imageB.boot = (if s.trunk.runB then .active else .inactive)) ∧
        (s.image.boot ≠ .pending → t.trunk.imageA = s.trunk.imageA ∧ t.trunk.imageB = s.trunk.imageB) ∧
        { t with trunk := s.trunk, sched := s.sched } = s) ∧
    (
      let wiped (t : State) : Prop := t.mem = [] ∧ t.jobs = [] ∧ t.posted = [] ∧ t.sessions = [] ∧ t.queues = [] ∧ t.fns = [] ∧
        t.cells = [] ∧ t.stage = [] ∧ t.groveA = {} ∧ t.groveB = {} ∧ t.seed = {} ∧ t.trunk.ready = false ∧ t.trunk.numVfs = 0 ∧
        t.trunk.bootCode = 0 ∧ t.trunk.change = none ∧ t.trunk.held = [] ∧
        (∀ p i, t.master p i = { gen := (s.master p i).gen }) ∧ (∀ n, (t.slot n).occupied = false) ∧
        t.heart.bbkr = s.heart.bbkr ∧ t.bark.tstky = s.bark.tstky ∧
        t.bark.lko = s.bark.lko ∧ t.trunk.life = s.trunk.life ∧ t.log.opened = none ∧ t.log.waiting = []
      (s.trunk.powerGood = true → s.trunk.shutdown = false →
        ∃ t, exec .perstAssert s = .next t ∧ t.trunk.perst = true ∧ wiped t) ∧
      (s.trunk.shutdown = true → ∃ t, exec .shutdownIdle s = .next t ∧ t.trunk.powerGood = false ∧ t.trunk.shutdown = false ∧
        wiped t)) ∧
    ((s.trunk.powerGood = false ∨ s.trunk.shutdown = true) →
      exec .perstAssert s = .next { s with trunk := { s.trunk with perst := true } }) ∧
    (s.trunk.powerGood = false → ∀ a m, exec (.powerGood a m) s = .next { s with
      trunk := { s.trunk with powerGood := true, maddr := a, bootCode := 0 }
      elec := { s.elec with m } }) ∧
    (s.trunk.powerGood = true → s.trunk.shutdown = false → ∀ w g,
      ∃ t, exec (.powerFailWarning w g) s = .next t ∧ t.trunk.shutdown = true ∧ t.trunk.bootCode = 0x1F ∧
        t.sched.running = false ∧ t.elec.lockUntil = none ∧ t.heart = s.heart ∧ t.mem = s.mem ∧
        (s.log.reopened = true → t.log.waiting.length ≤ 1 ∧ (∀ p, (t.part p).closing = [])) ∧
        (s.log.reopened = true → Claims.FlashAtRest s →
          Claims.CheckpointStands t 2 (if s.dormant then (s.sched.advance s.clock.cd18).tick else s.sched.tick))) ∧
    (s.dormant = true → s.trunk.waking = true → s.trunk.shutdown = false → ∀ ok failed bad,
      ∃ t, exec (.wakeComplete ok failed bad) s = .next t ∧ t.dormant = false ∧ t.trunk.waking = false ∧ t.sched.running = true ∧
        t.trunk.rung = [] ∧ t.trunk.reads = [] ∧ (ok = true → t.seed.source = true) ∧
        (ok = false → t.seed.source = false ∧ (s.seed.mode ≠ .raw → t.seed.fail = true)))

/-- R378 to R383, R389, R395, 19 R470, R471, R473, R474, 13 R340: flash operations and sector upkeep; the fan follows the hottest die;
the management port answers while input power is good; the service button. -/
def Obligations.FlashFanAndManagementPort : Prop :=
  ∀ (s : State),
    (∀ (b : BitVec 2) x, x = s.bank b.toNat → s.trunk.held = [] → s.trunk.change = none →
      (∀ p returns, x.ops = [.erase p returns] →
        exec (.flashOpDone b .ok) s = .next (s.setBank b.toNat { x.clearMark p with
          ops := [], erasing := none, failedOnce := x.failedOnce.filter (· != p)
          free := if returns then insertFree p x.free else x.free }) ∧
        (p ∉ x.failedOnce → exec (.flashOpDone b .eraseFailed) s = .next (s.setBank b.toNat { x with
          failedOnce := addTo x.failedOnce p })) ∧
        (∀ n, p ∈ x.failedOnce → x.logical p = some n → exec (.flashOpDone b .eraseFailed) s = .next (s.setBank b.toNat {
          x.clearMark p with
          ops := [], erasing := none, failedOnce := x.failedOnce.filter (· != p), toReplace := addTo x.toReplace n }))) ∧
      (∀ r rest k, b.toNat = 3 → s.log.waiting = r :: rest → k = (s.slotFor r).1 →
        (∀ ops, x.ops = .body :: ops → s.slotErased k = true → exec (.flashOpDone b .ok) s = .next
          (({ s with log := s.log.spoil k 0xFFFFFFFF }).setBank 3 { x with ops := .mark :: ops })) ∧
        (x.ops = [.mark] → x.toReplace = [] → x.replaced = [] → s.log.lost = 0 →
          ∃ t, exec (.flashOpDone b .ok) s = .next t ∧ t.log.waiting = rest ∧ tblGet t.log.held k = some r ∧
            tblGet t.log.spoilt k = none ∧ t.mem = s.mem ∧ t.heart = s.heart) ∧
        (x.ops.head? = some .body → ∃ t, exec (.flashOpDone b .programFailed) s = .next t ∧
          k / sectorSlots ∈ (t.bank 3).toReplace ∧ t.mem = s.mem ∧ t.heart = s.heart)) ∧
      (∀ c rest, b.toNat = 3 → x.ops = [.unit true] → x.toReplace = [] → x.replaced = [] → s.log.ckptQueue = c :: rest →
        ∃ t, exec (.flashOpDone b .ok) s = .next t ∧ t.log.ckptQueue = rest ∧
          tblGet t.log.ckptSlots s.log.ckptPos = some { c, copy := some c.seq } ∧ t.mem = s.mem ∧ t.heart = s.heart) ∧
      (∀ sec rep weak, x.ops = [.copy sec rep weak] → ∃ t, exec (.flashOpDone b .ok) s = .next t ∧
        tblGet (t.bank b.toNat).replaced sec = some rep ∧ tblGet (t.bank b.toNat).mapCopy sec = some rep ∧
        sec ∉ (t.bank b.toNat).toReplace ∧ sec ∉ (t.bank b.toNat).weak ∧ rep ∉ (t.bank b.toNat).free ∧
        ((t.bank b.toNat).wearRaised = (x.wearRaised || decide ((x.free.filter (· != rep)).length ≤ 8))) ∧
        (weak = true → .erase (x.phys sec) true ∈ (t.bank b.toNat).ops) ∧ t.mem = s.mem) ∧
      (∀ sec n, n ≤ 4 → exec (.flashOpDone b (.corrected sec 0 n)) s = .next s) ∧
      (∀ sec k n, (4 < n ∨ k ≠ 0) → ∃ t, exec (.flashOpDone b (.corrected sec k n)) s = .next t ∧
        sec ∈ (t.bank b.toNat).weak ∧ t.mem = s.mem ∧ t.heart = s.heart) ∧
      (∀ sec unit, b.toNat = 0 → s.flash.xip = true → ∃ t, exec (.flashOpDone b (.uncorrectable sec unit)) s = .next t ∧
        t.trunk.ready = false ∧ t.trunk.bootCode = 0x15 ∧ t.mem = s.mem ∧ t.heart = s.heart)) ∧
    (∀ (b : BitVec 2) x rep free, x = s.bank b.toNat → x.ops = [] → x.free = rep :: free → ¬(b.toNat = 0 ∧ s.flash.xip = true) →
      (∀ sec rest, x.toReplace = sec :: rest →
        exec (.flashRefresh b) s = .next (s.setBank b.toNat { x with ops := [.copy sec rep false] })) ∧
      (∀ sec rest, x.toReplace = [] → x.weak = sec :: rest → (b.toNat ≠ 3 ∨ sec < 8) →
        exec (.flashRefresh b) s = .next (s.setBank b.toNat { x with ops := [.copy sec rep true] }))) ∧
    (s.trunk.ready = true → s.dormant = false →
      (∀ rpm m, let hot := max m.dieA (max m.dieB m.dieTrunk)
        ∃ t, exec (.fanDutyUpdate rpm m) s = .next t ∧ t.elec.m = m ∧ t.elec.rpm = rpm ∧
          t.elec.stallRaised = (s.elec.stallRaised && decide (rpm < 500)) ∧ s.elec.fanMin ≤ t.elec.fanDuty ∧
          (hot ≤ 60 → t.elec.fanDuty = max s.elec.fanMin 30) ∧ (85 ≤ hot → t.elec.fanDuty = max s.elec.fanMin 100) ∧
          { t with elec := s.elec, free := s.free } = s) ∧
      (30 ≤ s.elec.fanDuty → s.elec.rpm < 500 → s.elec.stallRaised = false →
        ∃ t, exec .fanStall s = .next t ∧ t.elec = { s.elec with stallRaised := true } ∧ t.mem = s.mem ∧ t.heart = s.heart)) ∧
    (s.trunk.powerGood = true →
      (∀ (a : BitVec 8), a.toNat / 4 % 16 ≠ 4 → exec (.mgmtRead a 1) s = .next { s with
        out := .mgmt (a.toNat / 4 % 16 * 4) (s.mgmtValue (a.toNat / 4 % 16 * 4)) :: s.out }) ∧
      (∀ (a : BitVec 8) n, ∃ t, exec (.mgmtRead a n) s = .next t ∧ t.out.length = s.out.length + n ∧
        { t with out := s.out, elec := s.elec } = s) ∧
      (exec .mpenlRead s = .next { s with
        out := .mgmt 0x10 (s.clock.energyJ.toNat % 2 ^ 32) :: s.out
        elec := { s.elec with mpEnh := s.clock.energyJ.extractLsb' 32 32 } })) ∧
    (s.trunk.powerGood = false → ∀ a n, exec (.mgmtRead a n) s = .next s) ∧
    (exec (.serviceButtonChange true) s = .next { s with trunk := { s.trunk with svcButton := true } }) ∧
    (exec (.serviceButtonChange false) s = .next { s with trunk := { s.trunk with svcButton := false, svcBells := [] } })

/-! ## 05, 06: the transaction functions -/

namespace Sys2Proof.Claims

/-- The transaction functions of 05 with their codes. -/
def functions (r : Run) : List (Nat × Instr) := [
  (0x0101, .pinTranslate r), (0x0102, .pinVerify r), (0x0201, .macGenerate r), (0x0202, .macVerify r),
  (0x0301, .dukptPinTranslate r), (0x0302, .dukptMacVerify r), (0x0303, .dukptDecrypt r), (0x0401, .arqcVerify r),
  (0x0501, .keyblockTranslate r), (0x0601, .ecdsaSign r), (0x0602, .ecdsaVerify r), (0x0603, .eddsaSign r),
  (0x0604, .eddsaVerify r), (0x0605, .rsaSign r), (0x0606, .rsaVerify r), (0x0607, .mldsaSign r), (0x0608, .mldsaVerify r),
  (0x0701, .ecdh r), (0x0702, .mlkemEncaps r), (0x0703, .mlkemDecaps r), (0x0801, .ff1Encrypt r), (0x0802, .ff1Decrypt r),
  (0x0901, .gcmEncrypt r), (0x0902, .gcmDecrypt r), (0x0903, .aesCbc r), (0x0904, .aesCtr r), (0x0905, .aesXts r),
  (0x0906, .aesEcb r), (0x0907, .tdesCbc r), (0x0A01, .hash r), (0x0B01, .random r), (0x0C01, .batchVerifyEd25519 r)]

/-- The command of a function code, where it is the code of one. -/
def Runs (r : Run) (code : Nat) (f : Instr) : Prop := (code, f) ∈ functions r ∨ (0x8000 ≤ code ∧ f = .customFunction r)

/-- The cell of a run takes up the short job `i` at the head of its plan, a fresh copy `k` of job `x` that fits its budget (06 R149 steps 1
to 4, R152, 02 R43, R57): its grove serves and runs, the cell is not fenced, drained or failed, it is not in a guard and has not locked up, and
no store of its is on its way. -/
structure TakesUp (s : State) (r : Run) (i : Item) (rest : List Item) (x : Job) (k : Copy) : Prop where
  serves : s.groveRuns (groveOf r.cell.toNat) = true ∧ s.sched.inGuard = false
  cell : ((s.cell r.cell.toNat).st = .idle ∨ (s.cell r.cell.toNat).st = .resident ∨ (s.cell r.cell.toNat).st = .draining) ∧
    (s.cell r.cell.toNat).core.locked = false
  stores : (s.core r.cell.toNat).sbuf = [] ∧ (s.core r.cell.toNat).imprecise = none
  plan : (s.cell r.cell.toNat).plan = i :: rest ∧ i.long = false
  job : s.job? i.job = some x ∧ x.copy (groveOf r.cell.toNat) = some k ∧ k.cell = r.cell.toNat
  fresh : k.place = .planned ∧ k.lastRan ≠ some s.sched.tick ∧ k.long = false ∧ k.loaded = none ∧ k.random = none ∧
    k.entered = false ∧ k.drawFailed = false
  budget : i.declared * 1000 ≤ (s.cell r.cell.toNat).brem ∧ (s.cell r.cell.toNat).brem ≠ 0 ∧
    r.usedUs ≤ (s.cell r.cell.toNat).brem / 1000

/-- The copy `k` of job `x` in grove `g` has ended on its cell, and its completion record is on its way (06 R149 step 12, R155). -/
def Posts (s t : State) (j : Nat) (g : Bool) (x : Job) (k : Copy) (e : Ended) : Prop :=
  (t.copy? j g).map (fun k => k.place) = some .ended ∧
  ∃ p, t.posted = s.posted ++ [p] ∧ p.job = j ∧ p.grove = g ∧ p.cell = k.cell ∧ p.tick = k.tick ∧ p.ran = k.ran + 1 ∧
    p.status = e.status ∧ p.out = e.out ∧ p.outLen = e.outLen ∧ p.outDigest = outputDigest e.out e.status ∧
    p.entryDigest = entryDigest x.entries x.input true ∧ p.epoch = s.trunk.epoch.toNat

end Sys2Proof.Claims

/-- R119, R120, R122, R123, R138, R148, 06 R149, 07 R195, 10 R269, R274, 11 R314, R315: the function of the short job at the head of a cell's plan
runs and its completion record is posted. A function whose package is not installed fails (11 R317), as does one with a faulty line among its
staged data (01 R13). Otherwise the first check of R120 that fails gives the status: its arguments, the verdict of CHECK, an output that
does not fit its capacity, the LOAD of a key. A draw that Seed refuses ends in RANDOM_UNAVAILABLE, one that does not come in time waits to the
end of the budget, RANDOM's to the end of its declared time. Else the record carries what the function's algorithm gives, CELL_FAULT where
its microprogram's result check fails, or what a custom function passed to SYSCALL 0; one whose instructions follow is entered. The command of
another function leaves everything as it is. -/
def Obligations.FunctionsPostTheirResult : Prop :=
  ∀ (s : State) (r : Run) (code : Nat) (f : Instr) (i : Item) (rest : List Item) (x : Job) (k : Copy),
    Runs r code f → TakesUp s r i rest x k →
    let c := r.cell.toNat
    let g := groveOf c
    let form := formOf x (s.algOf x.handleA)
    let ends (e : Ended) : Prop := ∃ t, exec f s = .next t ∧ Posts s t i.job g x k e
    let waits : Prop := ∃ t, exec f s = .next t ∧ t.posted = s.posted ∧ (t.cell c).brem = 0 ∧
      (t.copy? i.job g).map (fun k => k.place) = some .running
    (x.code ≠ code → ¬(0x8000 ≤ code ∧ 0x8000 ≤ x.code) → exec f s = .next s) ∧
    (x.code = code →
      ((s.grove g).notInstalled.contains code = true → ends (Ended.failed .cellFault)) ∧
      ((s.grove g).notInstalled.contains code = false → (∃ line, s.stagedBad x = some line) → ends (Ended.failed .cellFault)) ∧
      ((s.grove g).notInstalled.contains code = false → r.dramFault = true → ends (Ended.failed .cellFault)) ∧
      ((s.grove g).notInstalled.contains code = false → s.stagedBad x = none → r.dramFault = false →
        (∀ st, form.args = some st → ends (Ended.failed st)) ∧
        (∀ v y, form.args = none → v = ((s.beginItem c i x true).jobCheck i.job).giveTicket c i.job → v.job? i.job = some y →
          (∀ st, y.checked = some st → st.good = false → ends (Ended.failed st)) ∧
          (∀ n, y.checked = some .ok → form.out = some n → x.outCap < n → ends (Ended.tooLong n)) ∧
          (y.checked = some .ok → (∀ n, form.out = some n → n ≤ x.outCap) →
            (∀ w, v.loadKeys c i.job false = (w, none) → waits) ∧
            (∀ w st, v.loadKeys c i.job false = (w, some (.error st)) → st.good = false → ends (Ended.failed st)) ∧
            (∀ w keys u need, v.loadKeys c i.job false = (w, some (.ok keys)) →
              u = w.modCopy i.job g (fun k => { k with loaded := some keys }) →
              need = (if 0x8000 ≤ code then 0 else drawsRandom x keys.keyA.alg) →
              (need ≠ 0 → u.seedAlive = false → ends (Ended.failed .randomUnavailable)) ∧
              (need ≠ 0 → u.seedAlive = true → r.seedOk = false →
                if code = 0x0B01 ∧ k.remaining ≤ (s.cell c).brem / 1000 then ends (Ended.failed .randomUnavailable) else waits) ∧
              (0x8000 ≤ code → r.steps = false → ends (customEnd x r.customStatus.toNat r.customOut.length r.customOut)) ∧
              (0x8000 ≤ code → r.steps = true → ∃ t, exec f s = .next t ∧ t.posted = s.posted ∧ (t.core c).pl = true ∧
                (t.core c).pc = BitVec.ofNat 64 (((s.custom? code).map (fun h => h.entry)).getD 0) ∧
                (t.core c).reg 2 = BitVec.ofNat 64 x.inLen) ∧
              (∀ bs, code < 0x8000 →
                ((need = 0 ∧ bs = []) ∨ (need ≠ 0 ∧ u.seedAlive = true ∧ r.seedOk = true ∧
                  (((u.seedAsk c i.job need (code == 0x0B01)).kernels g).copy? i.job g).bind (fun k => k.random) = some bs)) →
                let w : Work := {
                  job := { y with copyA := none, copyB := none }, keys, random := bs, value := y.issued.getD 0
                  digest := entryDigest x.entries x.input true }
                let out := w.result (form.out.getD 0)
                let e := fit x out.1 out.2
                w.times ≤ k.ext + 1 →
                ends (if r.checkFails && e.status.good && (checkedMp x (s.algOf x.handleA)).isSome then Ended.failed .cellFault
                  else e)))))))

/-! ## The block -/

/-- Log entry 1 (the model's choice): a step runs the command at the front of the queue with the queue's rest, and on an empty
queue one CD18 cycle passes; the table gives no row bits, so no word spells a command. -/
def Obligations.StepRunsTheFrontCommand : Prop :=
  ∀ s : State,
    (∀ c rest, s.pending = c :: rest → step s = exec c { s with pending := rest }) ∧
    (s.pending = [] → step s = .next { s with clock := { s.clock with cd18 := s.clock.cd18 + 1 } }) ∧
    (∀ nbits w, s.withFetchWord nbits w = s)

/-- What reset leaves: an empty queue, nothing in memory, no job, session, queue or key; TSTKY, TNTF and TNEW with the mark of the
first supply alone, TARM without loops and switches (14 R367), READY low and PERST# asserted (13 R347), MREGs zero (13 R353).
That the module is then in FACTORY with image A at security version 0 is the model's choice (log entry 7). -/
def Obligations.ResetLeavesANewModule : Prop :=
  let s := State.reset
  s.pending = [] ∧ s.memOk ∧ s.mem = [] ∧ s.jobs = [] ∧ s.sessions = [] ∧ s.queues = [] ∧ s.cells = [] ∧
    (∀ n, (s.slot n).occupied = false) ∧ s.heart.bbkr = {} ∧ s.heart.serving = false ∧ s.bark.tstky = 0x08000000 ∧
    s.bark.tntf = 0x08000000 ∧ s.bark.tnew = 0x08000000 ∧ s.bark.tarm = 0x07FFF000 ∧ s.bark.alcs = 0x00FF ∧
    s.trunk.ready = false ∧ s.trunk.perst = true ∧ s.trunk.mregs = List.replicate 8 (List.replicate 48 0) ∧
    s.trunk.life = .factory ∧ s.twin.role = .solo ∧ (∀ p, (s.part p).nextReceipt = 1 ∧ (s.part p).qA = 16)

/-- 01 R24, 13 R344: memory keeps its one canonical form: keys rise and no byte 0 is listed, whatever command runs. -/
def Obligations.StepsKeepMemoryCanonical : Prop :=
  ∀ s t : State, s.memOk → step s = .next t → t.memOk

/-- Every command completes, and takes nothing back: fuses, time and what has left the module (13 R343, R351; 01 R15). -/
def Obligations.CommandsCompleteAndRunForward : Prop :=
  ∀ (c : Instr) (s : State), ∃ t, exec c s = .next t ∧ Forward s t
end

