-- ==== Sys2Proof/Laws/Tables.lean ====
section
/-! SUPPORT. Tables, byte strings and memory: reading after writing, and the canonical form (00 R6, 01 R24, 13 R344). -/

namespace Sys2Proof.Machine

/-! ### Tables -/

@[simp] theorem tblGet_tblSet_same {α : Type} (t : Tbl α) (k : Nat) (v : α) : tblGet (tblSet t k v) k = some v := by
  induction t with
  | nil => simp [tblSet, tblGet]
  | cons p t ih =>
    obtain ⟨i, x⟩ := p
    by_cases h : i = k
    · simp [tblSet, tblGet, h]
    · by_cases g : k < i <;> simp [tblSet, tblGet, h, g, ih]

theorem tblGet_tblSet_other {α : Type} (t : Tbl α) {j k : Nat} (v : α) (h : j ≠ k) :
    tblGet (tblSet t k v) j = tblGet t j := by
  induction t with
  | nil => simp [tblSet, tblGet, Ne.symm h]
  | cons p t ih =>
    obtain ⟨i, x⟩ := p
    by_cases e : i = k
    · subst e; simp [tblSet, tblGet, Ne.symm h]
    · by_cases g : k < i
      · simp [tblSet, tblGet, e, g, Ne.symm h]
      · by_cases d : i = j
        · subst d; simp [tblSet, tblGet, e, g]
        · simp [tblSet, tblGet, e, g, d, ih]

@[simp] theorem tblGet_tblDel_same {α : Type} (t : Tbl α) (k : Nat) : tblGet (tblDel t k) k = none := by
  induction t with
  | nil => rfl
  | cons p t ih =>
    obtain ⟨i, x⟩ := p
    by_cases h : i = k <;> simp [tblDel, tblGet, h, ih]

theorem tblGet_tblDel_other {α : Type} (t : Tbl α) {j k : Nat} (h : j ≠ k) : tblGet (tblDel t k) j = tblGet t j := by
  induction t with
  | nil => rfl
  | cons p t ih =>
    obtain ⟨i, x⟩ := p
    by_cases e : i = k
    · subst e; simp [tblDel, tblGet, ih, Ne.symm h]
    · by_cases d : i = j
      · subst d; simp [tblDel, tblGet, e]
      · simp [tblDel, tblGet, e, d, ih]

/-- Every index of a table exceeds `n`. -/
def tblAbove {α : Type} (n : Nat) (t : Tbl α) : Prop := ∀ p ∈ t, n < p.1

theorem tblRising_cons {α : Type} (i : Nat) (x : α) (t : Tbl α) :
    tblRising ((i, x) :: t) = true ↔ tblAbove i t ∧ tblRising t = true := by
  induction t generalizing i x with
  | nil => simp [tblRising, tblAbove]
  | cons p t ih =>
    obtain ⟨j, y⟩ := p
    rw [tblRising, Bool.and_eq_true, decide_eq_true_iff]
    constructor
    · rintro ⟨h, r⟩
      refine ⟨fun q hq => ?_, r⟩
      rcases List.mem_cons.1 hq with rfl | hq
      · exact h
      · exact h.trans (((ih j y).1 r).1 q hq)
    · rintro ⟨a, r⟩
      exact ⟨a (j, y) (List.mem_cons_self ..), r⟩

theorem mem_tblSet {α : Type} {t : Tbl α} {k : Nat} {v : α} {p : Nat × α} (h : p ∈ tblSet t k v) : p = (k, v) ∨ p ∈ t := by
  induction t with
  | nil => simpa [tblSet] using h
  | cons q t ih =>
    obtain ⟨i, x⟩ := q
    rw [tblSet] at h
    split at h
    · rcases List.mem_cons.1 h with h | h
      · exact .inl h
      · exact .inr (List.mem_cons_of_mem _ h)
    · split at h
      · rcases List.mem_cons.1 h with h | h
        · exact .inl h
        · exact .inr h
      · rcases List.mem_cons.1 h with h | h
        · exact .inr (h ▸ List.mem_cons_self ..)
        · exact (ih h).imp_right (List.mem_cons_of_mem _)

theorem mem_tblDel {α : Type} {t : Tbl α} {k : Nat} {p : Nat × α} (h : p ∈ tblDel t k) : p ∈ t := by
  induction t with
  | nil => exact h
  | cons q t ih =>
    obtain ⟨i, x⟩ := q
    rw [tblDel] at h
    split at h
    · exact List.mem_cons_of_mem _ (ih h)
    · rcases List.mem_cons.1 h with h | h
      · exact h ▸ List.mem_cons_self ..
      · exact List.mem_cons_of_mem _ (ih h)

/-- A write keeps the indexes rising. -/
theorem tblRising_tblSet {α : Type} {t : Tbl α} (h : tblRising t = true) (k : Nat) (v : α) :
    tblRising (tblSet t k v) = true := by
  induction t with
  | nil => rfl
  | cons q t ih =>
    obtain ⟨i, x⟩ := q
    obtain ⟨a, r⟩ := (tblRising_cons i x t).1 h
    rw [tblSet]
    split
    · next e => subst e; exact (tblRising_cons i v t).2 ⟨a, r⟩
    · next e =>
      split
      · next l => 
        refine (tblRising_cons k v _).2 ⟨fun p hp => ?_, h⟩
        rcases List.mem_cons.1 hp with rfl | hp
        · exact l
        · exact l.trans (a p hp)
      · next l =>
        refine (tblRising_cons i x _).2 ⟨fun p hp => ?_, ih r⟩
        rcases mem_tblSet hp with rfl | hp
        · show i < k
          omega
        · exact a p hp

/-- A removal keeps the indexes rising. -/
theorem tblRising_tblDel {α : Type} {t : Tbl α} (h : tblRising t = true) (k : Nat) : tblRising (tblDel t k) = true := by
  induction t with
  | nil => rfl
  | cons q t ih =>
    obtain ⟨i, x⟩ := q
    obtain ⟨a, r⟩ := (tblRising_cons i x t).1 h
    rw [tblDel]
    split
    · exact ih r
    · exact (tblRising_cons i x _).2 ⟨fun p hp => a p (mem_tblDel hp), ih r⟩

/-- A filter keeps the indexes rising. -/
theorem tblRising_filter {α : Type} {t : Tbl α} (h : tblRising t = true) (f : Nat × α → Bool) :
    tblRising (t.filter f) = true := by
  induction t with
  | nil => rfl
  | cons q t ih =>
    obtain ⟨i, x⟩ := q
    obtain ⟨a, r⟩ := (tblRising_cons i x t).1 h
    rw [List.filter_cons]
    split
    · exact (tblRising_cons i x _).2 ⟨fun p hp => a p (List.mem_filter.1 hp).1, ih r⟩
    · exact ih r

/-! ### Byte strings -/

@[simp] theorem le_length (n v : Nat) : (le n v).length = n := by
  induction n generalizing v with
  | zero => rfl
  | succ n ih => simp [le, ih]

/-- The number that `n` little-endian bytes of `v` spell is `v` modulo 256ⁿ. -/
theorem num_le (n v : Nat) : num (le n v) = v % 256 ^ n := by
  induction n generalizing v with
  | zero => simp [le, num, Nat.mod_one]
  | succ n ih =>
    rw [le, num, ih, BitVec.toNat_ofNat, show (2 : Nat) ^ 8 = 256 from rfl, Nat.pow_succ', Nat.mod_mul]

@[simp] theorem piece_length (bs : Bytes) (off n : Nat) : (piece bs off n).length = n := by
  simp [piece]

@[simp] theorem padTo_length (n : Nat) (bs : Bytes) : (padTo n bs).length = n := piece_length bs 0 n

/-- A string of at least `n` bytes is its own piece. -/
theorem piece_of_le {bs : Bytes} {off n : Nat} (h : off + n ≤ bs.length) : piece bs off n = (bs.drop off).take n := by
  have e : n - ((bs.drop off).take n).length = 0 := by
    rw [List.length_take, List.length_drop]; omega
  simp only [piece, e, List.replicate_zero, List.append_nil]

/-! ### Memory -/

@[simp] theorem memGet_memSet_same (m : Tbl Byte) (k : Nat) (b : Byte) : memGet (memSet m k b) k = b := by
  unfold memGet memSet
  split <;> simp_all

theorem memGet_memSet_other (m : Tbl Byte) {j k : Nat} (b : Byte) (h : j ≠ k) : memGet (memSet m k b) j = memGet m j := by
  unfold memGet memSet
  split
  · rw [tblGet_tblDel_other _ h]
  · rw [tblGet_tblSet_other _ _ h]

/-- Bytes outside the string written read as before. -/
theorem memGet_memWrite_outside (m : Tbl Byte) (bs : Bytes) {j k : Nat} (h : j < k ∨ k + bs.length ≤ j) :
    memGet (memWrite m k bs) j = memGet m j := by
  induction bs generalizing m k with
  | nil => rfl
  | cons b bs ih =>
    rw [memWrite, ih _ (by simp at h; omega), memGet_memSet_other _ _ (by simp at h; omega)]

/-- A byte written reads as written. -/
theorem memGet_memWrite_inside (m : Tbl Byte) (bs : Bytes) (k i : Nat) (h : i < bs.length) :
    memGet (memWrite m k bs) (k + i) = bs[i] := by
  induction bs generalizing m k i with
  | nil => simp at h
  | cons b bs ih =>
    cases i with
    | zero =>
      rw [memWrite, memGet_memWrite_outside _ _ (.inl (by omega))]
      simp
    | succ i =>
      have := ih (memSet m k b) (k + 1) i (by simpa using h)
      rw [memWrite, show k + (i + 1) = k + 1 + i by omega, this]
      rfl

/-- What was written is read back. -/
theorem memRead_memWrite (m : Tbl Byte) (k : Nat) (bs : Bytes) : memRead (memWrite m k bs) k bs.length = bs := by
  apply List.ext_getElem
  · simp [memRead]
  · intro i h1 h2
    simp [memRead, memGet_memWrite_inside m bs k i h2]

theorem wf_iff (m : Tbl Byte) : Memory.wf m = true ↔ tblRising m = true ∧ ∀ p ∈ m, p.2 ≠ 0 := by
  simp [Memory.wf]

/-- Writing a byte keeps the canonical form. -/
theorem wf_memSet {m : Tbl Byte} (h : Memory.wf m = true) (k : Nat) (b : Byte) : Memory.wf (memSet m k b) = true := by
  obtain ⟨r, z⟩ := (wf_iff m).1 h
  by_cases e : b = 0
  · rw [memSet, if_pos e]
    exact (wf_iff _).2 ⟨tblRising_tblDel r k, fun p hp => z p (mem_tblDel hp)⟩
  · rw [memSet, if_neg e]
    refine (wf_iff _).2 ⟨tblRising_tblSet r k b, fun p hp => ?_⟩
    rcases mem_tblSet hp with rfl | hp
    · exact e
    · exact z p hp

/-- Writing a string keeps the canonical form. -/
theorem wf_memWrite {m : Tbl Byte} (h : Memory.wf m = true) (k : Nat) (bs : Bytes) : Memory.wf (memWrite m k bs) = true := by
  induction bs generalizing m k with
  | nil => exact h
  | cons b bs ih => exact ih (wf_memSet h k b) (k + 1)

/-- Zeroing keeps the canonical form. -/
theorem wf_memZero {m : Tbl Byte} (h : Memory.wf m = true) (k n : Nat) : Memory.wf (memZero m k n) = true := by
  obtain ⟨r, z⟩ := (wf_iff m).1 h
  exact (wf_iff _).2 ⟨tblRising_filter r _, fun p hp => z p (List.mem_filter.1 hp).1⟩

end Sys2Proof.Machine
end

