-- ==== Sys2Proof/Laws/Bytes.lean ====
section
/-! SUPPORT. Byte strings and the standards' functions on them: which piece of a concatenation a read finds, the lengths that the
functions give, and that counter mode undoes itself. -/

namespace Sys2Proof.Machine

/-! ### Pieces -/

theorem piece_append_left (a b : Bytes) {i n : Nat} (h : i + n ≤ a.length) : piece (a ++ b) i n = piece a i n := by
  have h1 : ((a ++ b).drop i).take n = (a.drop i).take n := by
    rw [List.drop_append_of_le_length (by omega), List.take_append_of_le_length (by simp; omega)]
  simp only [piece, h1]

theorem piece_append_right (a b : Bytes) {i n : Nat} (h : a.length ≤ i) : piece (a ++ b) i n = piece b (i - a.length) n := by
  obtain ⟨j, rfl⟩ := Nat.exists_eq_add_of_le h
  simp [piece, List.drop_append, List.drop_eq_nil_of_le]

theorem piece_self (a : Bytes) {n : Nat} (h : a.length = n) : piece a 0 n = a := by
  subst h; simp [piece]

theorem piece_padTo (a : Bytes) {n i k : Nat} (h : i + k ≤ a.length) (hn : i + k ≤ n) : piece (padTo n a) i k = piece a i k := by
  have e : padTo n a = a.take n ++ List.replicate (n - min n a.length) 0 := by simp [padTo, piece]
  have t : ((a.take n).drop i).take k = (a.drop i).take k := by
    rw [List.drop_take, List.take_take]; congr 1; omega
  rw [e, piece_append_left _ _ (by simp; omega)]
  simp [piece, t]

theorem take_padTo (a : Bytes) {n : Nat} (h : a.length ≤ n) : (padTo n a).take a.length = a := by
  simp only [padTo, piece, List.drop_zero]
  rw [List.take_append_of_le_length, List.take_take]
  · exact List.take_of_length_le (by omega)
  · simp; omega

/-! ### Lengths -/

@[simp] theorem be_length (n v : Nat) : (be n v).length = n := by simp [be]

@[simp] theorem xorBytes_length (a b : Bytes) : (xorBytes a b).length = min a.length b.length := by simp [xorBytes]

theorem Sha2.round_length (f : Sha2) (v : List (BitVec f.w)) (x : BitVec f.w) : (f.round v x).length = v.length := by
  simp only [Sha2.round]; split <;> simp

theorem Sha2.rounds_length (f : Sha2) (xs v : List (BitVec f.w)) : (xs.foldl f.round v).length = v.length := by
  induction xs generalizing v with
  | nil => rfl
  | cons x xs ih => rw [List.foldl_cons, ih, Sha2.round_length]

theorem Sha2.blocks_length (f : Sha2) (bs : List Bytes) (h : List (BitVec f.w)) : (bs.foldl f.compress h).length = h.length := by
  induction bs generalizing h with
  | nil => rfl
  | cons b bs ih => rw [List.foldl_cons, ih]; simp [Sha2.compress, Sha2.rounds_length]

theorem startWords_length : startWords.length = 16 := by decide +kernel

theorem Sha2.digest_length (f : Sha2) (start : List Nat) (n : Nat) (m : Bytes) :
    (f.digest start n m).length = min n (start.length * (f.w / 8)) := by
  have h (l : List (BitVec f.w)) : (l.flatMap (fun x => be (f.w / 8) x.toNat)).length = l.length * (f.w / 8) := by
    induction l with
    | nil => simp
    | cons x l ih => rw [List.flatMap_cons, List.length_append, ih, be_length, List.length_cons, Nat.succ_mul, Nat.add_comm]
  simp only [Sha2.digest, List.length_take, h, Sha2.blocks_length, List.length_map]

/-- SHA-384 gives 48 bytes (FIPS 180-4). -/
@[simp] theorem sha384_length (m : Bytes) : (sha384 m).length = 48 := by
  simp [sha384, Sha2.digest_length, startWords_length, sha2of64]

/-! ### Counter mode -/

theorem xorBytes_twice : ∀ a s : Bytes, a.length ≤ s.length → xorBytes (xorBytes a s) s = a
  | [], s, _ => by cases s <;> rfl
  | x :: a, [], h => by simp at h
  | x :: a, y :: s, h => by
    simp only [xorBytes, List.zipWith_cons_cons, List.cons.injEq]
    exact ⟨by simp, xorBytes_twice a s (by simpa using h)⟩

/-- GCM's encryption undoes itself, where the stream covers the message (SP 800-38D). -/
theorem gcmCrypt_twice (k iv m : Bytes) {n : Nat} (h : m.length = n)
    (hs : n ≤ (ctrStream (aes k) 4 ((gcmStart k iv).take 12 ++ be 4 (numBe ((gcmStart k iv).drop 12) + 1)) ((n + 15) / 16)).length) :
    gcmCrypt k iv (gcmCrypt k iv m) = m := by
  have hc : (gcmCrypt k iv m).length = n := by
    simp only [gcmCrypt, ctrMode, xorBytes_length, h]
    exact Nat.min_eq_left hs
  simp only [gcmCrypt, ctrMode] at hc ⊢
  rw [hc, h]
  exact xorBytes_twice _ _ (by rw [h]; exact hs)

end Sys2Proof.Machine
end

