-- ==== Sys2Proof/Laws/State.lean ====
section
/-! SUPPORT. What each elementary update of the state writes and what it leaves: one lemma for each field and update. -/

namespace Sys2Proof.Machine

/-! ### State.setFn -/

@[simp] theorem State.setFn_pending (s : State) (f : Nat) (x : Fn) : (s.setFn f x).pending = s.pending := rfl
@[simp] theorem State.setFn_free (s : State) (f : Nat) (x : Fn) : (s.setFn f x).free = s.free := rfl
@[simp] theorem State.setFn_out (s : State) (f : Nat) (x : Fn) : (s.setFn f x).out = s.out := rfl
@[simp] theorem State.setFn_nextJob (s : State) (f : Nat) (x : Fn) : (s.setFn f x).nextJob = s.nextJob := rfl
@[simp] theorem State.setFn_clock (s : State) (f : Nat) (x : Fn) : (s.setFn f x).clock = s.clock := rfl
@[simp] theorem State.setFn_sched (s : State) (f : Nat) (x : Fn) : (s.setFn f x).sched = s.sched := rfl
@[simp] theorem State.setFn_trunk (s : State) (f : Nat) (x : Fn) : (s.setFn f x).trunk = s.trunk := rfl
@[simp] theorem State.setFn_fns (s : State) (f : Nat) (x : Fn) : (s.setFn f x).fns = tblSet s.fns f x := rfl
@[simp] theorem State.setFn_queues (s : State) (f : Nat) (x : Fn) : (s.setFn f x).queues = s.queues := rfl
@[simp] theorem State.setFn_jobs (s : State) (f : Nat) (x : Fn) : (s.setFn f x).jobs = s.jobs := rfl
@[simp] theorem State.setFn_posted (s : State) (f : Nat) (x : Fn) : (s.setFn f x).posted = s.posted := rfl
@[simp] theorem State.setFn_stage (s : State) (f : Nat) (x : Fn) : (s.setFn f x).stage = s.stage := rfl
@[simp] theorem State.setFn_groveA (s : State) (f : Nat) (x : Fn) : (s.setFn f x).groveA = s.groveA := rfl
@[simp] theorem State.setFn_groveB (s : State) (f : Nat) (x : Fn) : (s.setFn f x).groveB = s.groveB := rfl
@[simp] theorem State.setFn_cells (s : State) (f : Nat) (x : Fn) : (s.setFn f x).cells = s.cells := rfl
@[simp] theorem State.setFn_mem (s : State) (f : Nat) (x : Fn) : (s.setFn f x).mem = s.mem := rfl
@[simp] theorem State.setFn_dramBad (s : State) (f : Nat) (x : Fn) : (s.setFn f x).dramBad = s.dramBad := rfl
@[simp] theorem State.setFn_sessions (s : State) (f : Nat) (x : Fn) : (s.setFn f x).sessions = s.sessions := rfl
@[simp] theorem State.setFn_parts (s : State) (f : Nat) (x : Fn) : (s.setFn f x).parts = s.parts := rfl
@[simp] theorem State.setFn_heart (s : State) (f : Nat) (x : Fn) : (s.setFn f x).heart = s.heart := rfl
@[simp] theorem State.setFn_seed (s : State) (f : Nat) (x : Fn) : (s.setFn f x).seed = s.seed := rfl
@[simp] theorem State.setFn_bark (s : State) (f : Nat) (x : Fn) : (s.setFn f x).bark = s.bark := rfl
@[simp] theorem State.setFn_log (s : State) (f : Nat) (x : Fn) : (s.setFn f x).log = s.log := rfl
@[simp] theorem State.setFn_flash (s : State) (f : Nat) (x : Fn) : (s.setFn f x).flash = s.flash := rfl
@[simp] theorem State.setFn_twin (s : State) (f : Nat) (x : Fn) : (s.setFn f x).twin = s.twin := rfl
@[simp] theorem State.setFn_sd (s : State) (f : Nat) (x : Fn) : (s.setFn f x).sd = s.sd := rfl
@[simp] theorem State.setFn_icc (s : State) (f : Nat) (x : Fn) : (s.setFn f x).icc = s.icc := rfl
@[simp] theorem State.setFn_rf (s : State) (f : Nat) (x : Fn) : (s.setFn f x).rf = s.rf := rfl
@[simp] theorem State.setFn_elec (s : State) (f : Nat) (x : Fn) : (s.setFn f x).elec = s.elec := rfl

/-! ### State.setCell -/

@[simp] theorem State.setCell_pending (s : State) (c : Nat) (x : Cell) : (s.setCell c x).pending = s.pending := rfl
@[simp] theorem State.setCell_free (s : State) (c : Nat) (x : Cell) : (s.setCell c x).free = s.free := rfl
@[simp] theorem State.setCell_out (s : State) (c : Nat) (x : Cell) : (s.setCell c x).out = s.out := rfl
@[simp] theorem State.setCell_nextJob (s : State) (c : Nat) (x : Cell) : (s.setCell c x).nextJob = s.nextJob := rfl
@[simp] theorem State.setCell_clock (s : State) (c : Nat) (x : Cell) : (s.setCell c x).clock = s.clock := rfl
@[simp] theorem State.setCell_sched (s : State) (c : Nat) (x : Cell) : (s.setCell c x).sched = s.sched := rfl
@[simp] theorem State.setCell_trunk (s : State) (c : Nat) (x : Cell) : (s.setCell c x).trunk = s.trunk := rfl
@[simp] theorem State.setCell_fns (s : State) (c : Nat) (x : Cell) : (s.setCell c x).fns = s.fns := rfl
@[simp] theorem State.setCell_queues (s : State) (c : Nat) (x : Cell) : (s.setCell c x).queues = s.queues := rfl
@[simp] theorem State.setCell_jobs (s : State) (c : Nat) (x : Cell) : (s.setCell c x).jobs = s.jobs := rfl
@[simp] theorem State.setCell_posted (s : State) (c : Nat) (x : Cell) : (s.setCell c x).posted = s.posted := rfl
@[simp] theorem State.setCell_stage (s : State) (c : Nat) (x : Cell) : (s.setCell c x).stage = s.stage := rfl
@[simp] theorem State.setCell_groveA (s : State) (c : Nat) (x : Cell) : (s.setCell c x).groveA = s.groveA := rfl
@[simp] theorem State.setCell_groveB (s : State) (c : Nat) (x : Cell) : (s.setCell c x).groveB = s.groveB := rfl
@[simp] theorem State.setCell_cells (s : State) (c : Nat) (x : Cell) : (s.setCell c x).cells = tblSet s.cells c x := rfl
@[simp] theorem State.setCell_mem (s : State) (c : Nat) (x : Cell) : (s.setCell c x).mem = s.mem := rfl
@[simp] theorem State.setCell_dramBad (s : State) (c : Nat) (x : Cell) : (s.setCell c x).dramBad = s.dramBad := rfl
@[simp] theorem State.setCell_sessions (s : State) (c : Nat) (x : Cell) : (s.setCell c x).sessions = s.sessions := rfl
@[simp] theorem State.setCell_parts (s : State) (c : Nat) (x : Cell) : (s.setCell c x).parts = s.parts := rfl
@[simp] theorem State.setCell_heart (s : State) (c : Nat) (x : Cell) : (s.setCell c x).heart = s.heart := rfl
@[simp] theorem State.setCell_seed (s : State) (c : Nat) (x : Cell) : (s.setCell c x).seed = s.seed := rfl
@[simp] theorem State.setCell_bark (s : State) (c : Nat) (x : Cell) : (s.setCell c x).bark = s.bark := rfl
@[simp] theorem State.setCell_log (s : State) (c : Nat) (x : Cell) : (s.setCell c x).log = s.log := rfl
@[simp] theorem State.setCell_flash (s : State) (c : Nat) (x : Cell) : (s.setCell c x).flash = s.flash := rfl
@[simp] theorem State.setCell_twin (s : State) (c : Nat) (x : Cell) : (s.setCell c x).twin = s.twin := rfl
@[simp] theorem State.setCell_sd (s : State) (c : Nat) (x : Cell) : (s.setCell c x).sd = s.sd := rfl
@[simp] theorem State.setCell_icc (s : State) (c : Nat) (x : Cell) : (s.setCell c x).icc = s.icc := rfl
@[simp] theorem State.setCell_rf (s : State) (c : Nat) (x : Cell) : (s.setCell c x).rf = s.rf := rfl
@[simp] theorem State.setCell_elec (s : State) (c : Nat) (x : Cell) : (s.setCell c x).elec = s.elec := rfl

/-! ### State.setPart -/

@[simp] theorem State.setPart_pending (s : State) (p : Nat) (x : Part) : (s.setPart p x).pending = s.pending := rfl
@[simp] theorem State.setPart_free (s : State) (p : Nat) (x : Part) : (s.setPart p x).free = s.free := rfl
@[simp] theorem State.setPart_out (s : State) (p : Nat) (x : Part) : (s.setPart p x).out = s.out := rfl
@[simp] theorem State.setPart_nextJob (s : State) (p : Nat) (x : Part) : (s.setPart p x).nextJob = s.nextJob := rfl
@[simp] theorem State.setPart_clock (s : State) (p : Nat) (x : Part) : (s.setPart p x).clock = s.clock := rfl
@[simp] theorem State.setPart_sched (s : State) (p : Nat) (x : Part) : (s.setPart p x).sched = s.sched := rfl
@[simp] theorem State.setPart_trunk (s : State) (p : Nat) (x : Part) : (s.setPart p x).trunk = s.trunk := rfl
@[simp] theorem State.setPart_fns (s : State) (p : Nat) (x : Part) : (s.setPart p x).fns = s.fns := rfl
@[simp] theorem State.setPart_queues (s : State) (p : Nat) (x : Part) : (s.setPart p x).queues = s.queues := rfl
@[simp] theorem State.setPart_jobs (s : State) (p : Nat) (x : Part) : (s.setPart p x).jobs = s.jobs := rfl
@[simp] theorem State.setPart_posted (s : State) (p : Nat) (x : Part) : (s.setPart p x).posted = s.posted := rfl
@[simp] theorem State.setPart_stage (s : State) (p : Nat) (x : Part) : (s.setPart p x).stage = s.stage := rfl
@[simp] theorem State.setPart_groveA (s : State) (p : Nat) (x : Part) : (s.setPart p x).groveA = s.groveA := rfl
@[simp] theorem State.setPart_groveB (s : State) (p : Nat) (x : Part) : (s.setPart p x).groveB = s.groveB := rfl
@[simp] theorem State.setPart_cells (s : State) (p : Nat) (x : Part) : (s.setPart p x).cells = s.cells := rfl
@[simp] theorem State.setPart_mem (s : State) (p : Nat) (x : Part) : (s.setPart p x).mem = s.mem := rfl
@[simp] theorem State.setPart_dramBad (s : State) (p : Nat) (x : Part) : (s.setPart p x).dramBad = s.dramBad := rfl
@[simp] theorem State.setPart_sessions (s : State) (p : Nat) (x : Part) : (s.setPart p x).sessions = s.sessions := rfl
@[simp] theorem State.setPart_parts (s : State) (p : Nat) (x : Part) : (s.setPart p x).parts = tblSet s.parts p x := rfl
@[simp] theorem State.setPart_heart (s : State) (p : Nat) (x : Part) : (s.setPart p x).heart = s.heart := rfl
@[simp] theorem State.setPart_seed (s : State) (p : Nat) (x : Part) : (s.setPart p x).seed = s.seed := rfl
@[simp] theorem State.setPart_bark (s : State) (p : Nat) (x : Part) : (s.setPart p x).bark = s.bark := rfl
@[simp] theorem State.setPart_log (s : State) (p : Nat) (x : Part) : (s.setPart p x).log = s.log := rfl
@[simp] theorem State.setPart_flash (s : State) (p : Nat) (x : Part) : (s.setPart p x).flash = s.flash := rfl
@[simp] theorem State.setPart_twin (s : State) (p : Nat) (x : Part) : (s.setPart p x).twin = s.twin := rfl
@[simp] theorem State.setPart_sd (s : State) (p : Nat) (x : Part) : (s.setPart p x).sd = s.sd := rfl
@[simp] theorem State.setPart_icc (s : State) (p : Nat) (x : Part) : (s.setPart p x).icc = s.icc := rfl
@[simp] theorem State.setPart_rf (s : State) (p : Nat) (x : Part) : (s.setPart p x).rf = s.rf := rfl
@[simp] theorem State.setPart_elec (s : State) (p : Nat) (x : Part) : (s.setPart p x).elec = s.elec := rfl

/-! ### State.setQueue -/

@[simp] theorem State.setQueue_pending (s : State) (k : Nat) (x : Queue) : (s.setQueue k x).pending = s.pending := rfl
@[simp] theorem State.setQueue_free (s : State) (k : Nat) (x : Queue) : (s.setQueue k x).free = s.free := rfl
@[simp] theorem State.setQueue_out (s : State) (k : Nat) (x : Queue) : (s.setQueue k x).out = s.out := rfl
@[simp] theorem State.setQueue_nextJob (s : State) (k : Nat) (x : Queue) : (s.setQueue k x).nextJob = s.nextJob := rfl
@[simp] theorem State.setQueue_clock (s : State) (k : Nat) (x : Queue) : (s.setQueue k x).clock = s.clock := rfl
@[simp] theorem State.setQueue_sched (s : State) (k : Nat) (x : Queue) : (s.setQueue k x).sched = s.sched := rfl
@[simp] theorem State.setQueue_trunk (s : State) (k : Nat) (x : Queue) : (s.setQueue k x).trunk = s.trunk := rfl
@[simp] theorem State.setQueue_fns (s : State) (k : Nat) (x : Queue) : (s.setQueue k x).fns = s.fns := rfl
@[simp] theorem State.setQueue_queues (s : State) (k : Nat) (x : Queue) : (s.setQueue k x).queues = tblSet s.queues k x := rfl
@[simp] theorem State.setQueue_jobs (s : State) (k : Nat) (x : Queue) : (s.setQueue k x).jobs = s.jobs := rfl
@[simp] theorem State.setQueue_posted (s : State) (k : Nat) (x : Queue) : (s.setQueue k x).posted = s.posted := rfl
@[simp] theorem State.setQueue_stage (s : State) (k : Nat) (x : Queue) : (s.setQueue k x).stage = s.stage := rfl
@[simp] theorem State.setQueue_groveA (s : State) (k : Nat) (x : Queue) : (s.setQueue k x).groveA = s.groveA := rfl
@[simp] theorem State.setQueue_groveB (s : State) (k : Nat) (x : Queue) : (s.setQueue k x).groveB = s.groveB := rfl
@[simp] theorem State.setQueue_cells (s : State) (k : Nat) (x : Queue) : (s.setQueue k x).cells = s.cells := rfl
@[simp] theorem State.setQueue_mem (s : State) (k : Nat) (x : Queue) : (s.setQueue k x).mem = s.mem := rfl
@[simp] theorem State.setQueue_dramBad (s : State) (k : Nat) (x : Queue) : (s.setQueue k x).dramBad = s.dramBad := rfl
@[simp] theorem State.setQueue_sessions (s : State) (k : Nat) (x : Queue) : (s.setQueue k x).sessions = s.sessions := rfl
@[simp] theorem State.setQueue_parts (s : State) (k : Nat) (x : Queue) : (s.setQueue k x).parts = s.parts := rfl
@[simp] theorem State.setQueue_heart (s : State) (k : Nat) (x : Queue) : (s.setQueue k x).heart = s.heart := rfl
@[simp] theorem State.setQueue_seed (s : State) (k : Nat) (x : Queue) : (s.setQueue k x).seed = s.seed := rfl
@[simp] theorem State.setQueue_bark (s : State) (k : Nat) (x : Queue) : (s.setQueue k x).bark = s.bark := rfl
@[simp] theorem State.setQueue_log (s : State) (k : Nat) (x : Queue) : (s.setQueue k x).log = s.log := rfl
@[simp] theorem State.setQueue_flash (s : State) (k : Nat) (x : Queue) : (s.setQueue k x).flash = s.flash := rfl
@[simp] theorem State.setQueue_twin (s : State) (k : Nat) (x : Queue) : (s.setQueue k x).twin = s.twin := rfl
@[simp] theorem State.setQueue_sd (s : State) (k : Nat) (x : Queue) : (s.setQueue k x).sd = s.sd := rfl
@[simp] theorem State.setQueue_icc (s : State) (k : Nat) (x : Queue) : (s.setQueue k x).icc = s.icc := rfl
@[simp] theorem State.setQueue_rf (s : State) (k : Nat) (x : Queue) : (s.setQueue k x).rf = s.rf := rfl
@[simp] theorem State.setQueue_elec (s : State) (k : Nat) (x : Queue) : (s.setQueue k x).elec = s.elec := rfl

/-! ### State.delQueue -/

@[simp] theorem State.delQueue_pending (s : State) (k : Nat) : (s.delQueue k).pending = s.pending := rfl
@[simp] theorem State.delQueue_free (s : State) (k : Nat) : (s.delQueue k).free = s.free := rfl
@[simp] theorem State.delQueue_out (s : State) (k : Nat) : (s.delQueue k).out = s.out := rfl
@[simp] theorem State.delQueue_nextJob (s : State) (k : Nat) : (s.delQueue k).nextJob = s.nextJob := rfl
@[simp] theorem State.delQueue_clock (s : State) (k : Nat) : (s.delQueue k).clock = s.clock := rfl
@[simp] theorem State.delQueue_sched (s : State) (k : Nat) : (s.delQueue k).sched = s.sched := rfl
@[simp] theorem State.delQueue_trunk (s : State) (k : Nat) : (s.delQueue k).trunk = s.trunk := rfl
@[simp] theorem State.delQueue_fns (s : State) (k : Nat) : (s.delQueue k).fns = s.fns := rfl
@[simp] theorem State.delQueue_queues (s : State) (k : Nat) : (s.delQueue k).queues = tblDel s.queues k := rfl
@[simp] theorem State.delQueue_jobs (s : State) (k : Nat) : (s.delQueue k).jobs = s.jobs := rfl
@[simp] theorem State.delQueue_posted (s : State) (k : Nat) : (s.delQueue k).posted = s.posted := rfl
@[simp] theorem State.delQueue_stage (s : State) (k : Nat) : (s.delQueue k).stage = s.stage := rfl
@[simp] theorem State.delQueue_groveA (s : State) (k : Nat) : (s.delQueue k).groveA = s.groveA := rfl
@[simp] theorem State.delQueue_groveB (s : State) (k : Nat) : (s.delQueue k).groveB = s.groveB := rfl
@[simp] theorem State.delQueue_cells (s : State) (k : Nat) : (s.delQueue k).cells = s.cells := rfl
@[simp] theorem State.delQueue_mem (s : State) (k : Nat) : (s.delQueue k).mem = s.mem := rfl
@[simp] theorem State.delQueue_dramBad (s : State) (k : Nat) : (s.delQueue k).dramBad = s.dramBad := rfl
@[simp] theorem State.delQueue_sessions (s : State) (k : Nat) : (s.delQueue k).sessions = s.sessions := rfl
@[simp] theorem State.delQueue_parts (s : State) (k : Nat) : (s.delQueue k).parts = s.parts := rfl
@[simp] theorem State.delQueue_heart (s : State) (k : Nat) : (s.delQueue k).heart = s.heart := rfl
@[simp] theorem State.delQueue_seed (s : State) (k : Nat) : (s.delQueue k).seed = s.seed := rfl
@[simp] theorem State.delQueue_bark (s : State) (k : Nat) : (s.delQueue k).bark = s.bark := rfl
@[simp] theorem State.delQueue_log (s : State) (k : Nat) : (s.delQueue k).log = s.log := rfl
@[simp] theorem State.delQueue_flash (s : State) (k : Nat) : (s.delQueue k).flash = s.flash := rfl
@[simp] theorem State.delQueue_twin (s : State) (k : Nat) : (s.delQueue k).twin = s.twin := rfl
@[simp] theorem State.delQueue_sd (s : State) (k : Nat) : (s.delQueue k).sd = s.sd := rfl
@[simp] theorem State.delQueue_icc (s : State) (k : Nat) : (s.delQueue k).icc = s.icc := rfl
@[simp] theorem State.delQueue_rf (s : State) (k : Nat) : (s.delQueue k).rf = s.rf := rfl
@[simp] theorem State.delQueue_elec (s : State) (k : Nat) : (s.delQueue k).elec = s.elec := rfl

/-! ### State.setJob -/

@[simp] theorem State.setJob_pending (s : State) (j : Nat) (x : Job) : (s.setJob j x).pending = s.pending := rfl
@[simp] theorem State.setJob_free (s : State) (j : Nat) (x : Job) : (s.setJob j x).free = s.free := rfl
@[simp] theorem State.setJob_out (s : State) (j : Nat) (x : Job) : (s.setJob j x).out = s.out := rfl
@[simp] theorem State.setJob_nextJob (s : State) (j : Nat) (x : Job) : (s.setJob j x).nextJob = s.nextJob := rfl
@[simp] theorem State.setJob_clock (s : State) (j : Nat) (x : Job) : (s.setJob j x).clock = s.clock := rfl
@[simp] theorem State.setJob_sched (s : State) (j : Nat) (x : Job) : (s.setJob j x).sched = s.sched := rfl
@[simp] theorem State.setJob_trunk (s : State) (j : Nat) (x : Job) : (s.setJob j x).trunk = s.trunk := rfl
@[simp] theorem State.setJob_fns (s : State) (j : Nat) (x : Job) : (s.setJob j x).fns = s.fns := rfl
@[simp] theorem State.setJob_queues (s : State) (j : Nat) (x : Job) : (s.setJob j x).queues = s.queues := rfl
@[simp] theorem State.setJob_jobs (s : State) (j : Nat) (x : Job) : (s.setJob j x).jobs = tblSet s.jobs j x := rfl
@[simp] theorem State.setJob_posted (s : State) (j : Nat) (x : Job) : (s.setJob j x).posted = s.posted := rfl
@[simp] theorem State.setJob_stage (s : State) (j : Nat) (x : Job) : (s.setJob j x).stage = s.stage := rfl
@[simp] theorem State.setJob_groveA (s : State) (j : Nat) (x : Job) : (s.setJob j x).groveA = s.groveA := rfl
@[simp] theorem State.setJob_groveB (s : State) (j : Nat) (x : Job) : (s.setJob j x).groveB = s.groveB := rfl
@[simp] theorem State.setJob_cells (s : State) (j : Nat) (x : Job) : (s.setJob j x).cells = s.cells := rfl
@[simp] theorem State.setJob_mem (s : State) (j : Nat) (x : Job) : (s.setJob j x).mem = s.mem := rfl
@[simp] theorem State.setJob_dramBad (s : State) (j : Nat) (x : Job) : (s.setJob j x).dramBad = s.dramBad := rfl
@[simp] theorem State.setJob_sessions (s : State) (j : Nat) (x : Job) : (s.setJob j x).sessions = s.sessions := rfl
@[simp] theorem State.setJob_parts (s : State) (j : Nat) (x : Job) : (s.setJob j x).parts = s.parts := rfl
@[simp] theorem State.setJob_heart (s : State) (j : Nat) (x : Job) : (s.setJob j x).heart = s.heart := rfl
@[simp] theorem State.setJob_seed (s : State) (j : Nat) (x : Job) : (s.setJob j x).seed = s.seed := rfl
@[simp] theorem State.setJob_bark (s : State) (j : Nat) (x : Job) : (s.setJob j x).bark = s.bark := rfl
@[simp] theorem State.setJob_log (s : State) (j : Nat) (x : Job) : (s.setJob j x).log = s.log := rfl
@[simp] theorem State.setJob_flash (s : State) (j : Nat) (x : Job) : (s.setJob j x).flash = s.flash := rfl
@[simp] theorem State.setJob_twin (s : State) (j : Nat) (x : Job) : (s.setJob j x).twin = s.twin := rfl
@[simp] theorem State.setJob_sd (s : State) (j : Nat) (x : Job) : (s.setJob j x).sd = s.sd := rfl
@[simp] theorem State.setJob_icc (s : State) (j : Nat) (x : Job) : (s.setJob j x).icc = s.icc := rfl
@[simp] theorem State.setJob_rf (s : State) (j : Nat) (x : Job) : (s.setJob j x).rf = s.rf := rfl
@[simp] theorem State.setJob_elec (s : State) (j : Nat) (x : Job) : (s.setJob j x).elec = s.elec := rfl

/-! ### State.delJob -/

@[simp] theorem State.delJob_pending (s : State) (j : Nat) : (s.delJob j).pending = s.pending := rfl
@[simp] theorem State.delJob_free (s : State) (j : Nat) : (s.delJob j).free = s.free := rfl
@[simp] theorem State.delJob_out (s : State) (j : Nat) : (s.delJob j).out = s.out := rfl
@[simp] theorem State.delJob_nextJob (s : State) (j : Nat) : (s.delJob j).nextJob = s.nextJob := rfl
@[simp] theorem State.delJob_clock (s : State) (j : Nat) : (s.delJob j).clock = s.clock := rfl
@[simp] theorem State.delJob_sched (s : State) (j : Nat) : (s.delJob j).sched = s.sched := rfl
@[simp] theorem State.delJob_trunk (s : State) (j : Nat) : (s.delJob j).trunk = s.trunk := rfl
@[simp] theorem State.delJob_fns (s : State) (j : Nat) : (s.delJob j).fns = s.fns := rfl
@[simp] theorem State.delJob_queues (s : State) (j : Nat) : (s.delJob j).queues = s.queues := rfl
@[simp] theorem State.delJob_jobs (s : State) (j : Nat) : (s.delJob j).jobs = tblDel s.jobs j := rfl
@[simp] theorem State.delJob_posted (s : State) (j : Nat) : (s.delJob j).posted = s.posted := rfl
@[simp] theorem State.delJob_stage (s : State) (j : Nat) : (s.delJob j).stage = s.stage := rfl
@[simp] theorem State.delJob_groveA (s : State) (j : Nat) : (s.delJob j).groveA = s.groveA := rfl
@[simp] theorem State.delJob_groveB (s : State) (j : Nat) : (s.delJob j).groveB = s.groveB := rfl
@[simp] theorem State.delJob_cells (s : State) (j : Nat) : (s.delJob j).cells = s.cells := rfl
@[simp] theorem State.delJob_mem (s : State) (j : Nat) : (s.delJob j).mem = s.mem := rfl
@[simp] theorem State.delJob_dramBad (s : State) (j : Nat) : (s.delJob j).dramBad = s.dramBad := rfl
@[simp] theorem State.delJob_sessions (s : State) (j : Nat) : (s.delJob j).sessions = s.sessions := rfl
@[simp] theorem State.delJob_parts (s : State) (j : Nat) : (s.delJob j).parts = s.parts := rfl
@[simp] theorem State.delJob_heart (s : State) (j : Nat) : (s.delJob j).heart = s.heart := rfl
@[simp] theorem State.delJob_seed (s : State) (j : Nat) : (s.delJob j).seed = s.seed := rfl
@[simp] theorem State.delJob_bark (s : State) (j : Nat) : (s.delJob j).bark = s.bark := rfl
@[simp] theorem State.delJob_log (s : State) (j : Nat) : (s.delJob j).log = s.log := rfl
@[simp] theorem State.delJob_flash (s : State) (j : Nat) : (s.delJob j).flash = s.flash := rfl
@[simp] theorem State.delJob_twin (s : State) (j : Nat) : (s.delJob j).twin = s.twin := rfl
@[simp] theorem State.delJob_sd (s : State) (j : Nat) : (s.delJob j).sd = s.sd := rfl
@[simp] theorem State.delJob_icc (s : State) (j : Nat) : (s.delJob j).icc = s.icc := rfl
@[simp] theorem State.delJob_rf (s : State) (j : Nat) : (s.delJob j).rf = s.rf := rfl
@[simp] theorem State.delJob_elec (s : State) (j : Nat) : (s.delJob j).elec = s.elec := rfl

/-! ### State.setSlot -/

@[simp] theorem State.setSlot_pending (s : State) (n : Nat) (x : Slot) : (s.setSlot n x).pending = s.pending := rfl
@[simp] theorem State.setSlot_free (s : State) (n : Nat) (x : Slot) : (s.setSlot n x).free = s.free := rfl
@[simp] theorem State.setSlot_out (s : State) (n : Nat) (x : Slot) : (s.setSlot n x).out = s.out := rfl
@[simp] theorem State.setSlot_nextJob (s : State) (n : Nat) (x : Slot) : (s.setSlot n x).nextJob = s.nextJob := rfl
@[simp] theorem State.setSlot_clock (s : State) (n : Nat) (x : Slot) : (s.setSlot n x).clock = s.clock := rfl
@[simp] theorem State.setSlot_sched (s : State) (n : Nat) (x : Slot) : (s.setSlot n x).sched = s.sched := rfl
@[simp] theorem State.setSlot_trunk (s : State) (n : Nat) (x : Slot) : (s.setSlot n x).trunk = s.trunk := rfl
@[simp] theorem State.setSlot_fns (s : State) (n : Nat) (x : Slot) : (s.setSlot n x).fns = s.fns := rfl
@[simp] theorem State.setSlot_queues (s : State) (n : Nat) (x : Slot) : (s.setSlot n x).queues = s.queues := rfl
@[simp] theorem State.setSlot_jobs (s : State) (n : Nat) (x : Slot) : (s.setSlot n x).jobs = s.jobs := rfl
@[simp] theorem State.setSlot_posted (s : State) (n : Nat) (x : Slot) : (s.setSlot n x).posted = s.posted := rfl
@[simp] theorem State.setSlot_stage (s : State) (n : Nat) (x : Slot) : (s.setSlot n x).stage = s.stage := rfl
@[simp] theorem State.setSlot_groveA (s : State) (n : Nat) (x : Slot) : (s.setSlot n x).groveA = s.groveA := rfl
@[simp] theorem State.setSlot_groveB (s : State) (n : Nat) (x : Slot) : (s.setSlot n x).groveB = s.groveB := rfl
@[simp] theorem State.setSlot_cells (s : State) (n : Nat) (x : Slot) : (s.setSlot n x).cells = s.cells := rfl
@[simp] theorem State.setSlot_mem (s : State) (n : Nat) (x : Slot) : (s.setSlot n x).mem = s.mem := rfl
@[simp] theorem State.setSlot_dramBad (s : State) (n : Nat) (x : Slot) : (s.setSlot n x).dramBad = s.dramBad := rfl
@[simp] theorem State.setSlot_sessions (s : State) (n : Nat) (x : Slot) : (s.setSlot n x).sessions = s.sessions := rfl
@[simp] theorem State.setSlot_parts (s : State) (n : Nat) (x : Slot) : (s.setSlot n x).parts = s.parts := rfl
@[simp] theorem State.setSlot_heart (s : State) (n : Nat) (x : Slot) : (s.setSlot n x).heart = { s.heart with slots := tblSet s.heart.slots n x } := rfl
@[simp] theorem State.setSlot_seed (s : State) (n : Nat) (x : Slot) : (s.setSlot n x).seed = s.seed := rfl
@[simp] theorem State.setSlot_bark (s : State) (n : Nat) (x : Slot) : (s.setSlot n x).bark = s.bark := rfl
@[simp] theorem State.setSlot_log (s : State) (n : Nat) (x : Slot) : (s.setSlot n x).log = s.log := rfl
@[simp] theorem State.setSlot_flash (s : State) (n : Nat) (x : Slot) : (s.setSlot n x).flash = s.flash := rfl
@[simp] theorem State.setSlot_twin (s : State) (n : Nat) (x : Slot) : (s.setSlot n x).twin = s.twin := rfl
@[simp] theorem State.setSlot_sd (s : State) (n : Nat) (x : Slot) : (s.setSlot n x).sd = s.sd := rfl
@[simp] theorem State.setSlot_icc (s : State) (n : Nat) (x : Slot) : (s.setSlot n x).icc = s.icc := rfl
@[simp] theorem State.setSlot_rf (s : State) (n : Nat) (x : Slot) : (s.setSlot n x).rf = s.rf := rfl
@[simp] theorem State.setSlot_elec (s : State) (n : Nat) (x : Slot) : (s.setSlot n x).elec = s.elec := rfl

/-! ### State.setMaster -/

@[simp] theorem State.setMaster_pending (s : State) (p i : Nat) (x : Master) : (s.setMaster p i x).pending = s.pending := rfl
@[simp] theorem State.setMaster_free (s : State) (p i : Nat) (x : Master) : (s.setMaster p i x).free = s.free := rfl
@[simp] theorem State.setMaster_out (s : State) (p i : Nat) (x : Master) : (s.setMaster p i x).out = s.out := rfl
@[simp] theorem State.setMaster_nextJob (s : State) (p i : Nat) (x : Master) : (s.setMaster p i x).nextJob = s.nextJob := rfl
@[simp] theorem State.setMaster_clock (s : State) (p i : Nat) (x : Master) : (s.setMaster p i x).clock = s.clock := rfl
@[simp] theorem State.setMaster_sched (s : State) (p i : Nat) (x : Master) : (s.setMaster p i x).sched = s.sched := rfl
@[simp] theorem State.setMaster_trunk (s : State) (p i : Nat) (x : Master) : (s.setMaster p i x).trunk = s.trunk := rfl
@[simp] theorem State.setMaster_fns (s : State) (p i : Nat) (x : Master) : (s.setMaster p i x).fns = s.fns := rfl
@[simp] theorem State.setMaster_queues (s : State) (p i : Nat) (x : Master) : (s.setMaster p i x).queues = s.queues := rfl
@[simp] theorem State.setMaster_jobs (s : State) (p i : Nat) (x : Master) : (s.setMaster p i x).jobs = s.jobs := rfl
@[simp] theorem State.setMaster_posted (s : State) (p i : Nat) (x : Master) : (s.setMaster p i x).posted = s.posted := rfl
@[simp] theorem State.setMaster_stage (s : State) (p i : Nat) (x : Master) : (s.setMaster p i x).stage = s.stage := rfl
@[simp] theorem State.setMaster_groveA (s : State) (p i : Nat) (x : Master) : (s.setMaster p i x).groveA = s.groveA := rfl
@[simp] theorem State.setMaster_groveB (s : State) (p i : Nat) (x : Master) : (s.setMaster p i x).groveB = s.groveB := rfl
@[simp] theorem State.setMaster_cells (s : State) (p i : Nat) (x : Master) : (s.setMaster p i x).cells = s.cells := rfl
@[simp] theorem State.setMaster_mem (s : State) (p i : Nat) (x : Master) : (s.setMaster p i x).mem = s.mem := rfl
@[simp] theorem State.setMaster_dramBad (s : State) (p i : Nat) (x : Master) : (s.setMaster p i x).dramBad = s.dramBad := rfl
@[simp] theorem State.setMaster_sessions (s : State) (p i : Nat) (x : Master) : (s.setMaster p i x).sessions = s.sessions := rfl
@[simp] theorem State.setMaster_parts (s : State) (p i : Nat) (x : Master) : (s.setMaster p i x).parts = s.parts := rfl
@[simp] theorem State.setMaster_heart (s : State) (p i : Nat) (x : Master) : (s.setMaster p i x).heart = { s.heart with masters := tblSet s.heart.masters (p * 8 + i) x } := rfl
@[simp] theorem State.setMaster_seed (s : State) (p i : Nat) (x : Master) : (s.setMaster p i x).seed = s.seed := rfl
@[simp] theorem State.setMaster_bark (s : State) (p i : Nat) (x : Master) : (s.setMaster p i x).bark = s.bark := rfl
@[simp] theorem State.setMaster_log (s : State) (p i : Nat) (x : Master) : (s.setMaster p i x).log = s.log := rfl
@[simp] theorem State.setMaster_flash (s : State) (p i : Nat) (x : Master) : (s.setMaster p i x).flash = s.flash := rfl
@[simp] theorem State.setMaster_twin (s : State) (p i : Nat) (x : Master) : (s.setMaster p i x).twin = s.twin := rfl
@[simp] theorem State.setMaster_sd (s : State) (p i : Nat) (x : Master) : (s.setMaster p i x).sd = s.sd := rfl
@[simp] theorem State.setMaster_icc (s : State) (p i : Nat) (x : Master) : (s.setMaster p i x).icc = s.icc := rfl
@[simp] theorem State.setMaster_rf (s : State) (p i : Nat) (x : Master) : (s.setMaster p i x).rf = s.rf := rfl
@[simp] theorem State.setMaster_elec (s : State) (p i : Nat) (x : Master) : (s.setMaster p i x).elec = s.elec := rfl

/-! ### State.setSession -/

@[simp] theorem State.setSession_pending (s : State) (h : Nat) (x : Session) : (s.setSession h x).pending = s.pending := rfl
@[simp] theorem State.setSession_free (s : State) (h : Nat) (x : Session) : (s.setSession h x).free = s.free := rfl
@[simp] theorem State.setSession_out (s : State) (h : Nat) (x : Session) : (s.setSession h x).out = s.out := rfl
@[simp] theorem State.setSession_nextJob (s : State) (h : Nat) (x : Session) : (s.setSession h x).nextJob = s.nextJob := rfl
@[simp] theorem State.setSession_clock (s : State) (h : Nat) (x : Session) : (s.setSession h x).clock = s.clock := rfl
@[simp] theorem State.setSession_sched (s : State) (h : Nat) (x : Session) : (s.setSession h x).sched = s.sched := rfl
@[simp] theorem State.setSession_trunk (s : State) (h : Nat) (x : Session) : (s.setSession h x).trunk = s.trunk := rfl
@[simp] theorem State.setSession_fns (s : State) (h : Nat) (x : Session) : (s.setSession h x).fns = s.fns := rfl
@[simp] theorem State.setSession_queues (s : State) (h : Nat) (x : Session) : (s.setSession h x).queues = s.queues := rfl
@[simp] theorem State.setSession_jobs (s : State) (h : Nat) (x : Session) : (s.setSession h x).jobs = s.jobs := rfl
@[simp] theorem State.setSession_posted (s : State) (h : Nat) (x : Session) : (s.setSession h x).posted = s.posted := rfl
@[simp] theorem State.setSession_stage (s : State) (h : Nat) (x : Session) : (s.setSession h x).stage = s.stage := rfl
@[simp] theorem State.setSession_groveA (s : State) (h : Nat) (x : Session) : (s.setSession h x).groveA = s.groveA := rfl
@[simp] theorem State.setSession_groveB (s : State) (h : Nat) (x : Session) : (s.setSession h x).groveB = s.groveB := rfl
@[simp] theorem State.setSession_cells (s : State) (h : Nat) (x : Session) : (s.setSession h x).cells = s.cells := rfl
@[simp] theorem State.setSession_mem (s : State) (h : Nat) (x : Session) : (s.setSession h x).mem = s.mem := rfl
@[simp] theorem State.setSession_dramBad (s : State) (h : Nat) (x : Session) : (s.setSession h x).dramBad = s.dramBad := rfl
@[simp] theorem State.setSession_sessions (s : State) (h : Nat) (x : Session) : (s.setSession h x).sessions = tblSet s.sessions h x := rfl
@[simp] theorem State.setSession_parts (s : State) (h : Nat) (x : Session) : (s.setSession h x).parts = s.parts := rfl
@[simp] theorem State.setSession_heart (s : State) (h : Nat) (x : Session) : (s.setSession h x).heart = s.heart := rfl
@[simp] theorem State.setSession_seed (s : State) (h : Nat) (x : Session) : (s.setSession h x).seed = s.seed := rfl
@[simp] theorem State.setSession_bark (s : State) (h : Nat) (x : Session) : (s.setSession h x).bark = s.bark := rfl
@[simp] theorem State.setSession_log (s : State) (h : Nat) (x : Session) : (s.setSession h x).log = s.log := rfl
@[simp] theorem State.setSession_flash (s : State) (h : Nat) (x : Session) : (s.setSession h x).flash = s.flash := rfl
@[simp] theorem State.setSession_twin (s : State) (h : Nat) (x : Session) : (s.setSession h x).twin = s.twin := rfl
@[simp] theorem State.setSession_sd (s : State) (h : Nat) (x : Session) : (s.setSession h x).sd = s.sd := rfl
@[simp] theorem State.setSession_icc (s : State) (h : Nat) (x : Session) : (s.setSession h x).icc = s.icc := rfl
@[simp] theorem State.setSession_rf (s : State) (h : Nat) (x : Session) : (s.setSession h x).rf = s.rf := rfl
@[simp] theorem State.setSession_elec (s : State) (h : Nat) (x : Session) : (s.setSession h x).elec = s.elec := rfl

/-! ### State.delSession -/

@[simp] theorem State.delSession_pending (s : State) (h : Nat) : (s.delSession h).pending = s.pending := rfl
@[simp] theorem State.delSession_free (s : State) (h : Nat) : (s.delSession h).free = s.free := rfl
@[simp] theorem State.delSession_out (s : State) (h : Nat) : (s.delSession h).out = s.out := rfl
@[simp] theorem State.delSession_nextJob (s : State) (h : Nat) : (s.delSession h).nextJob = s.nextJob := rfl
@[simp] theorem State.delSession_clock (s : State) (h : Nat) : (s.delSession h).clock = s.clock := rfl
@[simp] theorem State.delSession_sched (s : State) (h : Nat) : (s.delSession h).sched = s.sched := rfl
@[simp] theorem State.delSession_trunk (s : State) (h : Nat) : (s.delSession h).trunk = s.trunk := rfl
@[simp] theorem State.delSession_fns (s : State) (h : Nat) : (s.delSession h).fns = s.fns := rfl
@[simp] theorem State.delSession_queues (s : State) (h : Nat) : (s.delSession h).queues = s.queues := rfl
@[simp] theorem State.delSession_jobs (s : State) (h : Nat) : (s.delSession h).jobs = s.jobs := rfl
@[simp] theorem State.delSession_posted (s : State) (h : Nat) : (s.delSession h).posted = s.posted := rfl
@[simp] theorem State.delSession_stage (s : State) (h : Nat) : (s.delSession h).stage = s.stage := rfl
@[simp] theorem State.delSession_groveA (s : State) (h : Nat) : (s.delSession h).groveA = s.groveA := rfl
@[simp] theorem State.delSession_groveB (s : State) (h : Nat) : (s.delSession h).groveB = s.groveB := rfl
@[simp] theorem State.delSession_cells (s : State) (h : Nat) : (s.delSession h).cells = s.cells := rfl
@[simp] theorem State.delSession_mem (s : State) (h : Nat) : (s.delSession h).mem = s.mem := rfl
@[simp] theorem State.delSession_dramBad (s : State) (h : Nat) : (s.delSession h).dramBad = s.dramBad := rfl
@[simp] theorem State.delSession_sessions (s : State) (h : Nat) : (s.delSession h).sessions = tblDel s.sessions h := rfl
@[simp] theorem State.delSession_parts (s : State) (h : Nat) : (s.delSession h).parts = s.parts := rfl
@[simp] theorem State.delSession_heart (s : State) (h : Nat) : (s.delSession h).heart = s.heart := rfl
@[simp] theorem State.delSession_seed (s : State) (h : Nat) : (s.delSession h).seed = s.seed := rfl
@[simp] theorem State.delSession_bark (s : State) (h : Nat) : (s.delSession h).bark = s.bark := rfl
@[simp] theorem State.delSession_log (s : State) (h : Nat) : (s.delSession h).log = s.log := rfl
@[simp] theorem State.delSession_flash (s : State) (h : Nat) : (s.delSession h).flash = s.flash := rfl
@[simp] theorem State.delSession_twin (s : State) (h : Nat) : (s.delSession h).twin = s.twin := rfl
@[simp] theorem State.delSession_sd (s : State) (h : Nat) : (s.delSession h).sd = s.sd := rfl
@[simp] theorem State.delSession_icc (s : State) (h : Nat) : (s.delSession h).icc = s.icc := rfl
@[simp] theorem State.delSession_rf (s : State) (h : Nat) : (s.delSession h).rf = s.rf := rfl
@[simp] theorem State.delSession_elec (s : State) (h : Nat) : (s.delSession h).elec = s.elec := rfl

/-! ### State.setBank -/

@[simp] theorem State.setBank_pending (s : State) (b : Nat) (x : Bank) : (s.setBank b x).pending = s.pending := rfl
@[simp] theorem State.setBank_free (s : State) (b : Nat) (x : Bank) : (s.setBank b x).free = s.free := rfl
@[simp] theorem State.setBank_out (s : State) (b : Nat) (x : Bank) : (s.setBank b x).out = s.out := rfl
@[simp] theorem State.setBank_nextJob (s : State) (b : Nat) (x : Bank) : (s.setBank b x).nextJob = s.nextJob := rfl
@[simp] theorem State.setBank_clock (s : State) (b : Nat) (x : Bank) : (s.setBank b x).clock = s.clock := rfl
@[simp] theorem State.setBank_sched (s : State) (b : Nat) (x : Bank) : (s.setBank b x).sched = s.sched := rfl
@[simp] theorem State.setBank_trunk (s : State) (b : Nat) (x : Bank) : (s.setBank b x).trunk = s.trunk := rfl
@[simp] theorem State.setBank_fns (s : State) (b : Nat) (x : Bank) : (s.setBank b x).fns = s.fns := rfl
@[simp] theorem State.setBank_queues (s : State) (b : Nat) (x : Bank) : (s.setBank b x).queues = s.queues := rfl
@[simp] theorem State.setBank_jobs (s : State) (b : Nat) (x : Bank) : (s.setBank b x).jobs = s.jobs := rfl
@[simp] theorem State.setBank_posted (s : State) (b : Nat) (x : Bank) : (s.setBank b x).posted = s.posted := rfl
@[simp] theorem State.setBank_stage (s : State) (b : Nat) (x : Bank) : (s.setBank b x).stage = s.stage := rfl
@[simp] theorem State.setBank_groveA (s : State) (b : Nat) (x : Bank) : (s.setBank b x).groveA = s.groveA := rfl
@[simp] theorem State.setBank_groveB (s : State) (b : Nat) (x : Bank) : (s.setBank b x).groveB = s.groveB := rfl
@[simp] theorem State.setBank_cells (s : State) (b : Nat) (x : Bank) : (s.setBank b x).cells = s.cells := rfl
@[simp] theorem State.setBank_mem (s : State) (b : Nat) (x : Bank) : (s.setBank b x).mem = s.mem := rfl
@[simp] theorem State.setBank_dramBad (s : State) (b : Nat) (x : Bank) : (s.setBank b x).dramBad = s.dramBad := rfl
@[simp] theorem State.setBank_sessions (s : State) (b : Nat) (x : Bank) : (s.setBank b x).sessions = s.sessions := rfl
@[simp] theorem State.setBank_parts (s : State) (b : Nat) (x : Bank) : (s.setBank b x).parts = s.parts := rfl
@[simp] theorem State.setBank_heart (s : State) (b : Nat) (x : Bank) : (s.setBank b x).heart = s.heart := rfl
@[simp] theorem State.setBank_seed (s : State) (b : Nat) (x : Bank) : (s.setBank b x).seed = s.seed := rfl
@[simp] theorem State.setBank_bark (s : State) (b : Nat) (x : Bank) : (s.setBank b x).bark = s.bark := rfl
@[simp] theorem State.setBank_log (s : State) (b : Nat) (x : Bank) : (s.setBank b x).log = s.log := rfl
@[simp] theorem State.setBank_flash (s : State) (b : Nat) (x : Bank) : (s.setBank b x).flash = { s.flash with banks := tblSet s.flash.banks b x } := rfl
@[simp] theorem State.setBank_twin (s : State) (b : Nat) (x : Bank) : (s.setBank b x).twin = s.twin := rfl
@[simp] theorem State.setBank_sd (s : State) (b : Nat) (x : Bank) : (s.setBank b x).sd = s.sd := rfl
@[simp] theorem State.setBank_icc (s : State) (b : Nat) (x : Bank) : (s.setBank b x).icc = s.icc := rfl
@[simp] theorem State.setBank_rf (s : State) (b : Nat) (x : Bank) : (s.setBank b x).rf = s.rf := rfl
@[simp] theorem State.setBank_elec (s : State) (b : Nat) (x : Bank) : (s.setBank b x).elec = s.elec := rfl

/-! ### State.emit -/

@[simp] theorem State.emit_pending (s : State) (o : Output) : (s.emit o).pending = s.pending := rfl
@[simp] theorem State.emit_free (s : State) (o : Output) : (s.emit o).free = s.free := rfl
@[simp] theorem State.emit_out (s : State) (o : Output) : (s.emit o).out = o :: s.out := rfl
@[simp] theorem State.emit_nextJob (s : State) (o : Output) : (s.emit o).nextJob = s.nextJob := rfl
@[simp] theorem State.emit_clock (s : State) (o : Output) : (s.emit o).clock = s.clock := rfl
@[simp] theorem State.emit_sched (s : State) (o : Output) : (s.emit o).sched = s.sched := rfl
@[simp] theorem State.emit_trunk (s : State) (o : Output) : (s.emit o).trunk = s.trunk := rfl
@[simp] theorem State.emit_fns (s : State) (o : Output) : (s.emit o).fns = s.fns := rfl
@[simp] theorem State.emit_queues (s : State) (o : Output) : (s.emit o).queues = s.queues := rfl
@[simp] theorem State.emit_jobs (s : State) (o : Output) : (s.emit o).jobs = s.jobs := rfl
@[simp] theorem State.emit_posted (s : State) (o : Output) : (s.emit o).posted = s.posted := rfl
@[simp] theorem State.emit_stage (s : State) (o : Output) : (s.emit o).stage = s.stage := rfl
@[simp] theorem State.emit_groveA (s : State) (o : Output) : (s.emit o).groveA = s.groveA := rfl
@[simp] theorem State.emit_groveB (s : State) (o : Output) : (s.emit o).groveB = s.groveB := rfl
@[simp] theorem State.emit_cells (s : State) (o : Output) : (s.emit o).cells = s.cells := rfl
@[simp] theorem State.emit_mem (s : State) (o : Output) : (s.emit o).mem = s.mem := rfl
@[simp] theorem State.emit_dramBad (s : State) (o : Output) : (s.emit o).dramBad = s.dramBad := rfl
@[simp] theorem State.emit_sessions (s : State) (o : Output) : (s.emit o).sessions = s.sessions := rfl
@[simp] theorem State.emit_parts (s : State) (o : Output) : (s.emit o).parts = s.parts := rfl
@[simp] theorem State.emit_heart (s : State) (o : Output) : (s.emit o).heart = s.heart := rfl
@[simp] theorem State.emit_seed (s : State) (o : Output) : (s.emit o).seed = s.seed := rfl
@[simp] theorem State.emit_bark (s : State) (o : Output) : (s.emit o).bark = s.bark := rfl
@[simp] theorem State.emit_log (s : State) (o : Output) : (s.emit o).log = s.log := rfl
@[simp] theorem State.emit_flash (s : State) (o : Output) : (s.emit o).flash = s.flash := rfl
@[simp] theorem State.emit_twin (s : State) (o : Output) : (s.emit o).twin = s.twin := rfl
@[simp] theorem State.emit_sd (s : State) (o : Output) : (s.emit o).sd = s.sd := rfl
@[simp] theorem State.emit_icc (s : State) (o : Output) : (s.emit o).icc = s.icc := rfl
@[simp] theorem State.emit_rf (s : State) (o : Output) : (s.emit o).rf = s.rf := rfl
@[simp] theorem State.emit_elec (s : State) (o : Output) : (s.emit o).elec = s.elec := rfl

/-! ### State.drawn -/

@[simp] theorem State.drawn_pending (s : State) : (s.drawn).pending = s.pending := rfl
@[simp] theorem State.drawn_free (s : State) : (s.drawn).free = s.free + 1 := rfl
@[simp] theorem State.drawn_out (s : State) : (s.drawn).out = s.out := rfl
@[simp] theorem State.drawn_nextJob (s : State) : (s.drawn).nextJob = s.nextJob := rfl
@[simp] theorem State.drawn_clock (s : State) : (s.drawn).clock = s.clock := rfl
@[simp] theorem State.drawn_sched (s : State) : (s.drawn).sched = s.sched := rfl
@[simp] theorem State.drawn_trunk (s : State) : (s.drawn).trunk = s.trunk := rfl
@[simp] theorem State.drawn_fns (s : State) : (s.drawn).fns = s.fns := rfl
@[simp] theorem State.drawn_queues (s : State) : (s.drawn).queues = s.queues := rfl
@[simp] theorem State.drawn_jobs (s : State) : (s.drawn).jobs = s.jobs := rfl
@[simp] theorem State.drawn_posted (s : State) : (s.drawn).posted = s.posted := rfl
@[simp] theorem State.drawn_stage (s : State) : (s.drawn).stage = s.stage := rfl
@[simp] theorem State.drawn_groveA (s : State) : (s.drawn).groveA = s.groveA := rfl
@[simp] theorem State.drawn_groveB (s : State) : (s.drawn).groveB = s.groveB := rfl
@[simp] theorem State.drawn_cells (s : State) : (s.drawn).cells = s.cells := rfl
@[simp] theorem State.drawn_mem (s : State) : (s.drawn).mem = s.mem := rfl
@[simp] theorem State.drawn_dramBad (s : State) : (s.drawn).dramBad = s.dramBad := rfl
@[simp] theorem State.drawn_sessions (s : State) : (s.drawn).sessions = s.sessions := rfl
@[simp] theorem State.drawn_parts (s : State) : (s.drawn).parts = s.parts := rfl
@[simp] theorem State.drawn_heart (s : State) : (s.drawn).heart = s.heart := rfl
@[simp] theorem State.drawn_seed (s : State) : (s.drawn).seed = s.seed := rfl
@[simp] theorem State.drawn_bark (s : State) : (s.drawn).bark = s.bark := rfl
@[simp] theorem State.drawn_log (s : State) : (s.drawn).log = s.log := rfl
@[simp] theorem State.drawn_flash (s : State) : (s.drawn).flash = s.flash := rfl
@[simp] theorem State.drawn_twin (s : State) : (s.drawn).twin = s.twin := rfl
@[simp] theorem State.drawn_sd (s : State) : (s.drawn).sd = s.sd := rfl
@[simp] theorem State.drawn_icc (s : State) : (s.drawn).icc = s.icc := rfl
@[simp] theorem State.drawn_rf (s : State) : (s.drawn).rf = s.rf := rfl
@[simp] theorem State.drawn_elec (s : State) : (s.drawn).elec = s.elec := rfl

/-! ### State.idle -/

@[simp] theorem State.idle_pending (s : State) : (s.idle).pending = s.pending := rfl
@[simp] theorem State.idle_free (s : State) : (s.idle).free = s.free := rfl
@[simp] theorem State.idle_out (s : State) : (s.idle).out = s.out := rfl
@[simp] theorem State.idle_nextJob (s : State) : (s.idle).nextJob = s.nextJob := rfl
@[simp] theorem State.idle_clock (s : State) : (s.idle).clock = { s.clock with cd18 := s.clock.cd18 + 1 } := rfl
@[simp] theorem State.idle_sched (s : State) : (s.idle).sched = s.sched := rfl
@[simp] theorem State.idle_trunk (s : State) : (s.idle).trunk = s.trunk := rfl
@[simp] theorem State.idle_fns (s : State) : (s.idle).fns = s.fns := rfl
@[simp] theorem State.idle_queues (s : State) : (s.idle).queues = s.queues := rfl
@[simp] theorem State.idle_jobs (s : State) : (s.idle).jobs = s.jobs := rfl
@[simp] theorem State.idle_posted (s : State) : (s.idle).posted = s.posted := rfl
@[simp] theorem State.idle_stage (s : State) : (s.idle).stage = s.stage := rfl
@[simp] theorem State.idle_groveA (s : State) : (s.idle).groveA = s.groveA := rfl
@[simp] theorem State.idle_groveB (s : State) : (s.idle).groveB = s.groveB := rfl
@[simp] theorem State.idle_cells (s : State) : (s.idle).cells = s.cells := rfl
@[simp] theorem State.idle_mem (s : State) : (s.idle).mem = s.mem := rfl
@[simp] theorem State.idle_dramBad (s : State) : (s.idle).dramBad = s.dramBad := rfl
@[simp] theorem State.idle_sessions (s : State) : (s.idle).sessions = s.sessions := rfl
@[simp] theorem State.idle_parts (s : State) : (s.idle).parts = s.parts := rfl
@[simp] theorem State.idle_heart (s : State) : (s.idle).heart = s.heart := rfl
@[simp] theorem State.idle_seed (s : State) : (s.idle).seed = s.seed := rfl
@[simp] theorem State.idle_bark (s : State) : (s.idle).bark = s.bark := rfl
@[simp] theorem State.idle_log (s : State) : (s.idle).log = s.log := rfl
@[simp] theorem State.idle_flash (s : State) : (s.idle).flash = s.flash := rfl
@[simp] theorem State.idle_twin (s : State) : (s.idle).twin = s.twin := rfl
@[simp] theorem State.idle_sd (s : State) : (s.idle).sd = s.sd := rfl
@[simp] theorem State.idle_icc (s : State) : (s.idle).icc = s.icc := rfl
@[simp] theorem State.idle_rf (s : State) : (s.idle).rf = s.rf := rfl
@[simp] theorem State.idle_elec (s : State) : (s.idle).elec = s.elec := rfl

/-! ### State.wr -/

@[simp] theorem State.wr_pending (s : State) (k : Nat) (bs : Bytes) : (s.wr k bs).pending = s.pending := rfl
@[simp] theorem State.wr_free (s : State) (k : Nat) (bs : Bytes) : (s.wr k bs).free = s.free := rfl
@[simp] theorem State.wr_out (s : State) (k : Nat) (bs : Bytes) : (s.wr k bs).out = s.out := rfl
@[simp] theorem State.wr_nextJob (s : State) (k : Nat) (bs : Bytes) : (s.wr k bs).nextJob = s.nextJob := rfl
@[simp] theorem State.wr_clock (s : State) (k : Nat) (bs : Bytes) : (s.wr k bs).clock = s.clock := rfl
@[simp] theorem State.wr_sched (s : State) (k : Nat) (bs : Bytes) : (s.wr k bs).sched = s.sched := rfl
@[simp] theorem State.wr_trunk (s : State) (k : Nat) (bs : Bytes) : (s.wr k bs).trunk = s.trunk := rfl
@[simp] theorem State.wr_fns (s : State) (k : Nat) (bs : Bytes) : (s.wr k bs).fns = s.fns := rfl
@[simp] theorem State.wr_queues (s : State) (k : Nat) (bs : Bytes) : (s.wr k bs).queues = s.queues := rfl
@[simp] theorem State.wr_jobs (s : State) (k : Nat) (bs : Bytes) : (s.wr k bs).jobs = s.jobs := rfl
@[simp] theorem State.wr_posted (s : State) (k : Nat) (bs : Bytes) : (s.wr k bs).posted = s.posted := rfl
@[simp] theorem State.wr_stage (s : State) (k : Nat) (bs : Bytes) : (s.wr k bs).stage = s.stage := rfl
@[simp] theorem State.wr_groveA (s : State) (k : Nat) (bs : Bytes) : (s.wr k bs).groveA = s.groveA := rfl
@[simp] theorem State.wr_groveB (s : State) (k : Nat) (bs : Bytes) : (s.wr k bs).groveB = s.groveB := rfl
@[simp] theorem State.wr_cells (s : State) (k : Nat) (bs : Bytes) : (s.wr k bs).cells = s.cells := rfl
@[simp] theorem State.wr_mem (s : State) (k : Nat) (bs : Bytes) : (s.wr k bs).mem = memWrite s.mem k bs := rfl
@[simp] theorem State.wr_dramBad (s : State) (k : Nat) (bs : Bytes) : (s.wr k bs).dramBad = s.dramBad := rfl
@[simp] theorem State.wr_sessions (s : State) (k : Nat) (bs : Bytes) : (s.wr k bs).sessions = s.sessions := rfl
@[simp] theorem State.wr_parts (s : State) (k : Nat) (bs : Bytes) : (s.wr k bs).parts = s.parts := rfl
@[simp] theorem State.wr_heart (s : State) (k : Nat) (bs : Bytes) : (s.wr k bs).heart = s.heart := rfl
@[simp] theorem State.wr_seed (s : State) (k : Nat) (bs : Bytes) : (s.wr k bs).seed = s.seed := rfl
@[simp] theorem State.wr_bark (s : State) (k : Nat) (bs : Bytes) : (s.wr k bs).bark = s.bark := rfl
@[simp] theorem State.wr_log (s : State) (k : Nat) (bs : Bytes) : (s.wr k bs).log = s.log := rfl
@[simp] theorem State.wr_flash (s : State) (k : Nat) (bs : Bytes) : (s.wr k bs).flash = s.flash := rfl
@[simp] theorem State.wr_twin (s : State) (k : Nat) (bs : Bytes) : (s.wr k bs).twin = s.twin := rfl
@[simp] theorem State.wr_sd (s : State) (k : Nat) (bs : Bytes) : (s.wr k bs).sd = s.sd := rfl
@[simp] theorem State.wr_icc (s : State) (k : Nat) (bs : Bytes) : (s.wr k bs).icc = s.icc := rfl
@[simp] theorem State.wr_rf (s : State) (k : Nat) (bs : Bytes) : (s.wr k bs).rf = s.rf := rfl
@[simp] theorem State.wr_elec (s : State) (k : Nat) (bs : Bytes) : (s.wr k bs).elec = s.elec := rfl

/-! ### State.zero -/

@[simp] theorem State.zero_pending (s : State) (k n : Nat) : (s.zero k n).pending = s.pending := rfl
@[simp] theorem State.zero_free (s : State) (k n : Nat) : (s.zero k n).free = s.free := rfl
@[simp] theorem State.zero_out (s : State) (k n : Nat) : (s.zero k n).out = s.out := rfl
@[simp] theorem State.zero_nextJob (s : State) (k n : Nat) : (s.zero k n).nextJob = s.nextJob := rfl
@[simp] theorem State.zero_clock (s : State) (k n : Nat) : (s.zero k n).clock = s.clock := rfl
@[simp] theorem State.zero_sched (s : State) (k n : Nat) : (s.zero k n).sched = s.sched := rfl
@[simp] theorem State.zero_trunk (s : State) (k n : Nat) : (s.zero k n).trunk = s.trunk := rfl
@[simp] theorem State.zero_fns (s : State) (k n : Nat) : (s.zero k n).fns = s.fns := rfl
@[simp] theorem State.zero_queues (s : State) (k n : Nat) : (s.zero k n).queues = s.queues := rfl
@[simp] theorem State.zero_jobs (s : State) (k n : Nat) : (s.zero k n).jobs = s.jobs := rfl
@[simp] theorem State.zero_posted (s : State) (k n : Nat) : (s.zero k n).posted = s.posted := rfl
@[simp] theorem State.zero_stage (s : State) (k n : Nat) : (s.zero k n).stage = s.stage := rfl
@[simp] theorem State.zero_groveA (s : State) (k n : Nat) : (s.zero k n).groveA = s.groveA := rfl
@[simp] theorem State.zero_groveB (s : State) (k n : Nat) : (s.zero k n).groveB = s.groveB := rfl
@[simp] theorem State.zero_cells (s : State) (k n : Nat) : (s.zero k n).cells = s.cells := rfl
@[simp] theorem State.zero_mem (s : State) (k n : Nat) : (s.zero k n).mem = memZero s.mem k n := rfl
@[simp] theorem State.zero_dramBad (s : State) (k n : Nat) : (s.zero k n).dramBad = s.dramBad := rfl
@[simp] theorem State.zero_sessions (s : State) (k n : Nat) : (s.zero k n).sessions = s.sessions := rfl
@[simp] theorem State.zero_parts (s : State) (k n : Nat) : (s.zero k n).parts = s.parts := rfl
@[simp] theorem State.zero_heart (s : State) (k n : Nat) : (s.zero k n).heart = s.heart := rfl
@[simp] theorem State.zero_seed (s : State) (k n : Nat) : (s.zero k n).seed = s.seed := rfl
@[simp] theorem State.zero_bark (s : State) (k n : Nat) : (s.zero k n).bark = s.bark := rfl
@[simp] theorem State.zero_log (s : State) (k n : Nat) : (s.zero k n).log = s.log := rfl
@[simp] theorem State.zero_flash (s : State) (k n : Nat) : (s.zero k n).flash = s.flash := rfl
@[simp] theorem State.zero_twin (s : State) (k n : Nat) : (s.zero k n).twin = s.twin := rfl
@[simp] theorem State.zero_sd (s : State) (k n : Nat) : (s.zero k n).sd = s.sd := rfl
@[simp] theorem State.zero_icc (s : State) (k n : Nat) : (s.zero k n).icc = s.icc := rfl
@[simp] theorem State.zero_rf (s : State) (k n : Nat) : (s.zero k n).rf = s.rf := rfl
@[simp] theorem State.zero_elec (s : State) (k n : Nat) : (s.zero k n).elec = s.elec := rfl

/-! ### State.setGrove -/

@[simp] theorem State.setGrove_pending (s : State) (g : Bool) (x : Grove) : (s.setGrove g x).pending = s.pending := by cases g <;> rfl
@[simp] theorem State.setGrove_free (s : State) (g : Bool) (x : Grove) : (s.setGrove g x).free = s.free := by cases g <;> rfl
@[simp] theorem State.setGrove_out (s : State) (g : Bool) (x : Grove) : (s.setGrove g x).out = s.out := by cases g <;> rfl
@[simp] theorem State.setGrove_nextJob (s : State) (g : Bool) (x : Grove) : (s.setGrove g x).nextJob = s.nextJob := by cases g <;> rfl
@[simp] theorem State.setGrove_clock (s : State) (g : Bool) (x : Grove) : (s.setGrove g x).clock = s.clock := by cases g <;> rfl
@[simp] theorem State.setGrove_sched (s : State) (g : Bool) (x : Grove) : (s.setGrove g x).sched = s.sched := by cases g <;> rfl
@[simp] theorem State.setGrove_trunk (s : State) (g : Bool) (x : Grove) : (s.setGrove g x).trunk = s.trunk := by cases g <;> rfl
@[simp] theorem State.setGrove_fns (s : State) (g : Bool) (x : Grove) : (s.setGrove g x).fns = s.fns := by cases g <;> rfl
@[simp] theorem State.setGrove_queues (s : State) (g : Bool) (x : Grove) : (s.setGrove g x).queues = s.queues := by cases g <;> rfl
@[simp] theorem State.setGrove_jobs (s : State) (g : Bool) (x : Grove) : (s.setGrove g x).jobs = s.jobs := by cases g <;> rfl
@[simp] theorem State.setGrove_posted (s : State) (g : Bool) (x : Grove) : (s.setGrove g x).posted = s.posted := by cases g <;> rfl
@[simp] theorem State.setGrove_stage (s : State) (g : Bool) (x : Grove) : (s.setGrove g x).stage = s.stage := by cases g <;> rfl
@[simp] theorem State.setGrove_groveA (s : State) (g : Bool) (x : Grove) : (s.setGrove g x).groveA = if g then s.groveA else x := by
  cases g <;> rfl
@[simp] theorem State.setGrove_groveB (s : State) (g : Bool) (x : Grove) : (s.setGrove g x).groveB = if g then x else s.groveB := by
  cases g <;> rfl
@[simp] theorem State.setGrove_cells (s : State) (g : Bool) (x : Grove) : (s.setGrove g x).cells = s.cells := by cases g <;> rfl
@[simp] theorem State.setGrove_mem (s : State) (g : Bool) (x : Grove) : (s.setGrove g x).mem = s.mem := by cases g <;> rfl
@[simp] theorem State.setGrove_dramBad (s : State) (g : Bool) (x : Grove) : (s.setGrove g x).dramBad = s.dramBad := by cases g <;> rfl
@[simp] theorem State.setGrove_sessions (s : State) (g : Bool) (x : Grove) : (s.setGrove g x).sessions = s.sessions := by cases g <;> rfl
@[simp] theorem State.setGrove_parts (s : State) (g : Bool) (x : Grove) : (s.setGrove g x).parts = s.parts := by cases g <;> rfl
@[simp] theorem State.setGrove_heart (s : State) (g : Bool) (x : Grove) : (s.setGrove g x).heart = s.heart := by cases g <;> rfl
@[simp] theorem State.setGrove_seed (s : State) (g : Bool) (x : Grove) : (s.setGrove g x).seed = s.seed := by cases g <;> rfl
@[simp] theorem State.setGrove_bark (s : State) (g : Bool) (x : Grove) : (s.setGrove g x).bark = s.bark := by cases g <;> rfl
@[simp] theorem State.setGrove_log (s : State) (g : Bool) (x : Grove) : (s.setGrove g x).log = s.log := by cases g <;> rfl
@[simp] theorem State.setGrove_flash (s : State) (g : Bool) (x : Grove) : (s.setGrove g x).flash = s.flash := by cases g <;> rfl
@[simp] theorem State.setGrove_twin (s : State) (g : Bool) (x : Grove) : (s.setGrove g x).twin = s.twin := by cases g <;> rfl
@[simp] theorem State.setGrove_sd (s : State) (g : Bool) (x : Grove) : (s.setGrove g x).sd = s.sd := by cases g <;> rfl
@[simp] theorem State.setGrove_icc (s : State) (g : Bool) (x : Grove) : (s.setGrove g x).icc = s.icc := by cases g <;> rfl
@[simp] theorem State.setGrove_rf (s : State) (g : Bool) (x : Grove) : (s.setGrove g x).rf = s.rf := by cases g <;> rfl
@[simp] theorem State.setGrove_elec (s : State) (g : Bool) (x : Grove) : (s.setGrove g x).elec = s.elec := by cases g <;> rfl

/-! ### State.setCore -/

@[simp] theorem State.setCore_pending (s : State) (c : Nat) (x : Core) : (s.setCore c x).pending = s.pending := rfl
@[simp] theorem State.setCore_free (s : State) (c : Nat) (x : Core) : (s.setCore c x).free = s.free := rfl
@[simp] theorem State.setCore_out (s : State) (c : Nat) (x : Core) : (s.setCore c x).out = s.out := rfl
@[simp] theorem State.setCore_nextJob (s : State) (c : Nat) (x : Core) : (s.setCore c x).nextJob = s.nextJob := rfl
@[simp] theorem State.setCore_clock (s : State) (c : Nat) (x : Core) : (s.setCore c x).clock = s.clock := rfl
@[simp] theorem State.setCore_sched (s : State) (c : Nat) (x : Core) : (s.setCore c x).sched = s.sched := rfl
@[simp] theorem State.setCore_trunk (s : State) (c : Nat) (x : Core) : (s.setCore c x).trunk = s.trunk := rfl
@[simp] theorem State.setCore_fns (s : State) (c : Nat) (x : Core) : (s.setCore c x).fns = s.fns := rfl
@[simp] theorem State.setCore_queues (s : State) (c : Nat) (x : Core) : (s.setCore c x).queues = s.queues := rfl
@[simp] theorem State.setCore_jobs (s : State) (c : Nat) (x : Core) : (s.setCore c x).jobs = s.jobs := rfl
@[simp] theorem State.setCore_posted (s : State) (c : Nat) (x : Core) : (s.setCore c x).posted = s.posted := rfl
@[simp] theorem State.setCore_stage (s : State) (c : Nat) (x : Core) : (s.setCore c x).stage = s.stage := rfl
@[simp] theorem State.setCore_groveA (s : State) (c : Nat) (x : Core) : (s.setCore c x).groveA = s.groveA := rfl
@[simp] theorem State.setCore_groveB (s : State) (c : Nat) (x : Core) : (s.setCore c x).groveB = s.groveB := rfl
@[simp] theorem State.setCore_mem (s : State) (c : Nat) (x : Core) : (s.setCore c x).mem = s.mem := rfl
@[simp] theorem State.setCore_dramBad (s : State) (c : Nat) (x : Core) : (s.setCore c x).dramBad = s.dramBad := rfl
@[simp] theorem State.setCore_sessions (s : State) (c : Nat) (x : Core) : (s.setCore c x).sessions = s.sessions := rfl
@[simp] theorem State.setCore_parts (s : State) (c : Nat) (x : Core) : (s.setCore c x).parts = s.parts := rfl
@[simp] theorem State.setCore_heart (s : State) (c : Nat) (x : Core) : (s.setCore c x).heart = s.heart := rfl
@[simp] theorem State.setCore_seed (s : State) (c : Nat) (x : Core) : (s.setCore c x).seed = s.seed := rfl
@[simp] theorem State.setCore_bark (s : State) (c : Nat) (x : Core) : (s.setCore c x).bark = s.bark := rfl
@[simp] theorem State.setCore_log (s : State) (c : Nat) (x : Core) : (s.setCore c x).log = s.log := rfl
@[simp] theorem State.setCore_flash (s : State) (c : Nat) (x : Core) : (s.setCore c x).flash = s.flash := rfl
@[simp] theorem State.setCore_twin (s : State) (c : Nat) (x : Core) : (s.setCore c x).twin = s.twin := rfl
@[simp] theorem State.setCore_sd (s : State) (c : Nat) (x : Core) : (s.setCore c x).sd = s.sd := rfl
@[simp] theorem State.setCore_icc (s : State) (c : Nat) (x : Core) : (s.setCore c x).icc = s.icc := rfl
@[simp] theorem State.setCore_rf (s : State) (c : Nat) (x : Core) : (s.setCore c x).rf = s.rf := rfl
@[simp] theorem State.setCore_elec (s : State) (c : Nat) (x : Core) : (s.setCore c x).elec = s.elec := rfl
@[simp] theorem State.setCore_cells (s : State) (c : Nat) (x : Core) : (s.setCore c x).cells = tblSet s.cells c { s.cell c with core := x } := rfl

/-! ### Reading back what an update wrote -/

@[simp] theorem State.fn_setFn (s : State) (f : Nat) (x : Fn) : (s.setFn f x).fn f = x := by simp [State.fn]
theorem State.fn_setFn_other (s : State) {f h : Nat} (x : Fn) (n : h ≠ f) : (s.setFn f x).fn h = s.fn h := by
  simp [State.fn, tblGet_tblSet_other _ _ n]
@[simp] theorem State.cell_setCell (s : State) (c : Nat) (x : Cell) : (s.setCell c x).cell c = x := by simp [State.cell]
theorem State.cell_setCell_other (s : State) {c d : Nat} (x : Cell) (n : d ≠ c) : (s.setCell c x).cell d = s.cell d := by
  simp [State.cell, tblGet_tblSet_other _ _ n]
@[simp] theorem State.core_setCore (s : State) (c : Nat) (x : Core) : (s.setCore c x).core c = x := by
  simp [State.core, State.setCore, State.modCell]
theorem State.core_setCore_other (s : State) {c d : Nat} (x : Core) (n : d ≠ c) : (s.setCore c x).core d = s.core d := by
  simp [State.core, State.setCore, State.modCell, State.cell_setCell_other s _ n]
@[simp] theorem State.part_setPart (s : State) (p : Nat) (x : Part) : (s.setPart p x).part p = x := by simp [State.part]
theorem State.part_setPart_other (s : State) {p q : Nat} (x : Part) (n : q ≠ p) : (s.setPart p x).part q = s.part q := by
  simp [State.part, tblGet_tblSet_other _ _ n]
@[simp] theorem State.queue_setQueue (s : State) (k : Nat) (x : Queue) : (s.setQueue k x).queue? k = some x := by
  simp [State.queue?]
@[simp] theorem State.job_setJob (s : State) (j : Nat) (x : Job) : (s.setJob j x).job? j = some x := by simp [State.job?]
theorem State.job_setJob_other (s : State) {i j : Nat} (x : Job) (n : i ≠ j) : (s.setJob j x).job? i = s.job? i := by
  simp [State.job?, tblGet_tblSet_other _ _ n]
@[simp] theorem State.grove_setGrove (s : State) (g : Bool) (x : Grove) : (s.setGrove g x).grove g = x := by cases g <;> rfl
@[simp] theorem State.grove_setGrove_other (s : State) (g : Bool) (x : Grove) : (s.setGrove g x).grove (!g) = s.grove (!g) := by
  cases g <;> rfl
@[simp] theorem State.slot_setSlot (s : State) (n : Nat) (x : Slot) : (s.setSlot n x).slot n = x := by
  simp [State.slot, State.setSlot]
theorem State.slot_setSlot_other (s : State) {n m : Nat} (x : Slot) (h : m ≠ n) : (s.setSlot n x).slot m = s.slot m := by
  simp [State.slot, State.setSlot, tblGet_tblSet_other _ _ h]
@[simp] theorem State.master_setMaster (s : State) (p i : Nat) (x : Master) : (s.setMaster p i x).master p i = x := by
  simp [State.master, State.setMaster]
@[simp] theorem State.session_setSession (s : State) (h : Nat) (x : Session) : (s.setSession h x).session? h = some x := by
  simp [State.session?]
@[simp] theorem State.session_delSession (s : State) (h : Nat) : (s.delSession h).session? h = none := by simp [State.session?]
@[simp] theorem State.bank_setBank (s : State) (b : Nat) (x : Bank) : (s.setBank b x).bank b = x := by
  simp [State.bank, State.setBank]
@[simp] theorem Fn.mailbox_setMailbox (x : Fn) (m : Nat) (b : Mailbox) : (x.setMailbox m b).mailbox m = b := by
  simp [Fn.mailbox, Fn.setMailbox]
@[simp] theorem Fn.service_setService (x : Fn) (q : Nat) (v : SvcQueue) : (x.setService q v).service q = v := by
  simp [Fn.service, Fn.setService]
@[simp] theorem Fn.vector_setVector (x : Fn) (v : Nat) (y : MsixVector) : (x.setVector v y).vector v = y := by
  simp [Fn.vector, Fn.setVector]

end Sys2Proof.Machine
end

