-- ==== Sys2Proof/Laws/Shared.lean ====
section
/-! SUPPORT. What each shared operation can do: an instruction's retirement and exception on a cell (11), a command's way from its
checks to its answer (04), a draw from a generator's queue (10), an operation of a flash bank (15), a change of the configuration store (09). -/

namespace Sys2Proof.Machine

/-! ### A core's registers (11 R281) -/

@[simp] theorem Core.setReg_zero (k : Core) (v : Word) : k.setReg 0 v = k := by simp [Core.setReg]

theorem Core.reg_setReg (k : Core) {r : BitVec 5} (v : Word) (h : r ≠ 0) : (k.setReg r v).reg r = v := by
  have h' : ¬r = 0#5 := h
  unfold Core.setReg Core.reg
  rw [if_neg h]
  simp [h']

theorem Core.reg_setReg_other (k : Core) {r q : BitVec 5} (v : Word) (h : q ≠ r) : (k.setReg r v).reg q = k.reg q := by
  by_cases hr : r = 0
  · simp [Core.setReg, hr]
  · have n : ¬r.toNat = q.toNat := fun e => h (BitVec.eq_of_toNat_eq e.symm)
    unfold Core.setReg Core.reg
    rw [if_neg hr]
    simp [n]

/-! ### Exceptions and retirement (11 R312, R321, R324, R325) -/

theorem Core.take_enter {k : Core} (r : Report) (hg : k.guard = false) (he : k.en = false) : k.take r = k.enter r := by
  simp [Core.take, hg, he]

theorem Core.take_escalate {k : Core} (r : Report) (hg : k.guard = false) (he : k.en = true) : k.take r = k.escalate r := by
  simp [Core.take, hg, he]

theorem Core.take_lock {k : Core} (r : Report) (hg : k.guard = true) : k.take r = { k with locked := true } := by
  simp [Core.take, hg, Core.lock]

@[simp] theorem State.retire_core (s : State) (c : Nat) (k : Core) (issue : Nat) : (s.retire c k issue).core c =
    { k with cycle := k.cycle + BitVec.ofNat 64 (issue + Config.stallCycles s.free), instret := k.instret + 1 } := by
  simp [State.retire, State.drawn, State.core, State.setCore, State.modCell, State.setCell, State.cell]

@[simp] theorem State.retire_mem (s : State) (c : Nat) (k : Core) (issue : Nat) : (s.retire c k issue).mem = s.mem := rfl

/-- Retiring an instruction changes its core and takes up one free value: nothing else. -/
theorem State.retire_frame (s : State) (c : Nat) (k : Core) (issue : Nat) :
    { s.retire c k issue with cells := s.cells, free := s.free } = s := rfl

/-- A register instruction leaves a stopped cell as it is, is illegal, or retires with its one result. -/
theorem State.compute_cases (s : State) (c : Nat) (legal : Bool) (rd : BitVec 5) (v : Core → Word) (issue : Nat) :
    (s.runs c = false ∧ s.compute c legal rd v issue = s) ∨
    (s.runs c = true ∧ (legal = false ∨ (s.core c).progBars true = true) ∧
      s.compute c legal rd v issue = s.raise c { exc := .illegal }) ∨
    (s.runs c = true ∧ legal = true ∧ (s.core c).progBars true = false ∧
      s.compute c legal rd v issue = s.retire c ((s.core c).setReg rd (v (s.core c))).next issue) := by
  unfold State.compute
  cases s.runs c
  · exact .inl ⟨rfl, rfl⟩
  · cases legal
    · exact .inr (.inl ⟨rfl, .inl rfl, rfl⟩)
    · cases h : (s.core c).progBars true
      · exact .inr (.inr ⟨rfl, rfl, rfl, by simp [h]⟩)
      · exact .inr (.inl ⟨rfl, .inr rfl, by simp [h]⟩)

/-! ### Commands (04 R102, R103, R111) -/

/-- A command that passes its checks does so in the state that it found; only one that goes on after a wait is not checked again. -/
theorem State.precheck_ok {s t : State} {r : Req} {k : Cmd} {c : Checks} {cut : State → State}
    (h : s.precheck r k c cut = .ok t) : t = s ∧ s.opened r.fn.toNat = true ∧ s.dormant = false ∧
      (s.trunk.resuming.any (fun w => w != .turn) = true ∨ (s.behind k.code (s.partOf r k c) = false ∧ s.gate r k c = none ∧
        (k.cellJob = true → s.cellGate r.via.isMailbox = none) ∧ k.ended r.io.during = none)) := by
  unfold State.precheck at h
  by_cases ho : s.opened r.fn.toNat = true <;> simp only [ho, Bool.not_true, Bool.not_false, Bool.false_eq_true, if_true, if_false] at h
  case neg => exact absurd h (by simp)
  by_cases hd : s.dormant = true <;> simp only [hd, Bool.false_eq_true, if_true, if_false] at h
  case pos => exact absurd h (by simp)
  by_cases hw : s.trunk.resuming.any (fun w => w != .turn) = true
  · simp only [hw, if_true] at h
    cases h
    exact ⟨rfl, ho, by simpa using hd, .inl hw⟩
  by_cases hb : s.behind k.code (s.partOf r k c) = true <;> simp only [hw, hb, Bool.false_eq_true, if_true, if_false] at h
  · exact absurd h (by simp)
  split at h
  · cases h
  rename_i hg
  split at h
  · cases h
  rename_i hc
  split at h <;> cases h
  rename_i he
  exact ⟨rfl, ho, by simpa using hd, .inr ⟨by simpa using hb, hg, fun hk => by simpa [hk] using hc, he⟩⟩

/-- A command is stopped by what comes before its execution, or runs once in the state it found: then it waits for Seed, with no effect,
or is answered. -/
theorem State.command_cases (s : State) (r : Req) (k : Cmd) (c : Checks) (run : State → Ran) (cut : State → State) :
    (∃ a, s.precheck r k c cut = .error a ∧ s.command r k c run cut = a) ∨
    (s.precheck r k c cut = .ok s ∧
      (((run s).2.1 = .randomUnavailable ∧ s.seedAlive = true ∧ k.code ≠ 0x0B02 ∧
          s.command r k c run cut = .next (s.hold r k.code (s.partOf r k c) .seed)) ∨
        s.command r k c run cut = .next (s.finish (if k.cellJob then (run s).1.internAsk k.code else (run s).1) r k.code
          (s.partOf r k c) (run s).2.1 (run s).2.2))) := by
  unfold State.command
  cases h : s.precheck r k c cut with
  | error a => exact .inl ⟨a, rfl, rfl⟩
  | ok t =>
    cases (State.precheck_ok h).1
    refine .inr ⟨rfl, ?_⟩
    simp only []
    by_cases hw : (run s).2.1 = .randomUnavailable ∧ s.seedAlive = true ∧ k.code ≠ 0x0B02
    · exact .inl ⟨hw.1, hw.2.1, hw.2.2, by simp [hw]⟩
    · exact .inr (by rw [if_neg hw])

/-- What follows an event: with no command that waits, at most a life-cycle change goes on. -/
theorem State.resume_idle {s : State} (h : s.trunk.held = []) : s.resume = .next s.changeNext := by simp [State.resume, h]

/-- Without a life-cycle change that waits there is nothing to go on with. -/
theorem State.changeNext_none {s : State} (h : s.trunk.change = none) : s.changeNext = s := by simp [State.changeNext, h]

/-! ### Draws (10 R271 to R274) -/

/-- A draw from the trunk's queue is whole, and changes the trunk's generator alone. -/
theorem State.trunkTake_some {s t : State} {n : Nat} {bs : Bytes} (h : s.trunkTake n = some (t, bs)) :
    s.seedAlive = true ∧ n ≤ s.seed.gen.supply 0 ∧ bs = (s.seed.gen.give trunkCap 0 n).2 ∧
      t = { s with seed := { s.seed with gen := (s.seed.gen.give trunkCap 0 n).1 } } := by
  unfold State.trunkTake at h
  split at h
  · rename_i hs
    cases h
    simp only [Bool.and_eq_true, decide_eq_true_eq] at hs
    exact ⟨hs.1, hs.2, rfl, rfl⟩
  · cases h

/-- A hardware draw from a grove's queue is whole, and changes that grove's generator alone. -/
theorem State.groveDraw_some {s t : State} {g : Bool} {n : Nat} {bs : Bytes} (h : s.groveDraw g n = some (t, bs)) :
    s.seedAlive = true ∧ n ≤ (s.grove g).gen.supply 0 ∧ bs = ((s.grove g).gen.give groveCap 0 n).2 ∧
      t = s.modGrove g (fun y => { y with gen := ((s.grove g).gen.give groveCap 0 n).1 }) := by
  unfold State.groveDraw at h
  simp only [] at h
  split at h
  · rename_i hs
    cases h
    simp only [Bool.and_eq_true, decide_eq_true_eq] at hs
    exact ⟨hs.1, hs.2, rfl, rfl⟩
  · cases h

/-! ### Operations of a flash bank (15 R378, R381, R382) -/

/-- The current operation of a bank begins only where it is an erase that does not run yet. -/
theorem State.beginOp_cases (s : State) (b : Nat) :
    (s.beginOp b = s ∧ ∀ p r l, (s.bank b).ops = .erase p r :: l → (s.bank b).erasing ≠ none) ∨
    (∃ p r l, (s.bank b).ops = .erase p r :: l ∧ (s.bank b).erasing = none ∧
      s.beginOp b = (s.setBank b { (s.bank b).flag p with erasing := some p }).eraseContents b p) := by
  unfold State.beginOp
  simp only []
  split
  · rename_i p r l he hn
    exact .inr ⟨p, r, l, he, hn, rfl⟩
  · rename_i hno
    exact .inl ⟨rfl, fun p r l he hn => hno p r l he hn⟩

/-- A sector's loss of its contents changes the ring log alone. -/
theorem State.eraseContents_frame (s : State) (b p : Nat) : { s.eraseContents b p with log := s.log } = s := by
  unfold State.eraseContents
  split <;> rfl

/-! ### The configuration store (09 R256, R257) -/

/-- Start-up accepts what a commit wrote. -/
@[simp] theorem CEntry.make_authentic (key : Bytes) (n : Nat) (x : CItem) : (CEntry.make key n x).authentic key = true := by
  simp [CEntry.make, CEntry.authentic]

/-- A commit that fits its half appends its entry. -/
theorem State.storeAdd_store (s : State) (x : CItem) (h : (((s.flash.store ++
      [CEntry.make (storeKey s.trunk.rework) (s.storeSeq + 1) x]).map CEntry.size).sum ≤ storeHalf)) :
    (s.storeAdd x).flash.store = s.flash.store ++ [CEntry.make (storeKey s.trunk.rework) (s.storeSeq + 1) x] := by
  simp only [State.storeAdd]
  rw [if_neg (by simpa using h)]

end Sys2Proof.Machine
end

