-- ==== Sys2Proof/WellFormed.lean ====
section
/-! DEFINITION. Which commands are well formed: byte strings have the lengths the spec gives them, and the indexes that the
environment names exist. Every other operand is bounded by its type. -/

namespace Sys2Proof

/-- A custodian card's answer: a 96-byte signature, a 64-byte share record, a 97-byte point (09 R259, 17 R441), or nothing. -/
def CardAnswer.wf (c : CardAnswer) : Bool :=
  decide (c.cert.length ≤ 4096) && (c.signature.length == 96 || c.signature.length == 0) &&
    (c.share.length == 64 || c.share.length == 0) && (c.point.length == 97 || c.point.length == 0)

/-- An object is at most 64 MiB (04: the largest object is a firmware image). -/
def Io.wf (i : Io) : Bool := i.object.all (fun o => decide (o.length ≤ 64 * 2 ^ 20)) && i.card.wf &&
  decide (i.cut.copies ≤ 3)

/-- A request message is at most 256 bytes with its header (04 R101). -/
def Req.wf (q : Req) : Bool :=
  decide (q.len < 65536) && decide (q.carried ≤ 256) && decide (q.body.length ≤ 248) && q.io.wf

/-- A custom function's output fits the largest capacity (03 R90). -/
def Run.wf (r : Run) : Bool := decide (r.customOut.length ≤ 64 * 2 ^ 20)

/-- Failed cells and copies of the life-cycle code of a start-up exist. -/
def BootResult.wf (r : BootResult) : Bool :=
  r.cellFail.all (fun c => decide (c < 256)) && r.lifeRead.all (fun p => decide (p.1 < 3))

/-- The sector and the unit that a read names exist (15 R377). -/
def FlashOutcome.wf : FlashOutcome → Bool
  | .corrected sector _ _ => decide (sector < 4096)
  | .uncorrectable sector unit => decide (sector < 4096) && decide (unit < 128)
  | .ok => true
  | .programFailed => true
  | .notErased => true
  | .eraseFailed => true

/-- The core exists: a cell, or the trunk's cores. -/
def CoreId.wf (c : CoreId) : Bool := decide (c.toNat ≤ 0x100)

/-- Well-formed commands. -/
def Instr.wf : Instr → Bool
  | .queueDoorbell _ _ => true
  | .indexRecordReadDone _ _ _ _ => true
  | .completionHeadDoorbell _ _ _ => true
  | .entryFetchDone _ _ entry message io => entry.all (fun e => e.length == 64) && message.all (fun m => decide (m.length ≤ 256)) && io.wf
  | .inputStaged _ input => input.all (fun i => decide (i.length ≤ 64 * 2 ^ 20))
  | .mailboxDoorbell _ _ => true
  | .mailboxRequestReadDone _ _ request io => request.all (fun r => r.length == 256) && io.wf
  | .mbctlWrite _ _ _ => true
  | .aqctlWrite _ _ => true
  | .svctlWrite _ _ _ => true
  | .registerWrite _ _ _ _ _ => true
  | .ticklRead _ => true
  | .enlRead _ => true
  | .jobslRead _ => true
  | .page3CounterRead _ _ => true
  | .svstatRead _ _ => true
  | .bar0ReadDormant _ _ => true
  | .coalesceTickExpiry _ _ => true
  | .flr _ => true
  | .perstAssert => true
  | .startUp r => r.wf
  | .readyRaised => true
  | .tickBoundary _ _ _ => true
  | .thermalLimitStep => true
  | .attestKeyGenerate => true
  | .budgetEnd used => used.all (fun p => decide (p.1 < 256))
  | .tickMissed => true
  | .tickGeneratorResume => true
  | .groveMissedTicks _ => true
  | .groveLinkSilent _ => true
  | .groveLost _ => true
  | .groveRejoinAttempt _ => true
  | .groveLinkTrainTimeout _ => true
  | .windowClose => true
  | .receiptRootPost _ => true
  | .dppostWrite _ _ => true
  | .dpdispWrite _ _ => true
  | .dpremWrite _ _ => true
  | .completionReceived => true
  | .cellFence _ _ => true
  | .fenceWipeDone _ => true
  | .selftestDone _ _ => true
  | .invalidCstate _ _ => true
  | .getInfo q => q.wf
  | .getMreg q => q.wf
  | .attest q => q.wf
  | .getCert q => q.wf
  | .readRoot q => q.wf
  | .openSession q => q.wf
  | .present q => q.wf
  | .closeSession q => q.wf
  | .sessionIdleExpiry _ => true
  | .sessionAssemblyExpiry _ => true
  | .enrol q => q.wf
  | .revoke q => q.wf
  | .setQuorum q => q.wf
  | .createQueue q => q.wf
  | .destroyQueue q => q.wf
  | .setPartition q => q.wf
  | .getPartition q => q.wf
  | .setTick q => q.wf
  | .drainCellsFinish q => q.wf
  | .drainCellsEvict q => q.wf
  | .restoreCells q => q.wf
  | .setPowerCap q => q.wf
  | .enterDormant q => q.wf
  | .keyImport q => q.wf
  | .keyGenerate q => q.wf
  | .keyExport q => q.wf
  | .keyDelete q => q.wf
  | .keyInfo q => q.wf
  | .masterKeyGenerate q => q.wf
  | .masterKeyLoad q => q.wf
  | .masterKeyActivate q => q.wf
  | .masterKeyRetire q => q.wf
  | .rewrapBatch _ => true
  | .archiveBackup q => q.wf
  | .archiveRestore q => q.wf
  | .logRead q => q.wf
  | .logStream q => q.wf
  | .logStreamEntry _ => true
  | .logClear q => q.wf
  | .logClearErase => true
  | .tamperClear q => q.wf
  | .lcChange q => q.wf
  | .lcChangeJobTimeout => true
  | .lcInternalReset => true
  | .fwUpdate q => q.wf
  | .setRdp q => q.wf
  | .twinPairPrimary q => q.wf
  | .twinPairSecondary q => q.wf
  | .twinUnpair q => q.wf
  | .twinStatus q => q.wf
  | .twinPromote q => q.wf
  | .setRfOff q => q.wf
  | .setRfReader q => q.wf
  | .setRfWatch q => q.wf
  | .mediaRelease q => q.wf
  | .seedTestNormal q => q.wf
  | .seedTestRaw q => q.wf
  | .seedTestPattern q => q.wf
  | .seedRawRead q => q.wf
  | .barkConfig q => q.wf
  | .barkStatus q => q.wf
  | .logSnapshotRead q => q.wf
  | .logSnapshotSet q => q.wf
  | .logSnapshotRestore q => q.wf
  | .logExport q => q.wf
  | .mediaFormat q => q.wf
  | .mediaStatus q => q.wf
  | .setOutputsRead q => q.wf
  | .setOutputsLed2 q => q.wf
  | .setOutputsFanMin q => q.wf
  | .setOutputsLockRelease q => q.wf
  | .setOutputsLockEngage q => q.wf
  | .lockReleaseExpiry => true
  | .pinTranslate r => r.wf
  | .pinVerify r => r.wf
  | .macGenerate r => r.wf
  | .macVerify r => r.wf
  | .dukptPinTranslate r => r.wf
  | .dukptMacVerify r => r.wf
  | .dukptDecrypt r => r.wf
  | .arqcVerify r => r.wf
  | .keyblockTranslate r => r.wf
  | .ecdsaSign r => r.wf
  | .ecdsaVerify r => r.wf
  | .eddsaSign r => r.wf
  | .eddsaVerify r => r.wf
  | .rsaSign r => r.wf
  | .rsaVerify r => r.wf
  | .mldsaSign r => r.wf
  | .mldsaVerify r => r.wf
  | .ecdh r => r.wf
  | .mlkemEncaps r => r.wf
  | .mlkemDecaps r => r.wf
  | .ff1Encrypt r => r.wf
  | .ff1Decrypt r => r.wf
  | .gcmEncrypt r => r.wf
  | .gcmDecrypt r => r.wf
  | .aesCbc r => r.wf
  | .aesCtr r => r.wf
  | .aesXts r => r.wf
  | .aesEcb r => r.wf
  | .tdesCbc r => r.wf
  | .hash r => r.wf
  | .random r => r.wf
  | .batchVerifyEd25519 r => r.wf
  | .customFunction r => r.wf
  | .add c _ _ _ => c.wf
  | .sub c _ _ _ => c.wf
  | .and c _ _ _ => c.wf
  | .or c _ _ _ => c.wf
  | .xor c _ _ _ => c.wf
  | .sll c _ _ _ => c.wf
  | .srl c _ _ _ => c.wf
  | .sra c _ _ _ => c.wf
  | .slt c _ _ _ => c.wf
  | .sltu c _ _ _ => c.wf
  | .mul c _ _ _ => c.wf
  | .mulh c _ _ _ => c.wf
  | .mulhu c _ _ _ => c.wf
  | .divu c _ _ _ => c.wf
  | .remu c _ _ _ => c.wf
  | .csel c _ _ _ => c.wf
  | .bswap c _ _ _ => c.wf
  | .addi c _ _ _ => c.wf
  | .andi c _ _ _ => c.wf
  | .ori c _ _ _ => c.wf
  | .xori c _ _ _ => c.wf
  | .shi c _ _ _ => c.wf
  | .lui c _ _ _ => c.wf
  | .slti c _ _ _ => c.wf
  | .sltiu c _ _ _ => c.wf
  | .ld c _ _ _ _ => c.wf
  | .st c _ _ _ _ => c.wf
  | .ldu c _ _ _ _ => c.wf
  | .stu c _ _ _ _ => c.wf
  | .tas c _ _ _ _ => c.wf
  | .cb c _ _ _ _ => c.wf
  | .cbi c _ _ _ _ => c.wf
  | .j c _ _ => c.wf
  | .jr c _ _ _ => c.wf
  | .rpt c _ _ => c.wf
  | .rptu c _ _ => c.wf
  | .mfs c _ _ => c.wf
  | .mts c _ _ => c.wf
  | .fence c => c.wf
  | .eret c => c.wf
  | .syscall c _ => c.wf
  | .yield c => c.wf
  | .waittick c _ _ => c.wf
  | .bnx c _ _ => c.wf
  | .bnxEnd _ _ _ => true
  | .keyld c _ _ _ => c.wf
  | .keyldAnswer _ => true
  | .wipe c _ _ _ => c.wf
  | .budgetInterrupt _ => true
  | .budgetHoldTimeout _ => true
  | .dramStoreDiscard _ _ => true
  | .accessTableWrite _ _ _ => true
  | .pqpostWrite _ _ => true
  | .pipelineRequestEnd _ descriptor _ => decide (descriptor < 4)
  | .dgoGo _ _ => true
  | .dgoAbort _ _ => true
  | .digestListEnd _ _ => true
  | .dsaveSave _ _ => true
  | .dsaveRestore _ _ => true
  | .dcmpgo _ _ => true
  | .dcmpEnd _ _ => true
  | .srreqWrite _ _ => true
  | .srcancelWrite _ => true
  | .seedDeliveryDone _ => true
  | .heartwoodCheck _ => true
  | .heartwoodLoadWindow _ => true
  | .heartwoodLoadHalf _ => true
  | .ceilingCommitRetry _ _ => true
  | .primePoolRefill _ => true
  | .journalEraseDone => true
  | .seedBlock bits => bits.length == 1024
  | .seedSourceRestart => true
  | .barkAlarmGroup group => group.all (fun a => decide (a.source < 28))
  | .barkSourceInactive _ => true
  | .loopModeTransitionEnd _ _ => true
  | .sequencerInvalidState => true
  | .aonPor => true
  | .openRecordTimeout => true
  | .logSecondRollover => true
  | .flashOpDone _ o => o.wf
  | .flashRefresh _ => true
  | .powerGood _ _ => true
  | .powerFailWarning _ _ => true
  | .shutdownIdle => true
  | .wakeComplete _ cellFail _ => cellFail.all (fun c => decide (c < 256))
  | .twinLinkTrained lanes => lanes == 1 || lanes == 2
  | .twinHandshakeRetry => true
  | .twinHandshakeTimeout => true
  | .hello _ _ _ domain _ => domain.length == 16
  | .auth _ _ _ _ => true
  | .role _ _ _ _ _ _ _ _ => true
  | .heartbeat _ _ => true
  | .heartbeatSend => true
  | .repl _ _ _ _ _ => true
  | .ack _ _ _ _ => true
  | .ceil _ _ _ _ => true
  | .grant _ _ _ _ _ _ => true
  | .req _ _ _ => true
  | .rekey _ _ _ => true
  | .close _ _ _ => true
  | .twinRekeyDue => true
  | .twinLinkLoss => true
  | .twinLeaseExpiry => true
  | .sdInsert => true
  | .sdRemoval => true
  | .sdRetune _ => true
  | .sdBusyTimeout => true
  | .iccInsert => true
  | .iccRemoval => true
  | .watchLoadChange _ => true
  | .watchHoldExpiry => true
  | .externalFieldDetected => true
  | .externalFieldGone => true
  | .tagReqb _ => true
  | .tagAttrib => true
  | .tagHltb => true
  | .tagSelect aid => decide (aid.length ≤ 16)
  | .tagReadBinary _ _ => true
  | .tagOtherApdu => true
  | .tagctlSwap _ => true
  | .tagSwapApply => true
  | .tagshadowWrite _ _ => true
  | .fanDutyUpdate _ _ => true
  | .fanStall => true
  | .mgmtRead _ _ => true
  | .mpenlRead => true
  | .dbyteslRead _ _ => true
  | .groveLinkTrained _ _ => true
  | .sdCardIdentified _ busMode _ _ copy0 copy1 headers commits _ =>
    decide (busMode.toNat < 6) && copy0.length == 512 && copy1.length == 512 && (headers ++ commits).all (fun b => b.length == 512)
  | .sdCurrentLimit => true
  | .serviceButtonChange _ => true
  | .functionPowerStateChange _ _ => true
  | .vfEnableWrite _ => true
  | .illegalInstruction c => c.wf
  | .instructionFetchFault c _ => c.wf

end Sys2Proof
end

