-- ==== Sys2Proof/Tests/Slice0.lean ====
section
/-! SUPPORT. Own tests: ill-formed commands refused, small steps with results taken from the spec, and for each obligation a
state and operands that meet its hypotheses. -/

namespace Sys2Proof.Tests

open Sys2Proof Sys2Proof.Machine Sys2Proof.Claims

set_option Elab.async false

/-! ## States -/

/-- Grove A serves, cell 3 runs with its BUDGET counting, and the host may act. -/
def unit : Cell := { st := .idle, brem := 90000, ctick := 5, jpart := 1, atValid := true, atPart := 1 }

/-- A generator that runs, with `n` bytes in its queue, and waits for its reseed: what it gives is what its queue holds. -/
def filled (n : Nat) : Gen :=
  { running := true, key := List.replicate 32 0, v := List.replicate 16 0, queue := List.replicate n 0, made := 16 * 2 ^ 20 }

def groveUp : Grove := { powered := true, linkUp := true, gen := filled 4096, resetKeys := [0], linkKey := [0] }

/-- A module that has reached READY in OPERATIONAL, with its schedule running, heartwood serving, Seed running, and sessions
1 (officer), 2 (operator) and 3 (auditor) of partition 0 open on function 0. -/
def session (r : Role) : Session :=
  { fn := 0, role := r, partition := 0, isOpen := true, challenge := [], joined := [], failures := 0, openedAt := 0, lastAt := 0 }

def up : State := { State.reset with
  clock := { cd18 := 1000 }
  sched := { tick := 20005, running := true, firstBoundary := false, inGuard := false, windowOpen := 2 }
  trunk := { ready := true, starting := true, perst := false, life := .operational, powerGood := true }
  groveA := groveUp
  groveB := groveUp
  cells := [(3, unit), (8, unit), (16, unit), (24, unit), (32, unit), (40, unit), (48, unit), (56, unit), (64, unit), (72, unit)]
  sessions := [(1, session .officer), (2, session .operator), (3, session .auditor)]
  heart := { serving := true }
  seed := { source := true, gen := filled 1024 }
  log := { reopened := true } }

/-- Cell 3 of `up` with its leaf processor as given. -/
def leaf (k : Core) : State := up.setCore 3 k

/-- A core with 1 in g1, 9 in g2 and the base of grove SRAM in g3. -/
def working : Core :=
  { pc := 0x100, gpr := (((Vector.replicate 32 (0 : Word)).set 1 1).set 2 9).set 3 0x200000000 }

/-- What a command finds outside: everything answers. -/
def io : Io :=
  { object := none, flashOk := true, sd := .done, segments := 1, responseOk := true
    card := { outcome := .absent, cert := [], signature := [], share := [] } }

/-- A request on mailbox 0 of function 0. -/
def ask (session : BitVec 32) (body : Bytes) : Req :=
  { fn := 0, via := .mailbox 0, len := 8 + body.length, carried := 256, session, body, io }

def run : Run :=
  { cell := 3, usedUs := 1, seedOk := true, seedUs := 0, checkFails := false, steps := false, dramFault := false, dramByCell := false, customStatus := 0, customOut := [] }

/-- A start-up that finds everything in order. -/
def started : BootResult :=
  { romOk := true, lifeRead := [], seedOk := true, imageA := true, imageB := true, recovery := true, dramOk := true
    journalOk := true, katFail := none, cellFail := [] }

/-! ## Ill-formed commands are refused -/

theorem test_wf_io : (Instr.getInfo { ask 0 [] with io := { io with card := { io.card with share := [0] } } }).wf = false := by decide +kernel
theorem test_wf_card : (Instr.getInfo { ask 0 [] with io := { io with card := { io.card with signature := [0] } } }).wf = false := by decide +kernel
theorem test_wf_req : (Instr.getInfo { ask 0 [] with carried := 257 }).wf = false := by decide +kernel
theorem test_wf_len : (Instr.getInfo { ask 0 [] with len := 65536 }).wf = false := by decide +kernel
theorem test_wf_body : (Instr.getInfo (ask 0 (List.replicate 249 0))).wf = false := by decide +kernel
theorem test_wf_entry : (Instr.entryFetchDone 0 1 (some [0]) none io).wf = false := by decide +kernel
theorem test_wf_message : (Instr.entryFetchDone 0 0 none (some (List.replicate 257 0)) io).wf = false := by decide +kernel
theorem test_wf_mailbox : (Instr.mailboxRequestReadDone 0 0 (some [0]) io).wf = false := by decide +kernel
theorem test_wf_budget : (Instr.budgetEnd [(256, 0)]).wf = false := by decide +kernel
theorem test_wf_pipeline : (Instr.pipelineRequestEnd 3 4 none).wf = false := by decide +kernel
theorem test_wf_block : (Instr.seedBlock []).wf = false := by decide +kernel
theorem test_wf_alarm : (Instr.barkAlarmGroup [{ source := 28, detailA := 0, detailB := 0 }]).wf = false := by decide +kernel
theorem test_wf_wake : (Instr.wakeComplete true [256] []).wf = false := by decide +kernel
theorem test_wf_lanes : (Instr.twinLinkTrained 3).wf = false := by decide +kernel
theorem test_wf_hello : (Instr.hello 1 1 true [] []).wf = false := by decide +kernel
theorem test_wf_aid : (Instr.tagSelect (List.replicate 17 0)).wf = false := by decide +kernel
theorem test_wf_sd : (Instr.sdCardIdentified true 6 false 0 [] [] [] [] []).wf = false := by decide +kernel
theorem test_wf_volume : (Instr.sdCardIdentified true 0 false 0 [0] [] [] [] []).wf = false := by decide +kernel
theorem test_wf_core : (Instr.add 0x101 1 2 3).wf = false ∧ (Instr.add 0x100 1 2 3).wf = true := by decide +kernel
theorem test_wf_point : (Instr.getInfo { ask 0 [] with io := { io with card := { io.card with point := [4] } } }).wf = false ∧
    (Instr.getInfo { ask 0 [] with io := { io with card := { io.card with point := List.replicate 97 4 } } }).wf = true := by decide +kernel
theorem test_wf_cert :
    (Instr.getInfo { ask 0 [] with io := { io with card := { io.card with cert := List.replicate 4097 0 } } }).wf = false := by decide +kernel
theorem test_wf_object (b : Bytes) (h : 64 * 2 ^ 20 < b.length) :
    (Instr.getInfo { ask 0 [] with io := { io with object := some b } }).wf = false := by
  simp [Instr.wf, Req.wf, Io.wf]; omega
theorem test_wf_custom (b : Bytes) (h : 64 * 2 ^ 20 < b.length) : (Instr.hash { run with customOut := b }).wf = false := by
  simp [Instr.wf, Run.wf]; omega
theorem test_wf_input (b : Bytes) (h : 64 * 2 ^ 20 < b.length) : (Instr.inputStaged 1 (some b)).wf = false := by
  simp [Instr.wf]; omega
theorem test_wf_boot : (Instr.startUp { started with cellFail := [256] }).wf = false ∧
    (Instr.startUp { started with lifeRead := [(3, { code := 0, mac := none })] }).wf = false ∧ (Instr.startUp started).wf = true := by decide +kernel
theorem test_wf_scan : (Instr.sdCardIdentified true 0 false 0 [] [] [[0]] [] []).wf = false := by decide +kernel
theorem test_wf_cut : (Instr.lcChange { ask 0 [] with io := { io with cut := { copies := 4 } } }).wf = false := by decide +kernel
theorem test_wf_request : (Instr.getInfo (ask 0 [])).wf = true := by decide +kernel

/-! ## The leaf processor (11, 12) -/

/-- The state after one command. -/
def after (i : Instr) (s : State) : State :=
  match exec i s with
  | .next t => t
  | _ => s

/-- Register `r` of cell 3 after one instruction on the core `k`. -/
def result (k : Core) (i : Instr) (r : BitVec 5) : Word := ((after i (leaf k)).core 3).reg r

/-- The core with two registers given. -/
def two (a b : Word) : Core := { working with gpr := (working.gpr.set 1 a).set 2 b }

-- Results computed by hand from R291, R292, R293 and R296.
theorem test_add_wraps : result (two (-1) 2) (.add 3 4 1 2) 4 = 1 := by decide +kernel
theorem test_sub_borrows : result (two 1 2) (.sub 3 4 1 2) 4 = 0xFFFFFFFFFFFFFFFF := by decide +kernel
theorem test_sra_fills : result (two 0x8000000000000000 0x44) (.sra 3 4 1 2) 4 = 0xF800000000000000 := by decide +kernel
theorem test_slt_signed : result (two (-1) 0) (.slt 3 4 1 2) 4 = 1 := by decide +kernel
theorem test_sltu_unsigned : result (two (-1) 0) (.sltu 3 4 1 2) 4 = 0 := by decide +kernel
theorem test_mulh_signed : result (two (-1) (-1)) (.mulh 3 4 1 2) 4 = 0 := by decide +kernel
theorem test_mulhu_unsigned : result (two (-1) (-1)) (.mulhu 3 4 1 2) 4 = 0xFFFFFFFFFFFFFFFE := by decide +kernel
theorem test_divu_zero : result (two 7 0) (.divu 3 4 1 2) 4 = 0xFFFFFFFFFFFFFFFF := by decide +kernel
theorem test_remu_zero : result (two 7 0) (.remu 3 4 1 2) 4 = 7 := by decide +kernel
theorem test_csel_old_rd : result (two 7 9) (.csel 3 4 1 2) 4 = 9 := by decide +kernel
theorem test_bswap : result (two 0x0102030405060708 0) (.bswap 3 4 1 0) 4 = 0x0807060504030201 := by decide +kernel
theorem test_lui_sign : result working (.lui 3 4 0 0x8000) 4 = 0xFFFFFFFF80000000 := by decide +kernel
theorem test_addi_sign : result working (.addi 3 4 0 0xFFFF) 4 = 0xFFFFFFFFFFFFFFFF := by decide +kernel
theorem test_andi_zero_extends : result (two (-1) 0) (.andi 3 4 1 0xFFFF) 4 = 0xFFFF := by decide +kernel
theorem test_shi_srl : result (two 0x10 0) (.shi 3 4 1 0x44) 4 = 1 := by decide +kernel
theorem test_g0_discards : result working (.addi 3 0 0 5) 0 = 0 := by decide +kernel
theorem test_jr_reads_first : result { working with gpr := working.gpr.set 1 0x200 } (.jr 3 1 1 0) 1 = 0x104 := by decide +kernel
theorem test_cbi_unsigned_imm :
    ((after (.cbi 3 1 4 0xFF 0x3FF) (leaf working)).core 3).pc = 0xFC := by decide +kernel
theorem test_jr_misaligned :
    let k := (after (.jr 3 1 1 1) (leaf working)).core 3
    k.pc = 0x0C0 ∧ k.savepc = 0x100 ∧ k.faddr = 2 ∧ k.reg 1 = 1 := by decide +kernel
theorem test_st_ld_sign :
    let s := after (.st 3 2 0 0 0x10) ((leaf { working with gpr := working.gpr.set 2 0x80 }).setCore 3
      { working with gpr := working.gpr.set 2 0x80 })
    memGet s.mem (cellBase 3 + 0x10) = 0x80 ∧ ((after (.ld 3 4 0 0 0x10) s).core 3).reg 4 = 0xFFFFFFFFFFFFFF80 := by decide +kernel

theorem leaf_free (k : Core) (h : (leaf k).runs 3 = true) (h' : ((leaf k).core 3).progBars false = false) : Free (leaf k) 3 :=
  ⟨h, h'⟩

/-- The core at function level, in a handler's entry window, in the guard handler. -/
def function : Core := { working with pl := true }
def entered : Core := { working with en := true }
def guarded : Core := { working with guard := true }

/-- An access table whose one entry grants everything in grove SRAM to kernel level of partition 1. -/
def open0 : AtEntry := 0x0100000017000E03

def fabric (k : Core) : State := { leaf k with groveA := { groveUp with access := [(0, open0)] } }

theorem witness_alu : FreeOrRepeating (leaf working) 3 ∧
    alu (leaf working).core (.add 3 4 1 2) = some (3, 4, 10, 1) ∧
    alu (leaf working).core (.shi 3 4 1 0xBF) = some (3, 4, 0, 1) ∧ alu (leaf working).core (.bswap 3 4 1 0) ≠ none :=
  ⟨⟨by decide +kernel, by decide +kernel⟩, by decide +kernel, by decide +kernel, by decide +kernel⟩

theorem witness_repeat_count : (progRepeat false 1).toNat / 2 ^ 30 = 1 ∧ (progRepeat false 1).toNat % 2 ^ 16 ≤ 1 ∧
    (progRepeat true 64).toNat / 2 ^ 30 = 1 ∧ 1 < (progRepeat true 64).toNat % 2 ^ 16 ∧ ({} : Core).prog.toNat / 2 ^ 30 = 0 := by
  decide +kernel

theorem witness_reserved : (leaf working).runs 3 = true ∧ ((leaf working).core 3).guard = false ∧
    ((leaf working).core 3).en = false ∧ taken 6 0 0 = none ∧ special (leaf working) 3 0x14 = none := by decide +kernel

/-- The trunk's cores at work (11 R282). -/
def trunk : State := { up with trunk := { up.trunk with bootCode := 0x0F } }

theorem witness_reserved_trunk : trunk.runs (0x100 : CoreId).toNat = true ∧ (trunk.core (0x100 : CoreId).toNat).guard = false ∧
    (trunk.core (0x100 : CoreId).toNat).en = false := by decide +kernel

theorem test_bnx_on_trunk : ((after (.bnx 0x100 4 0) trunk).core trunkCore).pc = 0x040 := by decide +kernel

theorem witness_branches : Free (leaf working) 3 ∧ taken 5 9 9 = some true ∧
    (((leaf working).core 3).reg 0 + (0x7FFC : BitVec 16).signExtend 64).toNat % 4 = 0 ∧
    (((leaf working).core 3).reg 1 + (0 : BitVec 16).signExtend 64).toNat % 4 ≠ 0 :=
  ⟨⟨by decide +kernel, by decide +kernel⟩, by decide +kernel, by decide +kernel, by decide +kernel⟩

theorem witness_load : FreeOrRepeating (leaf working) 3 ∧ ((leaf working).core 3).rptuBars 3 0x7FF8 = false ∧
    (leaf working).load 3 0x7FF8 8 = (leaf working, .ok (List.replicate 8 0)) :=
  ⟨⟨by decide +kernel, by decide +kernel⟩, by decide +kernel, by rfl⟩

theorem witness_store : FreeOrRepeating (leaf working) 3 ∧ ((leaf working).core 3).rptuBars 3 0x7FF8 = false ∧
    (leaf working).store 3 0x7FF8 [0] = (leaf working, none) :=
  ⟨⟨by decide +kernel, by decide +kernel⟩, by decide +kernel, by rfl⟩

theorem witness_accesses : region 3 0x101FF8 = .localMem (cellBase 3 + 0x101FF8) ∧
    (∀ kind, (leaf working).check 3 ((leaf working).who 3) 0x101FF8 kind = none) ∧
    region 3 0x200000000 = .fabric (groveBase false) ∧
    (fabric working).check 3 ((fabric working).who 3) 0x200000000 .write = none ∧ ((fabric working).core 3).sbuf.length < 8 :=
  ⟨by decide +kernel, fun kind => by cases kind <;> decide +kernel, by decide +kernel, by decide +kernel, by decide +kernel⟩

theorem witness_fence_tas : Free (fabric working) 3 ∧ ((fabric working).core 3).imprecise = none ∧
    ((fabric working).core 3).sbuf = [] ∧ sramKey 3 0x200000000 = some (groveBase false) ∧
    (fabric working).check 3 ((fabric working).who 3) 0x200000000 .tas = none :=
  ⟨⟨by decide +kernel, by decide +kernel⟩, by decide +kernel, by decide +kernel, by decide +kernel, by decide +kernel⟩

theorem witness_special : special (leaf working) 3 0 = some 0 ∧ special (leaf working) 3 0x13 = some 5 ∧
    special (leaf function) 3 0x12 = some 90000 ∧ FreeOrRepeating (leaf function) 3 ∧ Free (leaf working) 3 ∧
    ((leaf working).core 3).pl = false :=
  ⟨by decide +kernel, by decide +kernel, by decide +kernel, ⟨by decide +kernel, by decide +kernel⟩,
    ⟨by decide +kernel, by decide +kernel⟩, by decide +kernel⟩

theorem witness_privileged : Free (leaf function) 3 ∧ ((leaf function).core 3).pl = true ∧
    ((leaf function).core 3).guard = false ∧ ((leaf function).core 3).en = false ∧ special (leaf function) 3 0x09 ≠ none :=
  ⟨⟨by decide +kernel, by decide +kernel⟩, by decide +kernel, by decide +kernel, by decide +kernel, by decide +kernel⟩

theorem witness_system : Free (leaf working) 3 ∧ Free (leaf function) 3 ∧
    (leaf working).fetchWord 3 0x104 = some 0 ∧ repeatTarget 0x04000000 = true ∧
    (∀ w, ({ leaf working with mem := [(cellBase 3 + 0x107, 0x04)] } : State).fetchWord 3 0x104 = some w → repeatTarget w = true) ∧
    ((leaf working).core 3).savepc.toNat % 4 = 0 ∧ ((leaf working).core 3).savest.getLsbD 1 = false ∧
    (((leaf working).core 3).reg 1).toNat < (((leaf working).cell 3).ctick.setWidth 64 : Word).toNat ∧
    (((leaf working).cell 3).ctick.setWidth 64 : Word).toNat ≤ (((leaf working).core 3).reg 2).toNat :=
  ⟨⟨by decide +kernel, by decide +kernel⟩, ⟨by decide +kernel, by decide +kernel⟩, by decide +kernel, by decide +kernel,
    fun w h => by
      have e : ({ leaf working with mem := [(cellBase 3 + 0x107, 0x04)] } : State).fetchWord 3 0x104 = some 0x04000000 := by decide +kernel
      rw [e] at h; cases h; decide +kernel,
    by decide +kernel, by decide +kernel, by decide +kernel, by decide +kernel⟩

theorem witness_entry : ((leaf working).core 3).guard = false ∧ ((leaf working).core 3).en = false ∧
    ((leaf entered).core 3).en = true ∧ ((leaf entered).core 3).guard = false ∧ ((leaf guarded).core 3).guard = true := by
  decide +kernel

/-- With BUDGET raised. -/
def late (k : Core) : State := leaf { k with budget := true, ie := true }

theorem witness_events : (leaf working).runs 3 = true ∧ (leaf working).fetchFault 3 0x8000 = some (.unmapped, 0) ∧
    ((late working).core 3).budget = true ∧ (late working).interruptible 3 = true ∧
    (late guarded).groveServes (groveOf 3) = true ∧ ((late guarded).core 3).guard = true ∧ ((late entered).core 3).en = true ∧
    (∀ b r, ((late guarded).core 3).wait ≠ .bnx b r) :=
  ⟨by decide +kernel, by decide +kernel, by decide +kernel, by decide +kernel, by decide +kernel, by decide +kernel,
    by decide +kernel, fun _ _ h => by cases h⟩

-- The words of the worked example of R317, with the fields that its text and R289, R290 give.
theorem test_word_addi : decodeLeaf 3 0x05C00002 = some (.addi 3 14 0 2) ∧ decodeLeaf 3 0x05E00001 = some (.addi 3 15 0 1) := by decide +kernel
theorem test_word_shi : decodeLeaf 3 0x15CE0020 = some (.shi 3 14 14 0x20) := by decide +kernel
theorem test_word_ori : decodeLeaf 3 0x0DCE1000 = some (.ori 3 14 14 0x1000) ∧ decodeLeaf 3 0x0E2E0040 = some (.ori 3 17 14 0x40) := by
  decide +kernel
theorem test_word_tas : decodeLeaf 3 0x520E7800 = some (.tas 3 16 14 15 0) := by decide +kernel
theorem test_word_cbi : decodeLeaf 3 0x660403FF = some (.cbi 3 16 1 0 0x3FF) := by decide +kernel
theorem test_word_rpt : decodeLeaf 3 0x80000100 = some (.rpt 3 0 256) := by decide +kernel
theorem test_word_stores : decodeLeaf 3 0x4CD16008 = some (.stu 3 6 17 3 8) ∧ decodeLeaf 3 0x440E6000 = some (.st 3 0 14 3 0) := by
  decide +kernel
theorem test_word_fence : decodeLeaf 3 0xC0000300 = some (.fence 3) := by decide +kernel

/-! ## Units, Seed and heartwood (07 to 11) -/

/-- A symmetric AES key and a private key of partition 1, their handles, and a module that holds them. -/
def aesKey : Slot := { key := List.replicate 32 7, alg := 0x02, usage := 0x0008, partition := 1, gen := 3, occupied := true }
def ecKey : Slot := { key := List.replicate 32 5, alg := 0x28, usage := 0x000A, partition := 1, gen := 3, occupied := true }
def aesH : Handle := mkHandle 1 7 3
def ecH : Handle := mkHandle 1 0x10005 3
def keyed (s : State) : State := { s with heart := { s.heart with slots := [(7, aesKey), (0x10005, ecKey)] } }

def aesCtx : WCtx := { handle := aesH, partition := 1, alg := 2, usage := 0, fixed := 0, key := [], valid := true }

theorem witness_keyld : ((leaf { working with wait := .keyld 4 aesH 2 }).core 3).wait = .keyld 4 aesH 2 ∧
    (({ unit with answer := some .ok } : Cell).answer) = some .ok ∧
    ((leaf working).core 3).bankGranted true = true ∧
    ({ groveUp with window := [aesCtx] } : Grove).lookup aesH 1 = some aesCtx ∧
    ((leaf working).core 3).sbuf = [] ∧ ((leaf working).cell 3).halfL.delivering = [] := by decide +kernel

/-- A control block of microprogram 1 with 64-bit numbers: A at 0x40, B at 0x48, C at 0x50, the result at 0x58. -/
def block1 : Bytes := [1, 0, 64, 0, 0, 0, 0, 0, 0x40, 0, 0x48, 0, 0x50, 0, 0x58, 0] ++ List.replicate 48 0

/-- Microprogram 4 (MODADD) on the same areas, and its run with 5 and 7 modulo 11: 12 - 11 = 1 (07 R189). -/
def addBlock : Bytes := block1.set 0 4
def adding : BnuRun := { cb := addBlock, ins := [le 8 5, le 8 7, le 8 11, [], [], [0]] }

theorem test_bnu_modadd : adding.result = (0, le 8 1) := by decide +kernel

/-- Cell 3 waiting for the end of that run. -/
def bnuRunning : State :=
  (leaf { working with wait := .bnx false 4 }).modCell 3 (fun x => { x with bnuS := some adding })

theorem witness_bnx : Free (leaf working) (3 : CoreId).toNat ∧ (3 : CoreId).toNat < trunkCore ∧
    ((leaf working).core 3).bankGranted false = true ∧ ((leaf working).cell 3).delivering false = [] ∧
    (let cb := memRead (memWrite [] (bankKey 3 false) block1) (bankKey 3 false) 64
     cbStatus cb ≠ 2 ∧ cbStatus cb ≠ 3 ∧ (mpOf (cbNum cb) (cbSize cb) (cbEph cb) []).isSome = true ∧
       bnxCheck cb (mpOf (cbNum cb) (cbSize cb) (cbEph cb) []) {} = none) ∧
    bnxCheck (List.replicate 64 0) (mpOf 0 0 false []) {} = some 0x12 :=
  ⟨⟨by decide +kernel, by decide +kernel⟩, by decide +kernel, by decide +kernel, by decide +kernel, by decide +kernel, by decide +kernel⟩

theorem witness_bnx_end : (bnuRunning.core 3).wait = .bnx false 4 ∧ (bnuRunning.cell 3).bnu false = some adding ∧
    adding.left = none ∧ (mpOf (cbNum addBlock) (cbSize addBlock) (cbEph addBlock) ((adding.part 1).take 8)).isSome = true ∧
    (∀ x ∈ mpOf (cbNum addBlock) (cbSize addBlock) (cbEph addBlock) ((adding.part 1).take 8), 0x40 ≤ resultAt addBlock x) := by
  decide +kernel

theorem witness_table_writes : up.groveServes false = true ∧
    ((leaf { working with sbuf := [{ key := 0x13BFFFFFFF, data := [1] }] }).core 3).sbuf = [{ key := 0x13BFFFFFFF, data := [1] }] ∧
    0x13BFFFFFFF / 64 * 64 = (0x13BFFFFFC0 : BitVec 40).toNat := by decide +kernel

/-- Cell 3 with a digest context. -/
def digest (d : DCtx) : State := (fabric working).modCell 3 (fun x => { x with dctx0 := d })

/-- One fragment of 8 bytes at the base of grove SRAM plus 64, with FINAL. -/
def fragment : Bytes := le 8 0x200000040 ++ le 4 8 ++ [1, 0, 0, 0]

def listed : State := { digest { state := .busy, count := 1, alg := 1, curAlg := 1, latched := true, list := 0x200000000, goPart := 1 } with
  mem := memWrite [] (groveBase false) fragment }

theorem witness_digest : ((digest {}).cell 3).dctx0.state = .idle ∧
    ((digest { state := .done, partition := 2 }).cell 3).dctx0.partition ≠ ((digest {}).cell 3).jpart ∧
    ((digest { pair := true }).cell 3).dctx0.feeds = true ∧ ((digest { pair := true }).cell 3).dctx1.state = .idle ∧
    ((digest { cmpBusy := true }).cell 3).dctx0.cmpBusy = true ∧
    (leaf working).badBurst 3 ((leaf working).who 3) 0 0 = none ∧
    sramAddr 3 0x200000040 = true ∧
    ((fabric working).drawn.engineWrite 3 ((fabric working).who 3) 0x200000040 ((fabric working).freeBytes 512)).2 = true ∧
    (leaf working).engineRead 3 ((leaf working).who 3) 0x200000040 512 = none ∧
    (fabric working).engineRead 3 ((fabric working).who 3) 0x200000040 512 = some (List.replicate 512 0) ∧
    [({ area := List.replicate 512 0, partition := 1, ctx := {} } : DSaved)].find?
      (fun z => z.area == List.replicate 512 0 && z.partition == 1) ≠ none ∧
    ((digest { state := .busy, count := 4097 }).cell 3).dctx0.count.toNat = 4097 ∧
    ((digest { state := .busy, count := 4097 }).cell 3).dctx1.paired = false := by decide +kernel

theorem witness_digest_list : (listed.cell 3).dctx0.state = .busy ∧ (listed.cell 3).dctx0.paired = false ∧
    (listed.cell 3).dctx1.paired = false ∧ (listed.cell 3).dctx0.count = 1 ∧ (listed.cell 3).dctx0.wasOpen = false ∧
    (listed.cell 3).dctx0.latched = true ∧ (listed.cell 3).dctx0.curAlg = 1 ∧ field fragment 13 3 = 0 ∧
    field fragment 12 1 = 1 := by decide +kernel

theorem witness_digest_bytes :
    listed.engineFetch 3 (listed.cell 3).dctx0.who 0x200000000 16 = (listed, some fragment) ∧
    listed.engineFetch 3 (listed.cell 3).dctx0.who (field fragment 0 8) (field fragment 8 4) =
      (listed, some (List.replicate 8 0)) := by
  refine ⟨?_, ?_⟩ <;> rfl

/-- FIPS 180-4: SHA-256 of the 8 zero bytes of the fragment (computed with another implementation). -/
theorem test_digest_of_fragment :
    (((after (.digestListEnd 3 false) listed).cell 3).dctx0).res = [0xAF, 0x55, 0x70, 0xF5, 0xA1, 0x81, 0x0B, 0x7A, 0xF7, 0x8C, 0xAF, 0x4B, 0xC7, 0x0A, 0x66, 0x0F, 0x0D, 0xF5, 0x1E, 0x42, 0xBA, 0xF9, 0x1D, 0x4D, 0xE5, 0xB2, 0x32, 0x8D, 0xE0, 0xE8, 0x3D, 0xFC] := by
  decide +kernel

/-- The context of an AES key that encrypts (usage D0 with the ECB bit), bound to a stream. -/
def bound : WCtx := { aesCtx with usage := 0x4002, key := List.replicate 32 7 }

/-- A posted descriptor: operation 1 (AES-ECB) over 16 bytes from the base of grove SRAM to 64 above it, or none of the codes. -/
def request (key op : Nat) : PReq :=
  { key, pl := false, part := some 1, jpart := 1, streaming := true, missing := false, bound := some bound
    desc := le 1 op ++ [0, 0, 0] ++ le 4 0 ++ le 8 0x200000000 ++ le 8 0x200000040 ++ le 4 16 ++ List.replicate 36 0 }

theorem witness_pipeline : ((List.range 4).map (fun k => request k 1)).length = 4 ∧
    (leaf working).check 3 ((leaf working).who 3) 0x200000000 .read ≠ none ∧
    (fabric working).check 3 ((fabric working).who 3) 0x200000000 .read = none ∧
    memKey 3 0x200000000 = some (groveBase false) ∧ (∀ r ∈ [request 0 1], r.key ≠ groveBase false) ∧
    [request 0 1][0]? = some (request 0 1) ∧ (request 0 1).bound = some bound ∧ dOp (request 0 0x16).desc ∉ pipeOps := by
  decide +kernel

theorem witness_pipeline_aes : dOp (request 0 1).desc = 1 ∧ field (request 0 1).desc 2 1 = 0 ∧
    descOk 3 (request 0 1).desc (numBe (dIv (request 0 1).desc) % 2 ^ 32) 0 = true ∧ permitsOp bound (request 0 1).desc = true ∧
    (fabric working).source 3 (request 0 1) (dLen (request 0 1).desc) none = (fabric working, List.replicate 16 0) ∧
    ((fabric working).engineWrite 3 (request 0 1).who (dDst (request 0 1).desc)
      (ecb (aesEnc bound.key) 16 (List.replicate 16 0))).2 = true := by
  refine ⟨?_, ?_, ?_, ?_, by rfl, ?_⟩ <;> decide +kernel

/-- Cell 3 with a Seed request waiting. -/
def waiting : State := { (fabric working).modCell 3 (fun x => { x with seed := { dst := 0x200000000, state := .waiting, len := 8 } }) with
  groveA := { (fabric working).groveA with seedWait1 := [{ cell := 3 }] } }

theorem witness_seed_request : (waiting.cell 3).seed.state = .waiting ∧ (waiting.cell 3).seed.low = false ∧
    (waiting.cell 3).seed.got < (waiting.cell 3).seed.len ∧ ((fabric working).cell 3).seed.state ≠ .waiting ∧
    (fabric working).seedAlive = true ∧ ({ up with seed := { up.seed with mode := .raw } } : State).seedAlive = false ∧
    (fabric working).groveA.seedWait1 = [] ∧ 4096 ≤ (fabric working).groveA.gen.queue.length ∧
    ((fabric working).engineWrite 3 ((fabric working).who 3) 0x200000000 ((fabric working).groveA.gen.queue.take 4096)).2 = true ∧
    ({} : Grove).gen.queue = [] ∧ waiting.groveA.servesNow 3 = true ∧ 8 ≤ waiting.groveA.gen.supply 0 ∧
    (waiting.groveA.gen.give 4096 0 8).2 = List.replicate 8 0 ∧
    (waiting.engineWrite 3 (waiting.cell 3).seed.who 0x200000000 (List.replicate 8 0)).2 = true := by decide +kernel


/-- The same cell with a store that was discarded. -/
def discarded : State := fabric { working with imprecise := some 0x1000000040 }

theorem witness_after_stores : (fabric working).fenced 3 = (fabric working, none) ∧ (discarded.fenced 3).1 = fabric working ∧
    (discarded.fenced 3).2 ≠ none := ⟨rfl, rfl, by decide +kernel⟩

/-- A block whose bits alternate, and one of ones. -/
def alternating : List Bool := (List.range 1024).map (fun i => i % 2 == 0)

theorem witness_seed_block : up.seed.source = true ∧ up.seed.starting = false ∧
    750 ≤ (List.replicate 1024 true).count ((List.replicate 1024 true).headD false) ∧
    ((true :: List.replicate 1023 false).take 1024).count true < 3 ∧
    blockTest alternating up.seed.lastBit up.seed.run = none ∧ up.seed.mode = .normal ∧ up.seed.fail = false ∧
    up.seed.nextGen = 0 ∧ (∀ g, (up.grove g).linkKey ≠ []) ∧ up.trunk.held = [] ∧ up.trunk.change = none ∧
    up.twin.step ≠ .session ∧
    ({ up.seed with restarting := true } : Seed).restarting = true := by decide +kernel

theorem test_run_of_35 : blockTest (List.replicate 34 true ++ alternating.take 990) true 1 = some 1 := by decide +kernel

/-- A job of partition 1 that makes a MAC under handle A. -/
def macJob (h : Handle) : Job :=
  { fn := 1, q := 1, partition := 1, code := 0x0201, tag := 1, stamp := 20000, maxAge := 100, handleA := h, handleB := 0
    params := [5, 0, 16] ++ List.replicate 13 0, entries := [List.replicate 64 0], input := [1, 2, 3], staged := true, inLen := 3
    outCap := 64, outPtr := 0x1000, w := 10, copyA := some { place := .planned, cell := 3 } }

/-- Cell 3 has the job at the head of its plan. -/
def working1 (j : Job) : State := { keyed up with
  jobs := [(1, j)]
  cells := [(3, { unit with plan := [{ job := 1, declared := 10, long := false, resume := false }] })] }

theorem witness_check : ((working1 (macJob aesH)).cell 3).jobNow = some 1 ∧
    (working1 (macJob aesH)).job? 1 = some (macJob aesH) ∧ (working1 (macJob aesH)).argsOf (macJob aesH) = none ∧
    (macJob aesH).checked = none ∧ (macJob aesH).issued = none ∧ drawsValue (macJob aesH) = false ∧ aesKey.tk48 = false ∧
    (working1 (macJob aesH)).check36 (macJob aesH) = .ok [(true, .slot 7)] := by
  refine ⟨?_, ?_, ?_, ?_, ?_, ?_, ?_, rfl⟩ <;> decide +kernel

/-- A handle of another partition, of no key, of a generation past. -/
theorem witness_check_refuses : handlePart (mkHandle 2 7 3) ≠ 1 ∧
    (working1 (macJob (mkHandle 2 7 3))).argsOf (macJob (mkHandle 2 7 3)) = none ∧
    handlePart (mkHandle 1 8 3) = 1 ∧ (working1 (macJob (mkHandle 1 8 3))).argsOf (macJob (mkHandle 1 8 3)) = none ∧
    handlePart (mkHandle 1 7 2) = 1 ∧ (working1 (macJob (mkHandle 1 7 2))).argsOf (macJob (mkHandle 1 7 2)) = none ∧
    (working1 (macJob (mkHandle 1 8 3))).findKey (mkHandle 1 8 3) = .error .keyNotFound ∧
    (working1 (macJob (mkHandle 1 7 2))).findKey (mkHandle 1 7 2) = .error .keyStaleGeneration := by
  refine ⟨?_, ?_, ?_, ?_, ?_, ?_, rfl, rfl⟩ <;> decide +kernel

theorem witness_load_key : (keyed (leaf { working with wait := .keyld 4 aesH 2 })).loadCheck 1 none aesH 2 = .ok (7, aesKey) ∧
    handlePart (mkHandle 2 7 3) ≠ ((keyed up).cell 3).jpart ∧
    (keyed (leaf { working with wait := .keyld 4 ecH 0 })).loadCheck 1 none ecH 0 = .ok (0x10005, ecKey) ∧
    ecKey.secretive = false := by
  refine ⟨by rfl, by decide +kernel, by rfl, by decide +kernel⟩

theorem witness_timers : ({ aesKey with commitFailed := true } : Slot).occupied = true ∧ aesKey.tk48 = false ∧
    (keyed up).heart.serving = true ∧
    ((tblGet up.heart.primes 2).getD []).length < 8 ∧ up.trunk.ready = true ∧ up.halted = false ∧ up.noneServes = false ∧
    ({ up.heart with erasing := true } : Heart).erasing = true := by decide +kernel


/-! ## The host interface (03) -/

/-- Submission queue 5 and completion queue 5 of function 0, with 4 entries each. -/
def sub : Queue := { fn := 0, completion := false, num := 5, log := 2, cq := 5, base := 0x1000, record := 0x2000, ring := { host := 1 } }
def comp : Queue := { fn := 0, completion := true, num := 5, log := 2, base := 0x3000, record := 0x4000 }
def queued (a b : Queue) : State :=
  { up with queues := [(queueKey 0 false 5, a), (queueKey 0 true 5, b)] }

def cpl : Cpl := { tag := 1, status := .ok, sq := 5, tick := 1, cell := 3, slices := 1, outLen := 0, epoch := 0, receipt := 1 }

theorem witness_doorbells : up.opened 0 = true ∧ up.dormant = false ∧ State.reset.opened 0 = false ∧
    (up.ringRef 0 false 5).isNone = true ∧
    ((queued sub comp).ringRef 0 false 5).isSome = true ∧
    ((queued { sub with ring := { reading := true } } comp).ringRef 0 false 5).map (fun x => (x.ring.reading, x.ring.again, x.log)) =
      some (true, false, 2) ∧
    ((queued { sub with ring := { reading := true, again := true } } comp).ringRef 0 false 5).map (fun x => x.ring.again) =
      some true ∧
    2 ^ 2 ≤ (4 : BitVec 16).toNat ∧ (3 : BitVec 16).toNat < 2 ^ 2 ∧
    (queued sub comp).queue? (queueKey 0 true 5) = some comp ∧ comp.destroyed = false ∧ comp.waiting = [] ∧
    ({ comp with waiting := [cpl] } : Queue).waiting = [cpl] ∧ (comp.ring.dev + 1) % 2 ^ comp.log ≠ 0 := by decide +kernel

/-- In DORMANT. -/
def asleep (s : State) : State := { s with trunk := { s.trunk with power := .dormant } }

theorem witness_doorbell_dormant : (asleep (queued sub comp)).opened 0 = true ∧ (asleep (queued sub comp)).dormant = true ∧
    ((asleep (queued sub comp)).ringRef 0 ((5 : BitVec 32).getLsbD 15) ((5 : BitVec 32).toNat % 1024)).isSome = true ∧
    ((asleep (queued sub comp)).ringRef 0 true 5).isSome = true := by decide +kernel

/-- One submission queue has an entry, and no other queue can have its entry read. -/
theorem witness_fetch : (queued sub comp).trunk.fetching = none ∧ (queued sub comp).trunk.ready = true ∧
    (queued sub comp).fetchable 0 5 = true ∧
    (queueKey 0 false 5, sub) ∈ (queued sub comp).queues ∧ sub.fn = 0 ∧ sub.num = 5 ∧ sub.completion = false := by decide +kernel

theorem witness_fetch_alone (g p : Nat) (h : (queued sub comp).fetchable g p = true) : g = 0 ∧ p = 5 := by
  have hk : ∀ k, (queued sub comp).queue? k = if k = 5 then some sub else if k = 1029 then some comp else none := by
    intro k
    simp only [State.queue?, queued, tblGet, queueKey]
    simp only [eq_comm (b := k)]
    rfl
  have hf : ∀ f, (queued sub comp).fn f = {} := fun _ => rfl
  by_cases h0 : p = 0
  · simp [State.fetchable, State.ringRef, hf, h0] at h
  · simp only [State.fetchable, State.ringRef, h0, hf, hk, queueKey, if_false, Bool.false_and, Bool.false_eq_true] at h
    split at h
    · simp at h
    · next x hx =>
      split at hx
      · next y hy =>
        split at hy
        · omega
        · split at hy
          · cases hy
            cases hx
            simp [comp] at h
          · cases hy
      · cases hx

/-- An inline FIRST and LAST entry of RANDOM (05 R138): 3 bytes of input at byte 24. -/
def entry : Bytes := le 2 0x0B01 ++ [7, 0, 0x13, 0, 0, 0] ++ List.replicate 16 0 ++ [1, 2, 3, 0, 0, 0, 0, 0] ++ le 4 3 ++ le 4 64 ++
  List.replicate 24 0

/-- The read of that queue's entry is outstanding. -/
def fetching : State := { queued sub comp with trunk := { up.trunk with fetching := some (0, 5) } }

theorem witness_entries : fetching.opened 0 = true ∧ fetching.dormant = false ∧
    fetching.queue? (queueKey 0 false 5) = some sub ∧ sub.destroyed = false ∧
    sub.ring.dev ≠ sub.ring.host ∧ fetching.intakeFull sub = false ∧ sub.chain = [] ∧ entry.length = 64 ∧
    entryFirst entry = true ∧ entryLast entry = true ∧ entryInline entry = true ∧
    entryBad sub.dual sub.requeue entry = false ∧ fetching.entryCheck sub [entry] = none ∧
    entryBad sub.dual sub.requeue (entry.set 4 0x17) = true ∧ entryFirst (entry.set 4 0x17) = true ∧
    fetching.entryCheck sub [entry.set 5 1] = some .partitionMismatch ∧
    entryInline (List.replicate 64 0) = false := by decide +kernel

/-- That job waits for its input. -/
theorem witness_staging : ({ macJob aesH with staged := false } : Job).staged = false ∧
    ({ macJob aesH with staged := false } : Job).entries = [List.replicate 64 0] ∧
    ({ macJob aesH with staged := false } : Job).refusal = none ∧
    ({ up with jobs := [(1, { macJob aesH with staged := false })] } : State).job? 1 = some { macJob aesH with staged := false } := by
  decide +kernel

/-- R27, R88: the entry makes a job with its code, tag and input. -/
theorem test_entry_makes_a_job :
    ((after (.entryFetchDone 0 5 (some entry) none io) fetching).job? fetching.nextJob).map (fun x => (x.code, x.tag, x.input, x.outCap, x.stamp)) =
      some (0x0B01, 7, [1, 2, 3], 64, 20005) := by decide +kernel

/-- Mailbox 0 of function 0 in a state. -/
def mailbox (x : Mailbox) : State := up.modFn 0 (fun f => { f with mbox := [(0, x)] })

theorem witness_mailbox : (mailbox { en := true }).opened 0 = true ∧ (7 : BitVec 3).toNat < mailboxes 0 ∧
    (((mailbox { state := .busy }).fn 0).mailbox 0).state = .busy := by decide +kernel

theorem test_mailbox_ovr : (((after (.mailboxDoorbell 0 0) (mailbox { en := true, state := .busy })).fn 0).mailbox 0).ovr = true := by
  decide +kernel
theorem test_mailbox_read :
    (after (.mailboxDoorbell 0 8) (mailbox { en := true, req := 0x5000 })).out = [.hostRead 0 0x5000 256] := by decide +kernel

theorem witness_control : (0xFFFF1C01 : BitVec 32).extractLsb' 16 16 = BitVec.allOnes 16 ∧ (up.fn 0).adm.active = false ∧
    (0xFFFF1C01 : BitVec 32).getLsbD 0 = true ∧ (0xFFFF1C01 : BitVec 32).toNat / 2 ^ 8 % 16 = 12 ∧
    (0xFFFF1C01 : BitVec 32).toNat / 2 ^ 12 % 16 = 1 ∧ (0xFFFF1D01 : BitVec 32).toNat / 2 ^ 8 % 16 = 13 ∧
    (0xFFFF0000 : BitVec 32).getLsbD 0 = false ∧ (up.fn 0).adm.waiting = [] ∧ (up.fn 0).adm.en = false ∧
    ((up.fn 0).service 3).active = false ∧ ((up.fn 0).service 0).en = false := by decide +kernel

theorem test_aqctl_sizes : ((after (.aqctlWrite 0 0xFFFFCC01) up).fn 0).adm.active = true ∧
    ((after (.aqctlWrite 0 0xFFFFDC01) up).fn 0).adm.cfgErr = true := by decide +kernel

theorem witness_register_reads : up.live 0 = true ∧ up.trunk.ready = true ∧ up.dormant = false ∧ (asleep up).live 0 = true ∧ up.live 1 = false ∧
    ({ up with trunk := { up.trunk with ready := false } } : State).live 0 = true ∧
    ({ up with trunk := { up.trunk with numVfs := 1 } } : State).live 1 = true := by decide +kernel

theorem test_tick_latch :
    let s := after (.ticklRead 0) { up with sched := { up.sched with tick := 0x123456789ABC } }
    (s.fn 0).tickH = 0x1234 ∧ s.out = [.regRead 0 0x3000 0x56789ABC] := by decide +kernel

/-- Vector 0 has a pending addition that has seen its one boundary. -/
def counting (masked : Bool) : State := up.modFn 0 (fun f => { f with vec := [(0, { cnt := 2, pend := 1, age := 1, masked })] })

theorem witness_register_accesses : (asleep up).live 0 = true ∧ (asleep up).dormant = true ∧ (0x3000 : BitVec 16).toNat / 0x1000 % 4 ≠ 0 ∧
    (0x0FFC : BitVec 16).toNat / 0x1000 % 4 = 0 ∧ (0x07FC : BitVec 16).toNat % 0x1000 < 0x800 ∧
    0x800 ≤ (0x0800 : BitVec 16).toNat % 0x1000 ∧ (0x2170 : BitVec 16).toNat = 0x2110 + 0x20 * (3 : BitVec 2).toNat ∧
    (0x1170 : BitVec 16).toNat = 0x1010 + 0x100 * ((7 : BitVec 3).toNat / 4) + 0x20 * ((7 : BitVec 3).toNat % 4) ∧
    (0x237C : BitVec 16).toNat = 0x2300 + 4 * 31 ∧ (0x3F8 : BitVec 16).toNat = 16 * 63 + 8 ∧
    (((counting false).fn 0).vector 0).pend ≠ 0 ∧ 1 ≤ (((counting true).fn 0).vector 0).age ∧
    (((counting true).fn 0).vector 0).cnt ≠ 0 ∧ (counting true).dormant = false ∧ (up.fn 0 |>.vector 31).pend = 0 := by decide +kernel

theorem witness_functions_reset : up.live 0 = true ∧ ({ up with trunk := { up.trunk with numVfs := 2 } } : State).live 2 = true ∧
    (1 : BitVec 6).toNat < 2 := by decide +kernel

/-! ## The tick, cells, groves and completions (02, 05, 06) -/

def meters : Meters :=
  { vinMv := 48000, iinMa := 1000, pinMw := 30000, dieA := 50, dieB := 50, dieTrunk := 50, caseC := 40, aonC := 40, vbakMv := 3000 }

theorem witness_boundary : up.sched.running = true ∧ up.trunk.ready = true ∧ up.dormant = false ∧ up.sched.stalled = false ∧
    ({ up.sched with pend := some (50, 20006) } : Sched).pend = some (50, 20006) ∧ 199 < up.sched.period * 1000 ∧
    up.sched.firstBoundary = false ∧ up.sched.resumed = false := by decide +kernel

/-- R56: a boundary late by less than a period keeps the grid; one later than that starts a new one. -/
def lateBy (n : Nat) : State := { up with clock := { cd18 := 2500 + n } }

theorem test_late_boundary_keeps_the_grid : (lateBy 2499).gridAt = 2500 ∧ (lateBy 2500).gridAt = 5000 := by decide +kernel

theorem test_thermal_step : (after .thermalLimitStep { up with
      sched := { up.sched with coolTicks := some 99 }, groveA := { groveUp with thermal := 100 } }).groveA.thermal = 108 := by
  decide +kernel

theorem witness_budget_end : up.sched.running = true ∧ up.sched.inGuard = false ∧ up.groveServes (groveOf 3) = true ∧
    (up.cell 3).brem ≠ 0 ∧ up.sched.stalled = false ∧ up.bark.tarm.getLsbD 24 = true ∧
    ({ up.sched with stalled := true } : Sched).stalled = true ∧ ({ up.sched with coolTicks := some 99 } : Sched).coolTicks = some 99 := by
  decide +kernel

/-- A HALT-class response in force, and a boundary. -/
theorem witness_halted_boundary : ({ up with bark := { up.bark with thalt := 1 } } : State).halted = true ∧
    ((working1 (macJob aesH)).copy? 1 false).map (fun k => k.place) = some .planned ∧
    ∃ t, exec (.tickBoundary 0 0 meters) { working1 (macJob aesH) with bark := { up.bark with thalt := 1 } } = .next t :=
  ⟨by decide +kernel, by decide +kernel, _, rfl⟩

/-- Grove A in a state. -/
def groveA (g : Grove) : State := { up with groveA := g }

theorem witness_groves : up.groveServes false = true ∧ (groveA { lost := true }).trunk.ready = true ∧
    ({ lost := true } : Grove).rejoinTried = false ∧ ({ lost := true } : Grove).rising = none ∧
    ((groveA { lost := true }).trunkDraw 32).isSome = true ∧
    (({ groveA { lost := true } with seed := { mode := .raw } } : State).trunkDraw 32).isNone = true ∧
    (groveA { lost := true }).seedAlive = true ∧ ((groveA { lost := true }).trunkTake linkKeyLen).isSome = true ∧
    ({ groveA { lost := true } with seed := { mode := .raw } } : State).seedAlive = false ∧
    (({ groveA { lost := true } with seed := {} } : State).trunkTake linkKeyLen).isNone = true ∧
    up.trunk.change = none ∧ up.trunk.held = [] ∧ ({} : Grove).linkKey = [] ∧ groveUp.linkKey ≠ [] ∧
    ({ powered := true, rising := some [(3, 0)] } : Grove).rising = some [(3, 0)] := by decide +kernel

theorem witness_cells : (up.cell 3).st = .idle ∧ up.groveServes (groveOf 3) = true ∧ ({ st := .fenced } : Cell).st = .fenced ∧
    ({} : Cell).st = .selftest ∧ ({} : Cell).testPassed = false ∧
    3 ≤ (([2, 2, 1] : List Nat).filter (fun w => decide (up.window < w + 10))).length := by decide +kernel

theorem test_third_fence_fails :
    ((after (.selftestDone 3 true) (up.setCell 3 { fences := [2, 2, 1] })).cell 3).st = .failed := by decide +kernel

/-- A completion record for job 1 at the base of grove SRAM: status 0, 3 output bytes at byte 64. -/
def recorded : State := { working1 { macJob aesH with copyA := some { place := .running, cell := 3 } } with
  mem := memWrite [] (groveBase false) (le 4 1 ++ [0, 0, 1, 0] ++ le 4 3) }

theorem witness_dispatcher : num (memRead recorded.mem (groveBase false) 4) = 1 ∧ (recorded.job? 1).isSome = true ∧
    (recorded.copy? 1 false).map (fun k => (k.place, k.cell)) = some (.running, 3) ∧
    (∃ i ∈ (recorded.cell 3).plan, i.job = 1) ∧ (0 : BitVec 32).toNat + 128 ≤ 2 ^ 23 ∧
    Status.ofCode (num (memRead recorded.mem (groveBase false + 4) 2)) = some .ok ∧
    num (memRead recorded.mem (groveBase false + 6) 1) % 2 = 1 ∧
    num (memRead recorded.mem (groveBase false + 8) 4) ≤ (macJob aesH).outCap ∧
    ((working1 (macJob aesH)).copy? 1 false).map (fun k => (k.place, k.cell)) = some (.planned, 3) ∧
    ({ unit with resident := some 1 } : Cell).resident = some 1 := by decide +kernel

def posted : Posted :=
  { job := 1, grove := false, status := .ok, out := [1], outLen := 1, entryDigest := [], outDigest := [], epoch := 0
    cell := 3, tick := 1, ran := 1 }

def held : Result := { status := .ok, out := [], outLen := 0, entryDigest := [], outDigest := [], epoch := 0 }

theorem witness_completion : ({ working1 (macJob aesH) with posted := [posted] } : State).posted = [posted] ∧
    (working1 (macJob aesH)).job? posted.job = some (macJob aesH) ∧ (macJob aesH).mark = none ∧
    ((macJob aesH).copy false).isSome = true ∧ (macJob aesH).copy true = none ∧
    ({ macJob aesH with copyB := some {} } : Job).copy true = some {} ∧ ({} : Copy).result = none ∧
    ({ macJob aesH with copyB := some { result := some held } } : Job).copy true = some { result := some held } := by decide +kernel

def root : Root :=
  { window := 1, closeNo := 1, first := 1, count := 1, close := false, signed := false, digest := [], tick := 20000, signature := [] }

/-- Partition 0 has an active master key. -/
def mastered : State := { up with heart := { up.heart with masters := [(0, { st := .active, key := [1], gen := 1 })] } }

theorem witness_windows : up.trunk.ready = true ∧ up.sched.firstBoundary = false ∧
    ({ up.sched with tick := 19999, windowOpen := 1 } : Sched).windowOpen < (19999 + 1) % 2 ^ 48 / 10000 ∧
    ({ count := 1 } : Part).count ≠ 0 ∧ up.sched.windowOpen = (up.sched.tick + 1) % 2 ^ 48 / 10000 ∧
    ({ closing := [root] } : Part).closing = [root] ∧ up.sched.windowOpen ≤ root.window + 4096 ∧
    mastered.trunk.life = .operational ∧ (mastered.activeMaster 0).isSome = true ∧
    (mastered.slot attestSlot).occupied = false ∧ mastered.heart.serving = true ∧ (mastered.trunkDraw 56).isSome = true := by
  decide +kernel

/-- R38: window 1 is closed as the boundary of tick 20,000 is next. -/
theorem test_window_closes_before_its_boundary :
    (after .windowClose { up with sched := { up.sched with tick := 19999, windowOpen := 1 } }).sched.windowOpen = 2 ∧
    (after .windowClose { up with sched := { up.sched with tick := 19998, windowOpen := 1 } }).sched.windowOpen = 1 := by
  decide +kernel

/-! ## The trunk command set (04) -/

/-- `Admitted`, decided. -/
def admits (s : State) (q : Req) (k : Cmd) : Bool :=
  s.opened q.fn.toNat && !s.dormant && decide (8 ≤ q.len) && decide (q.len ≤ 256) && (q.via.isMailbox || q.len == q.carried) &&
    k.states.contains s.trunk.life && s.trunk.change.isNone && (!s.lockout || k.underLockout) &&
    ((q.session == 0 && k.roles.contains .host && (!k.zero || q.fn == 0)) ||
      (match s.session? q.session.toNat with
      | some x => q.session != 0 && x.fn == q.fn.toNat && x.isOpen &&
        k.roles.any (fun l => l == .host || x.role == l || (x.role == .officer && l == .operator)) && (!k.zero || x.partition == 0)
      | none => false)) &&
    !q.reserved k.bytes && (!k.cellJob || (!s.halted && (s.trunk.life == .recovery || (!s.trunk.dark && decide (s.internalJobs < 256))))) &&
    (k.ended q.io.during).isNone && s.trunk.resuming.isNone && s.trunk.held.isEmpty && s.twin.replies.isEmpty

theorem admitted_of (s : State) (q : Req) (k : Cmd) (h : admits s q k = true) : Admitted s q k := by
  simp only [admits, Bool.and_eq_true, Bool.or_eq_true, Bool.not_eq_true', beq_iff_eq, decide_eq_true_eq, List.contains_iff_mem,
    Option.isNone_iff_eq_none, List.isEmpty_iff] at h
  obtain ⟨⟨⟨⟨⟨⟨⟨⟨⟨⟨⟨⟨⟨⟨h1, h2⟩, h3⟩, h4⟩, h5⟩, h6⟩, h7⟩, h8⟩, h9⟩, h10⟩, h11⟩, h12⟩, h13⟩, h14⟩, h15⟩ := h
  refine ⟨⟨h1, h2⟩, ⟨h3, h4, fun n => h5.resolve_left (by simp [n])⟩, ⟨h6, h7, h8⟩, ?_, h10, fun n => ?_, h12, h13, fun p => by simp [State.behind, h14, h15]⟩
  · rcases h9 with ⟨⟨a, b⟩, c⟩ | h9
    · exact .inl ⟨a, b, fun n => c.resolve_left (by simp [n])⟩
    · revert h9
      cases e : s.session? q.session.toNat with
      | none => simp
      | some x =>
        simp only [Bool.and_eq_true, bne_iff_ne, ne_eq, beq_iff_eq, List.any_eq_true, Bool.or_eq_true, Bool.not_eq_true']
        rintro ⟨⟨⟨⟨a, b⟩, c⟩, l, d, g⟩, z⟩
        refine .inr ⟨x, l, a, rfl, b, c, d, ?_, fun n => z.resolve_left (by simp [n])⟩
        rcases g with (g | g) | g
        · exact .inl g
        · exact .inr (.inl g)
        · exact .inr (.inr g)
  · rcases h11 with h11 | h11
    · simp [n] at h11
    · exact h11

theorem witness_first_checks : up.opened (ask 0 []).fn.toNat = true ∧ (asleep up).dormant = true ∧ (asleep up).opened 0 = true ∧
    ({ ask 0 [] with len := 7 } : Req).len < 8 ∧ 256 < ({ ask 0 [] with len := 257 } : Req).len ∧
    ({ up with trunk := { up.trunk with change := some { target := .maintenance, timedOut := false } } } : State).trunk.change.isSome = true ∧
    ({ up with bark := { up.bark with lko := true } } : State).lockout = true := by decide +kernel

theorem witness_turn (code part : Nat) : up.trunk.resuming = none ∧ up.behind code part = false := by
  have h : up.twin.replies = [] ∧ up.trunk.held = [] := ⟨rfl, rfl⟩
  exact ⟨rfl, by simp [State.behind, h]⟩

/-- An administrative request. -/
def admin : Req := { ask 1 [] with via := .admin 7 0x9000, carried := 8 }

theorem witness_responses : ([] : Bytes).length ≤ 248 ∧ (ask 1 []).session ≠ 0 ∧
    up.session? (ask 1 []).session.toNat = some (session .officer) ∧ (session .officer).fn = 0 ∧
    ((up.fn 0).mailbox 0).ie = false ∧ admin.via = .admin 7 0x9000 ∧ ({ active := true } : AdminPair).waiting = [] ∧
    ({} : Ring).room 0 = false := by decide +kernel

/-- The 256 request bytes of a row without parameters, and mailbox 0 BUSY. -/
def message (code op : Nat) : Bytes := le 2 code ++ le 2 (if op = 0 then 8 else 16) ++ le 4 1 ++ le 1 op ++ List.replicate 247 0
def taking : State := mailbox { en := true, state := .busy }

theorem witness_messages : taking.opened 0 = true ∧ taking.dormant = false ∧ (((taking.fn 0).mailbox 0).state) = .busy ∧
    field (message 0x0801 2) 0 2 = 0x0801 ∧ field (message 0x0801 2) 8 1 = 2 ∧ field (message 0x0101 0) 0 2 = 0x0101 ∧
    (0x0101, Instr.getInfo (ask 0 [])) ∈ messages (ask 0 []) ∧ (∀ p ∈ messages (ask 0 []), p.1 ≠ 0x0902) ∧
    8 ≤ field (message 0x0902 0) 2 2 ∧ field (message 0x0902 0) 2 2 ≤ 256 := by decide +kernel

/-- Parameters from byte 8 on. -/
def withReports : State := { keyed up with
  trunk := { up.trunk with devidCert := [1, 2, 3] }
  parts := [(0, { roots := [root] })]
  heart := { up.heart with slots := [(7, { aesKey with partition := 0 })] }
  log := { up.log with opened := some { seq := 5, code := 1, source := 0, sev := 0, repeats := 1, op := 0, cycle := 0, partition := 0
                                        frac := 0, snapCount := 0, flags := 0, payload := [], snap := [], last := 5 } } }

theorem witness_reports :
    Admitted up (ask 0 []) (row 0x0101 [.host] false allStates []) ∧
    Admitted up (ask 0 [5, 3]) (row 0x0102 [.host] false allStates [(8, 2)]) ∧
    Admitted up (ask 0 (List.replicate 32 9)) { row 0x0103 [.host] false allStates [(8, 32)] with underLockout := true } ∧
    (Admitted withReports (ask 0 [0, 0, 3, 0]) (row 0x0104 [.host] false allStates [(8, 1), (10, 2)]) ∧
      withReports.trunk.devidCert ≠ [] ∧ (ask 0 [0, 0, 3, 0]).b 10 2 ≤ withReports.trunk.devidCert.length) ∧
    (Admitted withReports (ask 1 [1]) (row 0x0105 [.host] false [.factory, .operational, .maintenance] [(8, 9)]) ∧
      ((withReports.part (withReports.ownPart (ask 1 [1]))).roots.filter (fun x =>
        decide (withReports.sched.windowOpen ≤ x.window + 4096) && x.window == (ask 1 [1]).b 8 8))[0]? = some root) ∧
    (Admitted up (ask 0 [63]) (row 0x0304 [.host] false allStates [(8, 1)]) ∧ (ask 0 [63]).b 8 1 ≤ 63) ∧
    (Admitted withReports (ask 1 (le 4 (mkHandle 0 7 3).toNat)) (row 0x0505 [.host] false [.operational, .maintenance] [(8, 4)]) ∧
      handlePart (mkHandle 0 7 3) = withReports.ownPart (ask 1 []) ∧ withReports.findKey (mkHandle 0 7 3) = .ok (.slot 7)) ∧
    (Admitted withReports (ask 3 (le 4 5)) (row 0x0601 [.operator, .auditor] true allStates [(8, 4)]) ∧
      (withReports.log.named 5).isSome = true) ∧
    Admitted up (ask 0 []) (row 0x0606 [.host] false allStates []) ∧
    Admitted up (ask 0 [1, 1, 0]) (row 0x0607 [.host] false allStates [(8, 3)]) ∧
    Admitted up (ask 0 []) (row 0x0802 [.host] false allStates []) ∧ Admitted up (ask 0 []) (row 0x0A04 [.host] false allStates []) ∧
    Admitted up (ask 0 [0]) (row 0x0406 [.host] false allStates [(8, 1)]) :=
  ⟨admitted_of _ _ _ (by decide +kernel), admitted_of _ _ _ (by decide +kernel), admitted_of _ _ _ (by decide +kernel),
    ⟨admitted_of _ _ _ (by decide +kernel), by decide +kernel, by decide +kernel⟩,
    ⟨admitted_of _ _ _ (by decide +kernel), by decide +kernel⟩, ⟨admitted_of _ _ _ (by decide +kernel), by decide +kernel⟩,
    ⟨admitted_of _ _ _ (by decide +kernel), by decide +kernel, by rfl⟩, ⟨admitted_of _ _ _ (by decide +kernel), by decide +kernel⟩,
    admitted_of _ _ _ (by decide +kernel), admitted_of _ _ _ (by decide +kernel), admitted_of _ _ _ (by decide +kernel),
    admitted_of _ _ _ (by decide +kernel), admitted_of _ _ _ (by decide +kernel)⟩

/-! ### Sessions, enrolments, queues, schedule, outputs -/

/-- `ForSession`, decided. -/
def concerns (s : State) (q : Req) (k : Cmd) (x : Session) : Bool :=
  s.opened q.fn.toNat && !s.dormant && decide (8 ≤ q.len) && decide (q.len ≤ 256) && q.via.isMailbox &&
    k.states.contains s.trunk.life && s.trunk.change.isNone && !s.lockout && q.session != 0 &&
    s.session? q.session.toNat == some x && x.fn == q.fn.toNat && !q.reserved k.bytes &&
    !s.halted && (s.trunk.life == .recovery || (!s.trunk.dark && decide (s.internalJobs < 256))) && (k.ended q.io.during).isNone &&
    s.trunk.resuming.isNone && s.trunk.held.isEmpty && s.twin.replies.isEmpty

theorem concerns_of (s : State) (q : Req) (k : Cmd) (x : Session) (h : concerns s q k x = true) : ForSession s q k x := by
  simp only [concerns, Bool.and_eq_true, Bool.or_eq_true, Bool.not_eq_true', beq_iff_eq, bne_iff_ne, ne_eq, decide_eq_true_eq,
    List.contains_iff_mem, Option.isNone_iff_eq_none, List.isEmpty_iff] at h
  obtain ⟨⟨⟨⟨⟨⟨⟨⟨⟨⟨⟨⟨⟨⟨⟨⟨⟨h1, h2⟩, h3⟩, h4⟩, h5⟩, h6⟩, h7⟩, h8⟩, h9⟩, h10⟩, h11⟩, h12⟩, h13⟩, h14⟩, h15⟩, h16⟩, h17⟩, h18⟩ := h
  exact ⟨⟨h1, h2⟩, ⟨h3, h4, fun n => by simp [h5] at n⟩, ⟨h6, h7, h8⟩, ⟨h9, h10, h11⟩, h12, fun _ => ⟨h13, h14⟩, h15,
    h16, fun p => by simp [State.behind, h17, h18]⟩

/-- The base point of P-384 (FIPS 186-5) as an uncompressed public key: that of the private key 1. -/
def basePoint : Bytes := 4 :: be 48 0xAA87CA22BE8B05378EB1C71EF320AD746E1D3B628BA79B9859F741E082542A385502F25DBF55296C3A545E3872760AB7 ++
  be 48 0x3617DE4A96262C6F5D9E98BF9292DC29F8F41DBD289A147CE9DA3113B5F0B8C00A60B1CE1D7E819D7A431D7C90EA0E5F

/-- The least DER certificate that gives that public key. -/
def basePointCert : Bytes :=
  let spki := [0x30, 0x76, 0x30, 0x10, 6, 7, 0x2A, 0x86, 0x48, 0xCE, 0x3D, 2, 1, 6, 5, 0x2B, 0x81, 4, 0, 0x22, 3, 0x62, 0] ++ basePoint
  [0x30, 0x81, 134, 0x30, 0x81, 131, 2, 1, 1, 0x30, 0, 0x30, 0, 0x30, 0, 0x30, 0] ++ spki

theorem test_certificate : certPublic basePointCert = basePoint := by decide +kernel

/-- The signature of the private key 1 over no challenge and handle 4 with nonce 1: r = x(G) and s = SHA-384(m) + r. -/
def signatureOf4 : Bytes := be 48 0xAA87CA22BE8B05378EB1C71EF320AD746E1D3B628BA79B9859F741E082542A385502F25DBF55296C3A545E3872760AB7 ++
  be 48 0xD225A6CA8F4F3E9200AB385EB2C131A759D0814A54306BF3AF15F3F6EE2737F7E63D3C002B1E918A7C986C9BC844604E

theorem test_signature : signedOver basePointCert [] 4 signatureOf4 = true := by decide +kernel

/-- Partition 0 has one operator, two officers and one auditor enrolled; the reader is on; session 4 assembles as the role given. -/
def assembling (r : Role) : State := { up with
  parts := [(0, { operators := [(0, basePointCert)], officers := [(0, basePointCert), (1, [5])], auditors := [(0, [3])]
                  mOperator := 1, mOfficer := 1, mAuditor := 1 })]
  rf := { up.rf with mode := .reader }
  sessions := up.sessions ++ [(4, { session r with isOpen := false })] }
def enrolled : State := assembling .officer

/-- A custodian card whose signature over session 4 verifies. -/
def withCard (q : Req) : Req := { q with io := { io with card := { poll := [{ unresolved := false, cards := 1 }], outcome := .answered, cert := basePointCert, signature := signatureOf4, share := [] } } }
/-- PRESENT of an operator's signature at place 0. -/
def presented (sig : Bytes) : Req := ask 4 ([0, 0, 0, 0, 0, 0, 0, 0] ++ sig)

theorem witness_sessions :
    (Admitted enrolled (ask 0 [2, 0]) (row 0x0201 [.host] false [.factory, .transit, .blank, .operational, .maintenance, .recovery] [(8, 2)]) ∧
      roleOf ((ask 0 [2, 0]).b 8 1) = some .officer ∧ (enrolled.part 0).certs .officer ≠ [] ∧ enrolled.sessions.length < 64 ∧
      (enrolled.trunkDraw 51).isSome = true) ∧
    ForSession enrolled (ask 4 []) (row 0x0203 [.host] false allStates []) { session .officer with isOpen := false } ∧
    enrolled.session? 4 = some { session .officer with isOpen := false } ∧ enrolled.session? 1 = some (session .officer) :=
  ⟨⟨admitted_of _ _ _ (by decide +kernel), by decide +kernel, by decide +kernel, by decide +kernel, by decide +kernel⟩,
    concerns_of _ _ _ _ (by decide +kernel), by decide +kernel, by decide +kernel⟩

/-- A RESTORE_CELLS of session 4 waits for its groves. -/
def restoringCells : State := { enrolled with trunk := { enrolled.trunk with restores := [{ req := ask 4 [], tick := 0, groves := [], failed := false }] } }

theorem witness_close_waits :
    ForSession restoringCells (ask 4 []) (row 0x0203 [.host] false allStates []) { session .officer with isOpen := false } ∧
    (∃ w ∈ restoringCells.inExecution, w.2.fn = (ask 4 []).fn ∧ w.2.session = (ask 4 []).session) ∧
    (∀ w ∈ enrolled.inExecution, w.2.fn = (ask 4 []).fn → w.2.session ≠ (ask 4 []).session) := by
  refine ⟨concerns_of _ _ _ _ (by decide +kernel), ⟨_, .head _, by decide +kernel⟩, ?_⟩
  rw [show enrolled.inExecution = [] from rfl]
  exact fun w h => absurd h (by simp)

theorem witness_present_operator :
    ForSession (assembling .operator) (presented signatureOf4) (presentRow [(8, 1), (10, 2), (16, 96)]) { session .operator with isOpen := false } ∧
    tblGet ((assembling .operator).part 0).operators ((presented signatureOf4).b 10 2) = some basePointCert ∧ basePointCert ≠ [] ∧
    signedOver basePointCert [] (presented signatureOf4).session ((presented signatureOf4).str 16 96) = true ∧
    signedOver basePointCert [] (presented []).session ((presented []).str 16 96) = false := by
  refine ⟨concerns_of _ _ _ _ (by decide +kernel), by decide +kernel, by decide +kernel, ?_, by decide +kernel⟩
  rw [show (presented signatureOf4).str 16 96 = signatureOf4 by decide +kernel]
  exact test_signature

theorem witness_present_card :
    ForSession enrolled (withCard (ask 4 [2])) (presentRow [(8, 1), (112, 16)]) { session .officer with isOpen := false } ∧
    pinOk ((withCard (ask 4 [2])).str 112 16) = true ∧ enrolled.carrierReady true = true ∧
    (cardOn true (withCard (ask 4 [2])).io.card).outcome = .answered ∧ (withCard (ask 4 [2])).io.card.cert ∉ (session .officer).joined ∧
    (∃ c ∈ (enrolled.part 0).certs .officer, c.2 = (withCard (ask 4 [2])).io.card.cert) ∧
    signedOver (withCard (ask 4 [2])).io.card.cert [] (withCard (ask 4 [2])).session (withCard (ask 4 [2])).io.card.signature = true := by
  refine ⟨concerns_of _ _ _ _ (by decide +kernel), ?_, ?_, ?_, ?_, ?_, test_signature⟩ <;> decide +kernel

/-- A new module: FACTORY, nothing enrolled. -/
def factory : State := { up with trunk := { up.trunk with life := .factory } }
def withObject (b : Bytes) (q : Req) : Req := { q with io := { io with object := some b } }

theorem witness_enrolments :
    (Admitted factory (withObject [9] (ask 0 ([2, 0, 0, 0] ++ le 4 1 ++ le 8 0x1000))) (row 0x0204 [.host] true
        [.factory, .blank, .operational, .maintenance] [(8, 3), (12, 12)]) ∧
      roleOf ((ask 0 [2]).b 8 1) = some .officer ∧ (factory.part 0).officers = [] ∧ factory.extensionsFull = false) ∧
    (Admitted enrolled (withObject [9] (ask 1 ([1, 0, 15, 0] ++ le 4 4096 ++ le 8 0))) (row 0x0204 [.officer] false
        [.factory, .blank, .operational, .maintenance] [(8, 3), (12, 12)]) ∧
      tblGet ((enrolled.part 0).certs .operator) 15 = none) ∧
    (Admitted enrolled (ask 1 [2, 0, 1]) (row 0x0205 [.officer] false [.factory, .blank, .operational, .maintenance] [(8, 3)]) ∧
      tblGet ((enrolled.part 0).certs .officer) 1 ≠ none ∧
      (enrolled.part 0).quorum .officer < ((enrolled.part 0).certs .officer).length ∧ enrolled.ownPart (ask 1 [2, 0, 1]) = 0) ∧
    (Admitted enrolled (ask 1 [2, 0, 2]) (row 0x0206 [.officer] false [.factory, .blank, .operational, .maintenance] [(8, 3)]) ∧
      2 ≤ ((enrolled.part 0).certs .officer).length) :=
  ⟨⟨admitted_of _ _ _ (by decide +kernel), by decide +kernel, by decide +kernel, by decide +kernel⟩,
    ⟨admitted_of _ _ _ (by decide +kernel), by decide +kernel⟩,
    ⟨admitted_of _ _ _ (by decide +kernel), by decide +kernel, by decide +kernel, by decide +kernel⟩,
    ⟨admitted_of _ _ _ (by decide +kernel), by decide +kernel⟩⟩

theorem witness_queues :
    (Admitted up (ask 0 ([1, 16, 0, 0, 0, 0, 1, 63] ++ le 8 0x3000 ++ le 8 0x4000)) (row 0x0301 [.host] false
        [.factory, .operational, .maintenance] [(8, 2), (14, 18)]) ∧ up.queue? (queueKey 0 true 5) = none ∧ up.poolUsed true < 1024) ∧
    (Admitted (queued sub comp) (ask 0 ([0, 1, 5, 0, 16, 64, 7, 0] ++ le 8 0x1000 ++ le 8 0x2000)) (row 0x0301 [.host] false
        [.factory, .operational, .maintenance] [(8, 7), (16, 16)]) ∧ (queued sub comp).queue? (queueKey 0 false 1) = none ∧
      16 ≤ max ((queued sub comp).part 0).qA ((queued sub comp).part 0).qB) ∧
    (Admitted (queued sub comp) (ask 0 [1, 0, 5, 0]) (row 0x0302 [.host] false [.factory, .operational, .maintenance] [(8, 1), (10, 2)]) ∧
      (queued sub comp).queue? (queueKey 0 true 5) = some comp ∧
      (∃ k y, (k, y) ∈ (queued sub comp).queues ∧ y.fn = 0 ∧ y.completion = false ∧ y.cq = 5)) ∧
    (∀ k y, (k, y) ∈ ({ up with queues := [(queueKey 0 true 5, comp)] } : State).queues →
      ¬(y.fn = 0 ∧ y.completion = false ∧ y.cq = 5)) ∧
    (Admitted (queued sub comp) (ask 0 [0, 0, 5, 0]) (row 0x0302 [.host] false [.factory, .operational, .maintenance] [(8, 1), (10, 2)]) ∧
      (queued sub comp).queue? (queueKey 0 false 5) = some sub) ∧
    Admitted enrolled (ask 1 [63, 128, 0]) (row 0x0303 [.officer] true [.factory, .blank, .operational, .maintenance] [(8, 3)]) :=
  ⟨⟨admitted_of _ _ _ (by decide +kernel), by decide +kernel, by decide +kernel⟩,
    ⟨admitted_of _ _ _ (by decide +kernel), by decide +kernel, by decide +kernel⟩,
    ⟨admitted_of _ _ _ (by decide +kernel), by decide +kernel, _, sub, .head _, by decide +kernel⟩,
    fun k y h => by
      have : (k, y) = (queueKey 0 true 5, comp) := by simpa using h
      cases this; decide +kernel,
    ⟨admitted_of _ _ _ (by decide +kernel), by decide +kernel⟩, admitted_of _ _ _ (by decide +kernel)⟩

theorem test_create_queue : ((after (.createQueue (ask 0 ([1, 2, 0, 0, 0, 0, 1, 63] ++ le 8 0x3000 ++ le 8 0x4000))) up).queue?
    (queueKey 0 true 5)).map (fun x => (x.num, x.log, x.vec)) = some (5, 2, 63) := by decide +kernel

/-- A mask that names cell 3 only, and one drained cell. -/
def mask3 : Bytes := 8 :: List.replicate 31 0
def drained : State := up.setCell 3 { unit with st := .drained }
/-- Grove A is powered down. -/
def groveDown : State := { drained with groveA := {} }

theorem witness_schedule :
    (Admitted up (ask 2 (le 2 400)) (row 0x0401 [.operator] true [.factory, .operational, .maintenance] [(8, 2)]) ∧
      (ask 2 (le 2 400)).b 8 2 % 10 = 0) ∧
    (Admitted up (ask 2 ([1] ++ List.replicate 7 0 ++ mask3)) (row 0x0402 [.operator] true [.factory, .operational, .maintenance]
        [(8, 1), (16, 32)]) ∧ 8 ≤ up.leftBy (maskCells mask3)) ∧
    (Admitted drained (ask 2 (List.replicate 8 0 ++ mask3)) (row 0x0403 [.operator] true [.factory, .operational, .maintenance] [(16, 32)]) ∧
      (maskCells mask3).filter (fun c => (drained.cell c).st == .drained || (drained.cell c).st == .failed) = [3] ∧
      drained.groveServes (groveOf 3) = true) ∧
    (Admitted groveDown (ask 2 (List.replicate 8 0 ++ mask3)) (row 0x0403 [.operator] true [.factory, .operational, .maintenance] [(16, 32)]) ∧
      groveDown.groveServes false = false ∧ groveDown.groveA.rising = none ∧ groveDown.seedAlive = true) ∧
    Admitted up (ask 2 [30]) (row 0x0404 [.operator] true [.factory, .operational, .maintenance] [(8, 1)]) ∧
    (Admitted up (ask 2 []) (row 0x0405 [.operator] true [.factory, .blank, .operational, .maintenance] []) ∧
      up.busyBeside (ask 2 []) = false) ∧
    (Admitted enrolled (ask 2 []) (row 0x0405 [.operator] true [.factory, .blank, .operational, .maintenance] []) ∧
      enrolled.busyBeside (ask 2 []) = true) :=
  ⟨⟨admitted_of _ _ _ (by decide +kernel), by decide +kernel⟩, ⟨admitted_of _ _ _ (by decide +kernel), by decide +kernel⟩,
    ⟨admitted_of _ _ _ (by decide +kernel), by decide +kernel, by decide +kernel⟩,
    ⟨admitted_of _ _ _ (by decide +kernel), by decide +kernel, by decide +kernel, by decide +kernel⟩,
    admitted_of _ _ _ (by decide +kernel), ⟨admitted_of _ _ _ (by decide +kernel), by decide +kernel⟩,
    ⟨admitted_of _ _ _ (by decide +kernel), by decide +kernel⟩⟩

theorem test_set_tick : (after (.setTick (ask 2 (le 2 400))) up).sched.pend = some (400, 30000) := by decide +kernel

/-- RAW set by session 1. -/
def raw : State := { up with seed := { up.seed with mode := .raw, session := some 1 } }

theorem witness_outputs :
    Admitted up (ask 2 [1, 2]) (row 0x0406 [.operator] true Claims.working [(8, 2)]) ∧
    Admitted up (ask 2 [2, 100]) (row 0x0406 [.operator] true Claims.working [(8, 2)]) ∧
    Admitted up (ask 1 ([3, 0] ++ le 2 600)) (row 0x0406 [.officer] true Claims.working [(8, 1), (10, 2)]) ∧
    Admitted up (ask 2 [4]) (row 0x0406 [.operator] true Claims.working [(8, 1)]) ∧
    Admitted raw (ask 1 [0]) (row 0x0B01 [.officer] true allStates [(8, 1)]) ∧
    (Admitted up (ask 1 [1]) (row 0x0B01 [.officer] true allStates [(8, 1)]) ∧ up.image.seedcfg.getLsbD 0 = true ∧ up.extensionsFull = false ∧
      (waiting.cell 3).seed.state = .waiting) ∧
    (Admitted factory (ask 1 ([2] ++ List.replicate 7 0 ++ List.replicate 32 1)) (row 0x0B01 [.officer] true [.factory] [(8, 1), (16, 32)]) ∧
      factory.image.seedcfg.getLsbD 1 = true ∧ factory.extensionsFull = false) ∧
    (Admitted raw (ask 1 []) (row 0x0B02 [.officer] true allStates []) ∧ raw.seed.mode = .raw ∧
      raw.seed.session = some (ask 1 []).session) :=
  ⟨admitted_of _ _ _ (by decide +kernel), admitted_of _ _ _ (by decide +kernel), admitted_of _ _ _ (by decide +kernel),
    admitted_of _ _ _ (by decide +kernel), admitted_of _ _ _ (by decide +kernel),
    ⟨admitted_of _ _ _ (by decide +kernel), by decide +kernel, by decide +kernel, by decide +kernel⟩,
    ⟨admitted_of _ _ _ (by decide +kernel), by decide +kernel, by decide +kernel⟩,
    ⟨admitted_of _ _ _ (by decide +kernel), by decide +kernel, by decide +kernel⟩⟩

/-! ### Keys, master keys, archives, media, firmware -/

/-- A wrapping key of partition 0 in slot 9, and a private key in 0x10005. -/
def wrapSlot : Slot := { aesKey with partition := 0, alg := 3, usage := 0x0005 }
def wrapH : Handle := mkHandle 0 9 3
def keys0 : State := { mastered with heart := { mastered.heart with
  slots := [(7, { aesKey with partition := 0, usage := 0x1008 }), (9, wrapSlot)] } }
def generate : Req := ask 2 (le 2 0x29 ++ le 2 0x000B ++ le 4 0x10005 ++ [0, 0] ++ List.replicate 6 0 ++ le 8 0 ++ le 6 0 ++
  [0, 0] ++ le 8 0x7000 ++ le 4 200)

/-- An AES-128 key's block of version D under an AES-128 wrapping key (R243, X9.143), padded with zeros. -/
def importBlock : Bytes := be 112 0x44303131324B31414E30304E30303030383833444335383945424237323242423636334335433638333042463437353646433237383141414434414530354644323243364336334535394439364142303443374535423737364346374232354130333037353831363846313835384435
def importer : State := { keys0 with heart := { keys0.heart with
  slots := [(9, { wrapSlot with alg := 1, key := List.replicate 16 7, usage := 0x0105 })] } }
def importRequest : Req := withObject importBlock (ask 2 (le 4 wrapH.toNat ++ le 4 0xFFFFFFFF ++ le 8 0x8000 ++ le 4 112 ++
  [1, 0, 0, 0] ++ le 8 (2 ^ 63 - 1)))
def wrapped : Wrap := { key := wrapSlot.key, alg := 3, forms := false, master := false }
def importWrap : Wrap := { key := List.replicate 16 7, alg := 1, forms := false, master := false }

theorem witness_key_generate :
    Admitted keys0 generate { row 0x0502 [.operator] false [.factory, .operational, .maintenance] [(8, 10), (24, 14), (40, 12)] with
      cellJob := true } ∧ isPriv 0x29 = true ∧ usageOk 0x000B = true ∧ limitOk 0 0 = true ∧ (generatedLen 0x29 0).isSome = true ∧
    keys0.mayInstall 0 = none ∧ keys0.seed.mode ≠ .raw ∧ publicLen 0x29 ≤ 200 ∧ keys0.ownPart generate = 0 ∧
    keys0.target 0x10005 true false = .ok 0x10005 ∧ (keys0.newKey 0x29 (keyLen 0x29 32)).isOk = true := by
  refine ⟨admitted_of _ _ _ (by decide +kernel), ?_, ?_, ?_, ?_, ?_, ?_, ?_, ?_, rfl, ?_⟩ <;> decide +kernel

theorem witness_key_import :
    Admitted importer importRequest { row 0x0501 [.operator] false [.factory, .operational, .maintenance] [(8, 8), (16, 13), (32, 8)] with
      cellJob := true } ∧ limitOk 1 (2 ^ 63 - 1) = true ∧ importer.mayInstall 0 = none ∧ importRequest.b 24 4 = importBlock.length ∧
    (importer.trunkDraw 4).isSome = true ∧ importer.wrapKey wrapH [1, 3] = .ok importWrap ∧
    importer.target 0xFFFFFFFF false false = .ok 0 := by
  refine ⟨admitted_of _ _ _ (by decide +kernel), ?_, ?_, ?_, ?_, rfl, rfl⟩ <;> decide +kernel

/-- The block opens to the AES-128 key in it. -/
theorem witness_import_block : (unwrap importWrap (padTo 112 importBlock)).toOption.map (fun r => (r.1.alg, r.1.key, r.2)) =
    some (1, List.replicate 16 9, none) := by decide +kernel

theorem witness_key_export :
    Admitted keys0 (ask 2 (le 4 (mkHandle 0 7 3).toNat ++ le 4 wrapH.toNat ++ le 8 0x7000 ++ le 4 8192))
      (row 0x0503 [.operator] false [.operational, .maintenance] [(8, 20)]) ∧ mayExport (keys0.slot 7) wrapped = true ∧
    keys0.findNamed (mkHandle 0 7 3) = .ok (.slot 7) ∧ keys0.wrapKey wrapH [0, 1, 4] = .ok wrapped := by
  refine ⟨admitted_of _ _ _ (by decide +kernel), ?_, rfl, rfl⟩; decide +kernel

/-- A key, a master key, and a slot that is empty. -/
theorem witness_key_info :
    Admitted keys0 (ask 2 (le 4 (mkHandle 0 7 3).toNat)) (row 0x0505 [.host] false [.operational, .maintenance] [(8, 4)]) ∧
    handlePart (BitVec.ofNat 32 (mkHandle 0 7 3).toNat) = keys0.ownPart (ask 2 []) ∧
    keys0.findNamed (mkHandle 0 7 3) = .ok (.slot 7) ∧ keys0.findNamed (mkHandle 0 0x1FFF8 1) = .ok (.master 0) ∧
    keys0.findNamed (mkHandle 0 8 3) = .error .keyNotFound :=
  ⟨admitted_of _ _ _ (by decide +kernel), by decide +kernel, rfl, rfl, rfl⟩

theorem witness_key_delete :
    Admitted keys0 (ask 2 (le 4 (mkHandle 0 7 3).toNat)) (row 0x0504 [.operator] false [.factory, .operational, .maintenance] [(8, 4)]) ∧
    keys0.keyReadOnly = false := ⟨admitted_of _ _ _ (by decide +kernel), by decide +kernel⟩

/-- Partition 0 with an officer, the reader on, and its master slot 0 in a state. -/
def ceremony (officers : Tbl Bytes) (m : Master) : State := { enrolled with
  parts := [(0, { officers, mOfficer := 1 })]
  heart := { enrolled.heart with masters := [(0, m)], rewrap := [(0, List.range 257), (1, [5])] } }

/-- A custodian card with its channel open (17 R442) and a share on it. -/
def withShare (share : Bytes) (q : Req) : Req := { q with
  io := { io with card := { poll := [{ unresolved := false, cards := 1 }], outcome := .answered, cert := basePointCert, signature := [], share, point := basePoint, channelOk := true } } }

/-- The one share of a key of threshold 1 (09 R259): partition 0, slot 0, custodian 1 of 1, generation 1, serial number 0. -/
def onlyShare (key : Bytes) : Bytes := [1, 0, 0, 1, 1, 1, 1, 0] ++ le 8 0 ++ checkValue key ++ key ++ List.replicate 12 0

theorem ceremony_admitted (share : Bytes) (o : Tbl Bytes) (m : Master) (op : Byte) (h : op.toNat ≤ 3) :
    Admitted (ceremony o m) (withShare share (ask 1 [op, 0])) (row 0x0506 [.officer] false [.factory, .blank, .operational, .maintenance] [(8, 2)]) := by
  refine ⟨⟨rfl, rfl⟩, ⟨by simp [withShare, ask], by simp [withShare, ask], fun n => by cases n⟩,
    ⟨show Life.operational ∈ [Life.factory, .blank, .operational, .maintenance] by decide, rfl, .inl rfl⟩,
    .inr ⟨session .officer, .officer, show (1 : BitVec 32) ≠ 0 by decide, rfl, rfl, rfl, .head _, .inr (.inl rfl),
      fun n => by cases n⟩, ?_, fun n => (by cases n), rfl, rfl, fun _ => rfl⟩
  have : op = 0 ∨ op = 1 ∨ op = 2 ∨ op = 3 := by bv_omega
  rcases this with rfl | rfl | rfl | rfl <;> rfl

theorem witness_ceremonies :
    (ceremony [(0, basePointCert)] {}).keyReadOnly = false ∧ ((ceremony [(0, basePointCert)] {}).master 0 0).st = .empty ∧
    ((ceremony [(0, basePointCert)] {}).master 0 0).gen < 511 ∧
    (cardOn true (withShare [] (ask 1 [0, 0])).io.card).outcome = .answered ∧
    ((ceremony [(0, basePointCert)] {}).trunkDraw 80).isSome = true ∧
    (ceremony [(0, basePointCert)] {}).carrierReady (!(ceremony [(0, basePointCert)] {}).iccPresent) = true ∧
    (ceremony [(0, basePointCert)] {}).custodian 0 (withShare [] (ask 1 [0, 0])).io.card = true ∧
    (((ceremony [(0, basePointCert)] {}).trunkDraw 32).bind (fun x => x.1.trunkDraw 56)).isSome = true ∧
    ((ceremony [(0, basePointCert)] {}).part 0).officers.length ≤ 1 ∧
    1 < ((ceremony [(0, basePointCert), (1, [5])] {}).part 0).officers.length ∧
    ((ceremony [(0, basePointCert)] {}).master 0 0).session ≠ 1 ∧
    field ([1, 0, 0, 2, 0, 1] ++ List.replicate 58 0 : Bytes) 3 1 = 2 ∧
    ((ceremony [] { st := .loaded }).master 0 0).st = .loaded ∧ ((ceremony [] { st := .loaded, depends := true }).master 0 0).depends = true ∧
    (tblGet (ceremony [] {}).heart.rewrap 0).map (fun l => l.length) = some 257 ∧ tblGet (ceremony [] {}).heart.rewrap 1 = some [5] ∧
    (ceremony [] {}).heart.serving = true := by
  and_intros <;> decide +kernel

theorem witness_only_share (key : Bytes) (h : key.length = 32) (hc : (checkValue key).length = 4) :
    let r := padTo 64 (onlyShare key)
    field r 0 1 = 1 ∧ field r 1 1 = 0 ∧ field r 2 1 = 0 ∧ field r 3 1 ≤ 1 ∧ piece r 20 32 = key ∧ piece r 16 4 = checkValue key := by
  have e : onlyShare key = ([1, 0, 0, 1, 1, 1, 1, 0] ++ le 8 0) ++ (checkValue key ++ (key ++ List.replicate 12 0)) := by
    simp [onlyShare]
  have l : (onlyShare key).length = 64 := by simp [e, h, hc]
  have r : padTo 64 (onlyShare key) = onlyShare key := piece_self _ l
  have f (i : Nat) (hi : i + 1 ≤ 16) : piece (onlyShare key) i 1 = piece ([1, 0, 0, 1, 1, 1, 1, 0] ++ le 8 0) i 1 := by
    rw [e]; exact piece_append_left _ _ hi
  dsimp only
  simp only [r, field, f 0 (by decide), f 1 (by decide), f 2 (by decide), f 3 (by decide)]
  refine ⟨by decide +kernel, by decide +kernel, by decide +kernel, by decide +kernel, ?_, ?_⟩
  · rw [e, piece_append_right _ _ (by simp), piece_append_right _ _ (by simp [hc]), piece_append_left _ _ (by simp [h, hc])]
    simp only [List.length_append, le_length, List.length_cons, List.length_nil, hc]
    exact piece_self _ h
  · rw [e, piece_append_right _ _ (by simp), piece_append_left _ _ (by simp [hc])]
    exact piece_self _ hc

theorem witness_check_value : (checkValue (List.replicate 32 6)).length = 4 ∧
    checkValue (piece (padTo 64 ([1, 0, 0, 1] : Bytes)) 20 32) ≠ piece (padTo 64 ([1, 0, 0, 1] : Bytes)) 16 4 := by
  decide +kernel

/-- A ready card with a volume, and one held record. -/
def record : Rec :=
  { seq := 4, code := 1, source := 0, sev := 0, repeats := 1, op := 0, cycle := 0, partition := 0, frac := 0, snapCount := 0
    flags := 0, payload := [], snap := [], last := 4 }
def carded : State := { keys0 with
  sd := { st := .ready, volume := some [1], capacity := 1000000 }
  log := { keys0.log with held := [(4096, record)] }
  sessions := keys0.sessions }

/-- An archive of partition 0 (15 R402, 17 R430 to R433) under the master key: its header, the key of slot 4 as a block with its
attributes, and its ceiling, in one segment. The block is an AES-128 key's of version D. -/
def archiveKeyOf : Bytes := List.replicate 32 6
def archived : Slot := { key := List.replicate 16 9, alg := 1, usage := 0x0005, gen := 3, occupied := true, persistent := true }
def archivedBlock : Bytes := be 112 0x44303131324B31414E30304E30303030454230374644373333323439343139393935333533314641384134303444313630364232333534334643414138453731413337424537313335363141354145333033324632324545303934444233304139364332434637354445444543433039
def archivePlaintext : Bytes :=
  le 1 0 ++ le 8 0 ++ le 16 0 ++ le 6 20000 ++ le 1 0 ++ le 2 1 ++ checkValue archiveKeyOf ++
    (le 1 1 ++ le 4 4 ++ le 2 112 ++ archivedBlock ++ { archived with key := [] }.bytes 20005 ++ (le 1 4 ++ le 4 4 ++ le 8 65536))
def segmentHeader : Bytes :=
  le 4 0x4B5A5347 ++ [1, 3, 0, 0] ++ le 16 0 ++ le 8 1 ++ le 4 0 ++ le 4 205 ++ le 8 0 ++ le 8 0 ++ List.replicate 48 0
def archiveStored : Bytes := gcmCrypt (archiveKey archiveKeyOf (le 16 0)) (segmentIv 0) archivePlaintext
def archiveTag : Bytes := gcmTag (archiveKey archiveKeyOf (le 16 0)) (segmentIv 0) segmentHeader archiveStored 16
def archiveCommit : Bytes :=
  le 4 0x4B5A434D ++ (le 4 0 ++ (le 8 1 ++ (segmentChain [] segmentHeader (padTo 512 archiveStored) ++ archiveTag)))
def archiveObject : Bytes := padTo 512 segmentHeader ++ (padTo 512 archiveStored ++ padTo 512 archiveCommit)
def restoring : State := { carded with heart := { carded.heart with masters := [(0, { st := .active, key := archiveKeyOf, gen := 1 })] } }

theorem segments_of_one {kind : Nat} {o : Bytes} {x : Segment}
    (h : readSegments kind (o.length / 1536 + 1) 0 [] none o = some [x]) : segmentsOf kind o = some [x] := by
  unfold segmentsOf
  rw [h]
  simp only [List.all_cons, List.all_nil, List.headD_cons, beq_self_eq_true, Bool.and_true, if_true]

/-- An object of three blocks whose header, payload and commit block agree is one segment (R431, R433). -/
theorem segment_read (o h k p : Bytes) (n : Nat) (hn : 0 < n) (hm : n ≤ 512) (e1 : o.take 104 = h) (e2 : field h 36 4 = n)
    (e3 : piece o 512 512 = p) (e4 : piece o 1024 512 = k) (e5 : o.length = 1536) (e6 : field h 0 4 = 0x4B5A5347)
    (e7 : field h 4 1 = 1) (e8 : field h 5 1 = 3) (e9 : field h 24 8 = field k 8 8) (e10 : field h 32 4 = 0)
    (e11 : piece h 56 48 = padTo 48 []) (e12 : field k 0 4 = 0x4B5A434D) (e13 : piece k 16 48 = segmentChain [] h p) :
    segmentsOf 1 o = some [{ header := h, stored := p.take n, tag := piece k 64 16 }] := by
  have hl : 512 * ((n + 511) / 512) = 512 := by omega
  have hx : o.drop 1536 = [] := List.drop_eq_nil_of_le (by omega)
  have hz : n ≤ segmentMax := by simp only [segmentMax]; omega
  have hd : o.length / 1536 + 1 = 2 := by omega
  have hs : segmentHeld o = true := by
    have hp : padTo 48 (padTo 48 []) = padTo 48 ([] : Bytes) := by decide
    simp [segmentHeld, e1, e2, e3, e4, e5, e6, e9, e11, e12, e13, hl, hz, hp, Nat.pos_iff_ne_zero.mp hn, segmentChain]
  have hr : readSegments 1 2 0 [] none o = some [{ header := h, stored := p.take n, tag := piece k 64 16 }] := by
    have hb : Nat.testBit 3 1 = true := by decide
    simp [readSegments, hs, hb, e1, e2, e3, e4, e7, e8, e9, e10, e11, hl, hx, bit]
  exact segments_of_one (hd ▸ hr)

theorem archive_plain_length : archivePlaintext.length = 205 := by decide +kernel

theorem archive_stored_length : archiveStored.length = 205 := by decide +kernel

theorem archive_tag_length : archiveTag.length = 16 := by
  have h : (aesEnc (archiveKey archiveKeyOf (le 16 0)) (gcmStart (archiveKey archiveKeyOf (le 16 0)) (segmentIv 0))).length = 16 := by
    decide +kernel
  simp [archiveTag, gcmTag, h]

theorem witness_archive_object :
    segmentsOf 1 archiveObject = some [{ header := segmentHeader, stored := archiveStored, tag := archiveTag }] := by
  have l4 : ∀ v, (le 4 v).length = 4 := fun _ => rfl
  have l8 : ∀ v, (le 8 v).length = 8 := fun _ => rfl
  have hc : (segmentChain [] segmentHeader (padTo 512 archiveStored)).length = 48 := sha384_length _
  have hl : archiveCommit.length = 80 := by simp [archiveCommit, hc, archive_tag_length]
  have hh : archiveObject.take 104 = segmentHeader := by
    rw [archiveObject, List.take_append_of_le_length (by simp)]; decide +kernel
  have hp : piece archiveObject 512 512 = padTo 512 archiveStored := by
    rw [archiveObject, piece_append_right _ _ (by simp), piece_append_left _ _ (by simp), padTo_length]
    exact piece_self _ (padTo_length _ _)
  have hk : piece archiveObject 1024 512 = padTo 512 archiveCommit := by
    rw [archiveObject, piece_append_right _ _ (by simp), piece_append_right _ _ (by simp), padTo_length, padTo_length]
    exact piece_self _ (padTo_length _ _)
  have k0 : piece (padTo 512 archiveCommit) 0 4 = le 4 0x4B5A434D := by
    rw [piece_padTo _ (by omega) (by omega), archiveCommit, piece_append_left _ _ (by simp)]; exact piece_self _ (l4 _)
  have k8 : piece (padTo 512 archiveCommit) 8 8 = le 8 1 := by
    rw [piece_padTo _ (by omega) (by omega), archiveCommit, piece_append_right _ _ (by simp), piece_append_right _ _ (by simp),
      piece_append_left _ _ (by simp)]
    exact piece_self _ (l8 _)
  have k16 : piece (padTo 512 archiveCommit) 16 48 = segmentChain [] segmentHeader (padTo 512 archiveStored) := by
    rw [piece_padTo _ (by omega) (by omega), archiveCommit, piece_append_right _ _ (by simp), piece_append_right _ _ (by simp),
      piece_append_right _ _ (by simp), piece_append_left _ _ (by simp [hc])]
    exact piece_self _ hc
  have k64 : piece (padTo 512 archiveCommit) 64 16 = archiveTag := by
    rw [piece_padTo _ (by omega) (by omega), archiveCommit, piece_append_right _ _ (by simp), piece_append_right _ _ (by simp),
      piece_append_right _ _ (by simp), piece_append_right _ _ (by simp [hc])]
    simp only [l4, l8, hc]
    exact piece_self _ archive_tag_length
  have ht : (padTo 512 archiveStored).take 205 = archiveStored := by
    rw [← archive_stored_length]; exact take_padTo _ (by rw [archive_stored_length]; decide)
  rw [segment_read _ segmentHeader _ _ 205 (by decide) (by decide) hh (by decide +kernel) hp hk (by simp [archiveObject])
    (by decide +kernel) (by decide +kernel) (by decide +kernel) (by simp only [field, k8]; decide +kernel) (by decide +kernel)
    (by decide +kernel) (by simp only [field, k0]; decide +kernel) k16, k64, ht]

theorem witness_archive_plain :
    archivePlain archiveKeyOf 0 [{ header := segmentHeader, stored := archiveStored, tag := archiveTag }] = some archivePlaintext ∧
    field archivePlaintext 0 1 = 0 := by
  have h1 : piece segmentHeader 8 16 = le 16 0 := by decide +kernel
  have h2 : field segmentHeader 32 4 = 0 := by decide +kernel
  have h3 : field segmentHeader 48 1 = 0 := by decide +kernel
  have h4 := gcmCrypt_twice (archiveKey archiveKeyOf (le 16 0)) (segmentIv 0) archivePlaintext archive_plain_length (by decide +kernel)
  refine ⟨?_, by decide +kernel⟩
  simp only [archivePlain, archiveTag, archiveStored, List.headD_cons, List.all_cons, List.all_nil, h1, h2, h3, beq_self_eq_true,
    Bool.and_true, if_true, List.flatMap_cons, List.flatMap_nil, List.append_nil, h4]

theorem witness_archive_items : archiveItems archiveKeyOf 20005 (205 / 13) (archivePlaintext.drop 38) =
    [.slot 4 { archived with key := ((openBlock 3 archiveKeyOf archivedBlock false).map (fun b => b.key)).getD [] },
      .ceiling 4 65536] := by
  have h1 : field (archivePlaintext.drop 38) 0 1 = 1 := by decide +kernel
  have h2 : field (archivePlaintext.drop 38) 1 4 = 4 := by decide +kernel
  have h3 : field (archivePlaintext.drop 38) 5 2 = 112 := by decide +kernel
  have h4 : piece (archivePlaintext.drop 38) 7 112 = archivedBlock := by decide +kernel
  have h5 : Slot.ofBytes (piece (archivePlaintext.drop 38) (7 + 112) 35) 20005 = { archived with key := [] } := by decide +kernel
  have h6 : archiveItems archiveKeyOf 20005 14 ((archivePlaintext.drop 38).drop (42 + 112)) = [.ceiling 4 65536] := by
    decide +kernel
  rw [show (205 / 13 : Nat) = 14 + 1 from rfl, archiveItems]
  simp only [h1, h2, h3, h4, h5, h6]

theorem witness_archive_backup :
    Admitted carded (ask 1 [0, 0]) (row 0x0507 [.officer] false [.blank, .operational, .maintenance] [(8, 2)]) ∧
    carded.activeMaster 0 = some 0 ∧ CanStore carded (ask 1 [0, 0]) 1 0 (carded.archiveBytes 0 0) := by
  refine ⟨admitted_of _ _ _ (by decide +kernel), by decide +kernel, ?_, ?_, ?_, ?_, ?_, ?_⟩ <;> decide +kernel

theorem witness_archive_restore :
    Admitted restoring (withObject archiveObject (ask 1 [1, 0])) (row 0x0507 [.officer] false [.blank, .operational, .maintenance] [(8, 2)]) ∧
    restoring.mayInstall 0 = none ∧ restoring.sd.st = .ready ∧ restoring.sd.volume ≠ none ∧ restoring.activeMaster 0 = some 0 ∧
    (restoring.master 0 0).key = archiveKeyOf ∧ (restoring.slot 4).free = true ∧
    (restoring.slot 4).highest < archived.gen ∧ archived.partition = 0 ∧ isSym archived.alg = true ∧ (restoring.slot 5).free = true ∧
    restoring.sched.tick = 20005 := by
  refine ⟨admitted_of _ _ _ (by decide +kernel), ?_⟩
  and_intros <;> decide +kernel

theorem witness_log_export :
    Admitted carded (ask 2 (le 4 0 ++ le 4 131072)) (row 0x0608 [.operator, .auditor] true allStates [(8, 8)]) ∧
    carded.log.exported 0 131072 = [record] ∧
    CanStore carded (ask 2 (le 4 0 ++ le 4 131072)) 2 0xFF ([record].flatMap (fun r => r.bytes false)) := by
  refine ⟨admitted_of _ _ _ (by decide +kernel), by decide +kernel, ?_, ?_, ?_, ?_, ?_, ?_⟩ <;> decide +kernel

/-- An image's first 16 bytes with a kind, and under a wrong magic number: whether a real image verifies rests on the signing keys
of the hardware, which are open, and both answers are in the statement. -/
def image (kind : Byte) : Bytes := [0, 0, 0, 0, kind] ++ List.replicate 11 0
def updating (kind : Byte) : Req := withObject (image kind) (ask 1 ([0] ++ List.replicate 7 0 ++ le 8 0x1000 ++ le 4 16))

theorem witness_media_firmware :
    Admitted carded (ask 2 [0]) (row 0x0A03 [.operator] true Claims.working [(8, 1)]) ∧ carded.sd.readOnly = false ∧
    (carded.trunkDraw 16).isSome = true ∧
    Admitted carded (updating 1) (row 0x0702 [.officer] true [.operational, .maintenance, .recovery] [(8, 1), (16, 12)]) ∧
    Admitted carded (updating 2) (row 0x0702 [.officer] true [.operational, .maintenance, .recovery] [(8, 1), (16, 12)]) ∧
    field (image 1) 4 1 = 1 ∧ field (image 2) 4 1 = 2 ∧ (updating 1).b 24 4 = (image 1).length ∧ carded.imageOk (image 1) = false ∧
    carded.flash.xip = false ∧ carded.trunk.life ≠ .recovery ∧
    Admitted carded (ask 1 [2]) (row 0x0703 [.officer] true [.factory, .operational, .maintenance] [(8, 1)]) ∧
    carded.trunk.rdp.toNat ≤ 2 := by
  refine ⟨admitted_of _ _ _ (by decide +kernel), ?_, ?_, admitted_of _ _ _ (by decide +kernel), admitted_of _ _ _ (by decide +kernel),
    ?_, ?_, ?_, ?_, ?_, ?_, admitted_of _ _ _ (by decide +kernel), ?_⟩ <;> decide +kernel

/-! ### Ring log, bark, life cycle, twin and media commands -/

def stream : Stream := { next := 0, stop := 4, left := 1, first := 0, last := 0, sent := 0, skipped := 0 }
def streaming (l : Nat) : State := { carded with log := { carded.log with stream := some { stream with left := l } } }
def snapshot : List Byte := [1, 1, 1, 0, 0, 0, 0, 0, 14, 2, 0, 0, 0, 0, 0, 0]

theorem witness_ring_log :
    (Admitted up (ask 3 (le 4 0 ++ le 4 131072)) (row 0x0602 [.operator, .auditor] true allStates [(8, 8)]) ∧ up.log.stream = none) ∧
    (streaming 1).log.stream = some stream ∧ (((streaming 1).fn 0).service 2).waiting.length < 32 ∧ (streaming 1).dormant = false ∧
    stream.pick (streaming 1).log.flash = some record ∧ { stream with left := 0 }.pick (streaming 0).log.flash = none ∧
    { stream with left := 0 }.pick (streaming 0).log.waiting = none ∧
    { stream with next := 9, stop := 9 }.pick (streaming 1).log.flash = none ∧
    { stream with next := 9, stop := 9 }.pick [{ record with seq := 9 }] ≠ none ∧
    (Admitted up (ask 3 []) (row 0x0603 [.auditor] true [.operational, .maintenance, .recovery] []) ∧ up.log.lost = 0 ∧
      (up.bank 3).toReplace = []) ∧
    (Admitted up (ask 1 snapshot) (row 0x0607 [.officer] true Claims.working [(8, 3), (16, 8)]) ∧
      ((List.range 8).map (fun i => (ask 1 snapshot).b (16 + i) 1)).takeWhile (· ≠ 0) = [14, 2] ∧ up.log.selectors.length < 64) ∧
    Admitted up (ask 1 [1, 1, 2]) (row 0x0607 [.officer] true Claims.working [(8, 3)]) ∧
    (withReports.log.opened).isSome = true := by
  refine ⟨⟨admitted_of _ _ _ (by decide +kernel), ?_⟩, ?_, ?_, ?_, ?_, ?_, ?_, ?_, ?_,
    ⟨admitted_of _ _ _ (by decide +kernel), ?_, ?_⟩, ⟨admitted_of _ _ _ (by decide +kernel), ?_, ?_⟩,
    admitted_of _ _ _ (by decide +kernel), ?_⟩ <;> decide +kernel

theorem witness_seconds : factory.trunk.shutdown = false ∧ factory.log.reopened = true ∧ factory.dormant = false ∧
    factory.normalService = false ∧ factory.log.waiting.length < 255 ∧
    ({ up.log with seconds := [(0x0801, 16, 3)] } : Log).seconds = [(0x0801, 16, 3)] ∧
    (∀ p ∈ ({ up.log with seconds := [(0x0801, 16, 0)] } : Log).seconds, p.2.2 = 0) := by decide +kernel

def alarm (src : Nat) : Alarm := { source := src, detailA := 0, detailB := 0 }
/-- Loop 0 in mode 2 with its old detector still active; source 12 active. -/
def barked : State := { up with bark := { up.bark with lmodeLoop := 2, moving := [(0, 1)], tact := 0x1000, tarm := 0x07FFF001 } }
def unpowered : State := { up with trunk := { up.trunk with powerGood := false } }

theorem witness_bark :
    up.bark.enabled 26 = true ∧ up.bark.tarm.getLsbD 26 = true ∧ up.bark.enabled 27 = true ∧ up.bark.tarm.getLsbD 27 = false ∧
    up.trunk.powerGood = true ∧
    unpowered.trunk.powerGood = false ∧ ¬((15 : Nat) ≤ 14 ∨ (15 : Nat) = 18 ∨ (15 : Nat) = 19 ∨ (15 : Nat) = 26) ∧
    barked.bark.tact.getLsbD 12 = true ∧
    Admitted barked (ask 1 (le 4 0xFFFFFFFF)) (row 0x0604 [.officer] true Claims.working [(8, 4)]) ∧
    (Admitted barked (ask 1 [0, 1, 0, 0, 0, 1, 2, 4]) (row 0x0605 [.officer] true Claims.working [(8, 2), (12, 4)]) ∧
      (List.range 4).map (fun i => Cls.ofCode ((ask 1 [0, 1, 0, 0, 0, 1, 2, 4]).b (12 + i) 1)) =
        [Cls.log, .notify, .halt, .lockout].map some ∧ (sourceRow 0).fixed = none) ∧
    (tblGet barked.bark.moving 0).isSome = true ∧ barked.bark.enabled 0 = true ∧ barked.bark.tarm.getLsbD 0 = true := by
  refine ⟨?_, ?_, ?_, ?_, ?_, ?_, ?_, ?_, admitted_of _ _ _ (by decide +kernel), ⟨admitted_of _ _ _ (by decide +kernel), ?_, ?_⟩,
    ?_, ?_, ?_⟩ <;> decide +kernel

/-- A request for LC_CHANGE from `a` to `b`. -/
def change (session : BitVec 32) (a b : Life) : Req := ask session (le 2 b.code ++ le 2 a.code)
def locked : State := { up with bark := { up.bark with lko := true } }

theorem witness_life_cycle :
    (authority .operational .maintenance = some .officer ∧
      Admitted up (change 1 .operational .maintenance) (row 0x0701 [.officer] true allStates [(8, 4)]) ∧
      up.condition (change 1 .operational .maintenance) .maintenance = true ∧ up.sourceForbids .maintenance = false ∧
      Life.ofCode ((change 1 .operational .maintenance).b 8 2) = some .maintenance) ∧
    ((barked.sourceForbids .blank) = true ∧
      Admitted barked (change 1 .operational .blank) (row 0x0701 [.officer] true allStates [(8, 4)])) ∧
    (locked.lockout = true ∧ Admitted locked (change 0 .operational .retired) { row 0x0701 [.host] true allStates [(8, 4)] with
        underLockout := true }) ∧
    up.trunk.restores = [] ∧ up.twin.replies = [] ∧ up.twin.unpairing = none ∧ up.jobs = [] ∧ up.posted = [] ∧
    (∀ x : Option Req, ({ target := .factory, timedOut := false, waits := x } : Change).waits = x) :=
  ⟨⟨by decide +kernel, admitted_of _ _ _ (by decide +kernel), by decide +kernel, by decide +kernel, by decide +kernel⟩,
    ⟨by decide +kernel, admitted_of _ _ _ (by decide +kernel)⟩, ⟨by decide +kernel, admitted_of _ _ _ (by decide +kernel)⟩,
    by decide +kernel, by decide +kernel, by decide +kernel, by decide +kernel, by decide +kernel, fun _ => rfl⟩

def paired (r : TwinRole) : State := { up with
  clock := { cd18 := 601 * 25000000 }, twin := { up.twin with role := r, epoch := 2, step := .session, session := 9, partner := 5 } }
def slots : State := { up with sd := { st := .ready, volume := some [1], capacity := 1000000 }, icc := { st := .ready } }
def framing : State := { up with rf := { up.rf with frame := true } }

/-- Whether a set verifies rests on the module's serial number and certificate, which are open (R409): the other hypotheses of the
first two clauses hold here, and a set that does not verify is shown. -/
theorem witness_twin_commands :
    (Admitted up (withObject [1] (ask 1 ([1] ++ List.replicate 7 0 ++ le 8 0x1000 ++ le 4 1)))
        (row 0x0801 [.officer] true [.blank, .operational, .maintenance] [(8, 1), (16, 12)]) ∧ up.twin.role = .solo ∧
      up.extensionsFull = false ∧ up.holdsKeys = false ∧ up.setOk [1] 0 = false) ∧
    (Admitted carded (withObject [1] (ask 1 ([1] ++ List.replicate 7 0 ++ le 8 0x1000 ++ le 4 1)))
        (row 0x0801 [.officer] true [.blank, .operational, .maintenance] [(8, 1), (16, 12)]) ∧ carded.holdsKeys = true) ∧
    (Admitted (paired .primary) (ask 1 [2]) (row 0x0801 [.officer] true [.blank, .operational, .maintenance] [(8, 1)]) ∧
      (paired .primary).twin.role ≠ .solo ∧ (paired .primary).twin.unpairing = none ∧ (paired .primary).twin.step = .session ∧
      (paired .primary).nativeSlots = [] ∧ (paired .primary).twin.unacked = [] ∧ (keyed up).nativeSlots ≠ []) ∧
    (Admitted (paired .splitSecondary) (ask 1 (le 4 2)) (row 0x0803 [.officer] true [.operational, .maintenance] [(8, 4)]) ∧
      601 * 25000000 ≤ (paired .splitSecondary).since (paired .splitSecondary).twin.lossAt ∧ (paired .primary).twin.role ≠ .splitSecondary) ∧
    (Admitted up (ask 2 [2]) (row 0x0A01 [.operator] true Claims.working [(8, 1)]) ∧ up.rf.frame = false) ∧
    (Admitted framing (ask 2 [1]) (row 0x0A01 [.operator] true Claims.working [(8, 1)]) ∧ framing.rf.frame = true) ∧
    (Admitted slots (ask 2 [1]) (row 0x0A02 [.operator] true allStates [(8, 1)]) ∧ slots.sd.st = .ready ∧ slots.icc.st = .ready) ∧
    (Admitted up (ask 2 [0]) (row 0x0A02 [.operator] true allStates [(8, 1)]) ∧ up.sd.st = .absent ∧ up.icc.st = .absent) := by
  refine ⟨⟨admitted_of _ _ _ (by decide +kernel), ?_, ?_, ?_, ?_⟩, ⟨admitted_of _ _ _ (by decide +kernel), ?_⟩,
    ⟨admitted_of _ _ _ (by decide +kernel), ?_, ?_, ?_, ?_, ?_, ?_⟩, ⟨admitted_of _ _ _ (by decide +kernel), ?_, ?_⟩,
    ⟨admitted_of _ _ _ (by decide +kernel), ?_⟩, ⟨admitted_of _ _ _ (by decide +kernel), ?_⟩,
    ⟨admitted_of _ _ _ (by decide +kernel), ?_, ?_⟩, ⟨admitted_of _ _ _ (by decide +kernel), ?_, ?_⟩⟩ <;> decide +kernel

theorem test_media_release : (after (.mediaRelease (ask 2 [1])) slots).icc.st = .released := by decide +kernel

theorem witness_log_at_rest : LogAtRest { up with log := { up.log with nextSeq := 5000, pos := 100 } } where
  idle := by decide +kernel
  sectors := by decide +kernel
  slots := ⟨by decide +kernel, by decide +kernel, fun p h => absurd h (by simp [up, State.reset]), by decide +kernel⟩
  waits := by decide +kernel

theorem witness_log_reads :
    (Admitted withReports (ask 3 (le 4 5)) (row 0x0601 [.operator, .auditor] true allStates [(8, 4)]) ∧
      (withReports.log.named 5).map (fun x => x.2) = some true) ∧
    (Admitted carded (ask 3 (le 4 4)) (row 0x0601 [.operator, .auditor] true allStates [(8, 4)]) ∧
      (carded.log.named 4).map (fun x => x.2) = some false ∧ (carded.bank 3).ops = []) ∧
    ((carded.setBank 3 { ops := [.mark] }).bank 3).ops ≠ [] ∧
    ({ up.log with toErase := [9] } : Log).toErase = [9] ∧ (∀ p r, FlashOp.erase p r ∉ (up.bank 3).ops) ∧
    Admitted up (ask 0 [1, 1, 0]) (row 0x0607 [.host] false allStates [(8, 3)]) :=
  ⟨⟨admitted_of _ _ _ (by decide +kernel), by decide +kernel⟩,
    ⟨admitted_of _ _ _ (by decide +kernel), by decide +kernel, by decide +kernel⟩, by decide +kernel, rfl,
    fun p r h => absurd (show FlashOp.erase p r ∈ ([] : List FlashOp) from h) (by simp), admitted_of _ _ _ (by decide +kernel)⟩

/-- R363: VIN at 62.0 V is not above it, the sensor at -45.1 °C is below -45 °C, domain 15 is not monitored, TCK counts at RDP 1. -/
theorem test_conditions : up.meets { source := 15, detailA := 0, detailB := 62000 } = false ∧
    up.meets { source := 15, detailA := 0, detailB := 62001 } = true ∧
    up.meets { source := 18, detailA := 0, detailB := BitVec.ofInt 32 (-451) } = true ∧
    up.meets { source := 19, detailA := 15, detailB := 0 } = false ∧ up.meets (alarm 25) = false ∧ up.meets (alarm 26) = true := by
  decide +kernel

/-- The state in which the three copies of the life-cycle code read back as given. -/
def copied (l : List LifeCopy) : State := { up with trunk := { up.trunk with lifeCopies := l } }

/-- 13 R339: two copies of 0x00FF (OPERATIONAL) with their CMACs outvote a third; two different copies elect nothing. -/
theorem witness_life_vote :
    (copied [{ code := 0x00FF, mac := some 0x00FF }, { code := 0x00FF, mac := some 0x00FF }, { code := 0x6666, mac := none }]).lifeVote =
      some .operational ∧
    (copied [{ code := 0x00FF, mac := some 0x00FF }, { code := 0x6666, mac := some 0x6666 }, { code := 0x6666, mac := none }]).lifeVote =
      none ∧
    zeroises .blank = true ∧ zeroises .maintenance = false ∧
    ({ up with trunk := { up.trunk with change := some { target := .maintenance, timedOut := false } } } : State).inExecution = [] := by
  decide +kernel

/-! ## The twin link, cards, antenna and tag (16, 17) -/

/-- A module of a pair at a step of the handshake. -/
def twinned (x : Twin) : State := { keyed up with twin := { x with session := 9, partner := 5, lanes := 1, seen := 7, hbSeen := 7 } }

theorem witness_twin_link :
    (twinned { role := .primary }).twin.step ≠ .session ∧ MayPair (twinned { role := .primary }) ∧
    (twinned {}).twin.identity = false ∧ (twinned { identity := true }).twin.identity = true ∧ ((twinned {}).trunkTake 120).isSome = true ∧
    ((twinned {}).trunkTake 88).isSome = true ∧ (twinned {}).trunk.held = [] ∧ (twinned {}).trunk.change = none ∧
    (twinned {}).dormant = false ∧ (twinned {}).twin.lanes ≠ 0 ∧ (twinned { step := .hello }).twin.step = .hello ∧
    Heard (twinned { step := .role }) 9 8 ∧ Heard (twinned { step := .session, fresh := true }) 9 1 ∧
    ¬Heard (twinned { step := .session }) 9 7 ∧ ¬Heard (twinned { step := .session }) 8 8 ∧ ¬Heard (twinned {}) 9 8 ∧
    (twinned { step := .session, role := .secondary }).twin.role = .secondary ∧ (twinned {}).twin.hbSeen < 8 ∧
    (twinned {}).twin.hbFresh = false ∧ (twinned {}).twin.unpairing = none ∧ (asleep (twinned {})).dormant = true := by
  refine ⟨?_, ⟨?_, .inr (.inl rfl), rfl, rfl, rfl, ?_⟩, ?_, ?_, ?_, ?_, ?_, ?_, ?_, ?_, ?_, ⟨rfl, .inr (.inl rfl), .inr ?_⟩,
    ⟨rfl, .inr (.inr rfl), .inl ⟨rfl, rfl⟩⟩, fun h => ?_, fun h => absurd h.1 ?_, fun h => ?_, ?_, ?_, ?_, ?_, ?_⟩
  case refine_14 =>
    rcases h.2.2 with h | h
    · exact absurd h.1 (by decide +kernel)
    · exact absurd h (by decide +kernel)
  case refine_16 => rcases h.2.1 with h | h | h <;> exact absurd h (by decide +kernel)
  all_goals decide +kernel

/-- Keys that a partner may send: the base point, with the encapsulation key of zeros to the responder and a ciphertext's length to
the initiator; and keys whose point is none. -/
theorem witness_twin_keys : ({ identity := true } : Twin).keysOk (basePoint ++ List.replicate 1568 0) = true ∧
    ({} : Twin).keysOk (basePoint ++ List.replicate 1568 0) = true ∧ ({} : Twin).keysOk [] = false := by decide +kernel

/-- The signature of the private key 1 over no transcript, with nonce 1. -/
def signatureOfNone : Bytes := be 48 0xAA87CA22BE8B05378EB1C71EF320AD746E1D3B628BA79B9859F741E082542A385502F25DBF55296C3A545E3872760AB7 ++
  be 48 0xE3382ACA10379B6FDB8AF99DA4D290DE901AF273A065A2DBA604099FE64B0C127C51D11DA6C48F680F6F3129BB0EC412

theorem witness_twin_auth : Heard (twinned { step := .auth, agrees := true, partnerDigest := sha384 basePointCert }) 9 8 ∧
    (twinned { step := .auth, agrees := true }).twin.agrees = true ∧ (twinned { step := .auth }).twin.agrees = false ∧
    sha384 basePointCert = (twinned { partnerDigest := sha384 basePointCert }).twin.partnerDigest ∧
    p384Holds (certPublic basePointCert) (twinned {}).twin.transcript signatureOfNone = true :=
  ⟨⟨rfl, .inl rfl, .inr (by decide +kernel)⟩, rfl, rfl, by simp only [twinned], by rw [test_certificate]; decide +kernel⟩

theorem witness_twin_session :
    Change1.ofBytes (Change1.bytes (.slot 7 { aesKey with partition := 1, persistent := true }) 20005) 20005 =
      some (.slot 7 { aesKey with persistent := true }) ∧
    Change1.bytes (.slot 7 aesKey) 20005 ≠ syncStart ∧ Change1.bytes (.slot 7 aesKey) 20005 ≠ syncEnd ∧
    (twinned { awaiting := [(3, .slot 7 aesKey)] }).twin.awaiting.find? (fun a => a.1 == 3) = some (3, .slot 7 aesKey) ∧
    ((twinned {}).slot 7).occupied = true ∧
    tblGet (twinned { ranges := [(7, { pending := true })] }).twin.ranges 7 = some { pending := true } ∧
    ({ alloc := 0 } : Range).alloc < ({ aesKey with tk48 := true, limit := 1 } : Slot).limit ∧
    (twinned { rekeyPending := true }).twin.rekeyPending = true ∧
    (twinned {}).seed.mode = .normal ∧ (twinned {}).seed.fail = false ∧ ({ (twinned {}).seed with mode := .raw } : Seed).mode ≠ .normal ∧
    ({ twinned {} with seed := { up.seed with gen := filled 87 } } : State).trunkTake 88 = none ∧
    (twinned { unpairing := some (ask 1 [2]) }).twin.unpairing = some (ask 1 [2]) ∧
    (twinned { role := .splitPrimary, leaseEnded := false }).twin.leaseEnded = false ∧
    (twinned { role := .splitPrimary, leaseEnded := false }).twin.promoted = false := by
  and_intros <;> decide +kernel

/-- A volume header whose identifier, next block and last sequence are 0, 2048 and 3 (R433). -/
def header : Bytes :=
  let h := le 4 0x4B5A564C ++ List.replicate 20 0 ++ le 8 2048 ++ le 8 3 ++ List.replicate 8 0
  h ++ sha384 h ++ List.replicate 416 0

theorem witness_volume_header : headerOf header [] = some header ∧ headerOf [] [] = none ∧
    ([{ volume := piece header 8 16, seq := 4, block := 2048, object := [] }] : List MediaJ).find? (fun e => e.volume == piece header 8 16) =
      some { volume := piece header 8 16, seq := 4, block := 2048, object := [] } ∧ up.segmentValid [] = false := by decide +kernel

theorem witness_cards : up.sd.st = .absent ∧ slots.sd.st = .ready ∧ slots.sd.st ≠ .absent ∧ slots.sd.st ≠ .released ∧
    ({ slots.sd with busMode := 5 } : Sd).busMode = 5 ∧ ({ up.sd with st := .identifying } : Sd).st = .identifying ∧
    up.dormant = false ∧ up.trunk.ready = true ∧
    (∀ e ∈ ([{ volume := [1], seq := 1, block := 1, object := [] }] : List MediaJ), e.volume ≠ piece header 8 16) ∧
    up.icc.st = .absent ∧ slots.icc.st ≠ .absent ∧ ({ up.rf with mode := .watch } : Rf).mode = .watch ∧ up.rf.external = false ∧
    up.rf.cardHeld = false ∧ ({ up.rf with cardHeld := true } : Rf).cardHeld = true ∧ up.tagHears = true ∧
    ({ up.rf with tag := .active, selected := true } : Rf).tag = .active ∧ (250 : BitVec 8).toNat ≤ 250 ∧ up.rf.frame = false ∧
    framing.rf.frame = true ∧ up.rf.rewrite = false := by decide +kernel

/-- R434: with no segment after Next block, the write position is that of the header. -/
theorem test_sd_identified :
    let s := after (.sdCardIdentified true 2 false 1000000 header [] [] [] []) { up with sd := { st := .identifying } }
    s.sd.writeBlock = 2048 ∧ s.sd.writeSeq = 4 := by decide +kernel

theorem test_tag_attrib :
    (after .tagAttrib { up with rf := { up.rf with tag := .ready } }).rf.tag = .active := by decide +kernel

/-! ## Start, power, flash, functions, the block (13, 15, 19, 05) -/

def powered : State := { State.reset with trunk := { State.reset.trunk with powerGood := true } }

theorem witness_start : powered.trunk.powerGood = true ∧ powered.trunk.shutdown = false ∧ powered.trunk.bootCode = 0 ∧
    powered.trunk.runRecovery = false ∧ ({ started with romOk := false } : BootResult).romOk = false ∧ started.lifeRead = [] ∧
    (copied []).lifeVote = none ∧ powered.lifeVote = some powered.life ∧
    powered.life ≠ .recovery ∧ powered.trunk.imageA.boot = .active ∧ powered.trunk.imageB.boot ≠ .pending ∧
    started.imageA = true ∧ powered.trunk.minSecver ≤ powered.trunk.imageA.secver ∧ started.dramOk = true ∧ started.katFail = none ∧
    powered.cyclesGone = false ∧ ({ powered.trunk with starting := true, bootCode := 8 } : Trunk).bootCode = 8 ∧
    ({ powered.trunk with shutdown := true } : Trunk).shutdown = true ∧ State.reset.trunk.powerGood = false ∧
    (asleep up).dormant = true ∧ (asleep up).trunk.shutdown = false ∧ up.log.reopened = true ∧
    ({ (asleep up).trunk with waking := true } : Trunk).waking = true := by decide +kernel

/-- The image of a module as delivered verifies, and no bank of its flash has anything to do. -/
theorem witness_start_image : powered.verifies powered.trunk.imageA = true := by decide +kernel
theorem witness_flash_at_rest : FlashAtRest powered := ⟨rfl, rfl, rfl, rfl, fun _ => rfl⟩

theorem test_bad_rom : (after (.startUp { started with romOk := false }) powered).trunk.bootCode = 0x11 := by decide +kernel

/-- Banks at each kind of operation, and with a sector to replace or to refresh. -/
def oping (o : FlashOp) : Bank := { ops := [o] }

theorem witness_flash : (oping (.erase 5 true)).ops = [.erase 5 true] ∧ 5 ∉ (oping (.erase 5 true)).failedOnce ∧
    5 ∈ ({ oping (.erase 5 false) with failedOnce := [5] } : Bank).failedOnce ∧ (oping (.erase 5 false)).logical 5 = some 5 ∧
    ({ up.log with waiting := [record] } : Log).waiting = [record] ∧ up.slotErased (up.slotFor record).1 = true ∧
    (oping .body).ops.head? = some .body ∧ (oping .mark).toReplace = [] ∧ (oping .mark).replaced = [] ∧ up.log.lost = 0 ∧
    (oping (.unit true)).ops = [.unit true] ∧ (oping (.copy 5 4032 true)).ops = [.copy 5 4032 true] ∧
    ({ toReplace := [5] } : Bank).free = 4032 :: (List.range 63).map (4033 + ·) ∧ ({ weak := [5] } : Bank).toReplace = [] ∧
    up.flash.xip = false ∧ ({ up.flash with xip := true } : Flash).xip = true ∧ up.trunk.ready = true ∧ up.dormant = false ∧
    30 ≤ up.elec.fanDuty ∧ up.elec.rpm < 500 ∧ up.elec.stallRaised = false ∧ up.trunk.powerGood = true ∧
    up.trunk.held = [] ∧ up.trunk.change = none ∧
    (0x3C : BitVec 8).toNat / 4 % 16 ≠ 4 ∧ unpowered.trunk.powerGood = false := by decide +kernel

/-- A RANDOM job of 8 bytes at the head of cell 3's plan, and a custom function's. -/
def randomJob : Job := { macJob 0 with
  code := 0x0B01, params := [8] ++ List.replicate 15 0, input := [], inLen := 0, checked := some .ok }
def customJob : Job := { randomJob with code := 0x8000 }

/-- What the steps of R149 leave before the function's algorithm. -/
def checkedJob (j : Job) : State :=
  ((working1 j).beginItem 3 { job := 1, declared := 10, long := false, resume := false } j true).jobCheck 1

theorem takes_up (j : Job) (h : ((working1 j).job? 1, j.copy false) = (some j, some { place := .planned, cell := 3 })) :
    TakesUp (working1 j) run { job := 1, declared := 10, long := false, resume := false } [] j { place := .planned, cell := 3 } where
  serves := ⟨rfl, rfl⟩
  cell := ⟨.inl rfl, rfl⟩
  stores := ⟨rfl, rfl⟩
  plan := ⟨rfl, rfl⟩
  job := ⟨(Prod.mk.inj h).1, (Prod.mk.inj h).2, rfl⟩
  fresh := ⟨rfl, (fun e => by cases e), rfl, rfl, rfl, rfl, rfl⟩
  budget := by
    have h : ((working1 j).cell run.cell.toNat).brem = 90000 := rfl
    rw [h]; decide +kernel

/-- A RANDOM job's request of 8 bytes, once its grove's generator has been asked; and one for which Seed has nothing. -/
def asked : State := ((checkedJob randomJob).seedAsk 3 1 8 true).kernels false
def custom : State := checkedJob customJob

theorem witness_functions : Runs run 0x0B01 (.random run) ∧ Runs run 0x8000 (.customFunction run) ∧
    TakesUp (working1 randomJob) run { job := 1, declared := 10, long := false, resume := false } [] randomJob
      { place := .planned, cell := 3 } ∧ run.dramFault = false ∧
    (formOf { randomJob with inLen := 1 } ((working1 { randomJob with inLen := 1 }).algOf 0)).args ≠ none ∧
    (formOf randomJob ((working1 randomJob).algOf 0)).args = none ∧ (formOf randomJob ((working1 randomJob).algOf 0)).out = some 8 ∧
    ((checkedJob randomJob).job? 1).map (fun y => y.checked) = some (some .ok) ∧
    ((checkedJob { randomJob with checked := some .keyUsage }).job? 1).map (fun y => y.checked) = some (some .keyUsage) ∧
    8 ≤ randomJob.outCap ∧ ({ randomJob with outCap := 7 } : Job).outCap < 8 ∧
    ((checkedJob randomJob).giveTicket 3 1).loadKeys 3 1 false = ((checkedJob randomJob).giveTicket 3 1, some (.ok {})) ∧
    drawsRandom randomJob 0 ≠ 0 ∧ run.seedOk = true ∧ ({ run with seedOk := false } : Run).seedOk = false ∧
    (checkedJob randomJob).seedAlive = true ∧ ({ checkedJob randomJob with seed := { up.seed with fail := true } } : State).seedAlive = false ∧
    ((asked.copy? 1 false).bind (fun k => k.random)) = some (List.replicate 8 0) ∧
    ((working1 randomJob).grove false).notInstalled.contains 0x0B01 = false ∧
    ({ notInstalled := [0x8000] } : Grove).notInstalled.contains 0x8000 = true ∧
    (working1 randomJob).stagedBad randomJob = none := by
  refine ⟨.inl (by simp [functions]), .inr ⟨by decide +kernel, rfl⟩, takes_up _ (by decide +kernel), ?_⟩
  and_intros <;> first | decide +kernel | rfl

theorem test_step_front : (step { up with pending := [.thermalLimitStep, .lockReleaseExpiry] }) =
    exec .thermalLimitStep { up with pending := [.lockReleaseExpiry] } := by rfl

theorem witness_canonical : State.reset.memOk ∧ (∃ t, step State.reset = .next t) := ⟨rfl, _, rfl⟩

theorem test_memory_form : Memory.wf [(1, 0)] = false ∧ Memory.wf [(2, 1), (1, 1)] = false ∧ Memory.wf [(1, 1), (2, 1)] = true := by
  decide +kernel

/-- 04 R110, 14 R371: a quota whose commit failed is in force, and in the store only when its entry was persisted. -/
def halved (kept : Bool) : State :=
  (up.storeChanged 1 (fun x => { x with qA := 8 }) { io with flashOk := false, flashKept := kept }).1

theorem test_failed_commit : ((halved false).part 1).qA = 8 ∧ (halved false).flash.store = [] ∧
    (halved true).flash.store.map (fun e => e.item) = [.enrolment 1 ((up.part 1).withEnrolled { qA := 8 }).enrolled] := by
  decide +kernel

/-- 15 R398: what the store holds of the selectors after a change of one and after the return to the defaults. -/
theorem test_selectors_default :
    (([.selectors 0x0702 (some [1])] : List CItem).foldl Stored.apply {}).selectors = [(0x0702, [1])] ∧
    (([.selectors 0x0702 (some [1]), .selectorDefaults] : List CItem).foldl Stored.apply {}).selectors = [] := by decide +kernel

/-- 14 R364: the generator's first steps, by hand from x^31 + x^28 + 1; 19 R474, R479: the pins of a module in service. -/
theorem test_lfsr : lfsrStep 1 = 2 ∧ lfsrStep 0x40000000 = 1 ∧ lfsrStep 0x48000000 = 0x10000000 ∧ lfsrStep 0x08000000 = 0x10000001 := by
  decide +kernel
theorem test_pins : ({ up with trunk := { up.trunk with bootCode := 0x0F } } : State).led0 = .steady ∧
    ({ up with trunk := { up.trunk with bootCode := 0x0F } } : State).readyPin = true ∧ State.reset.led0 = .off ∧ State.reset.alertPin = false ∧
    State.reset.fanPin = 100 ∧ State.reset.mgmtAddress = 0x4B := by decide +kernel

end Sys2Proof.Tests
end

section
/-! SUPPORT. The leaf processor's instructions that write one register, branch or jump (11 R291, R292, R296, R297): their results in the
words of the statements, and the retirement that they share. -/

namespace Sys2Proof.Machine

open Sys2Proof.Claims

/-! ### Retirement and exceptions in the words of the statements -/

theorem State.retire_coreOnly (s : State) (c : Nat) (k : Core) (issue : Nat) : CoreOnly s (s.retire c k issue) c where
  rest := s.retire_frame c k issue
  others d hd := s.cell_setCell_other _ hd
  unit := by
    show ({ (s.setCell c _).cell c with core := s.core c } : Cell) = s.cell c
    rw [State.cell_setCell]
    rfl

theorem State.retire_retires (s : State) (c : Nat) (k : Core) (issue : Nat) : Retires s (s.retire c k issue) c k issue where
  core := s.retire_core c k issue
  frame := s.retire_coreOnly c k issue
  free := rfl

/-- A register instruction in a legal form retires with its one result. -/
theorem State.compute_legal {s : State} {c : Nat} (h : FreeOrRepeating s c) (rd : BitVec 5) (v : Core → Word) (issue : Nat) :
    s.compute c true rd v issue = s.retire c ((s.core c).setReg rd (v (s.core c))).next issue := by
  obtain ⟨hruns, hbars⟩ := h
  simp [State.compute, hruns, hbars]

/-- An instruction outside the repetition targets retires, in a legal form, with the core that it gives. -/
theorem State.plain_legal {s : State} {c : Nat} (h : Free s c) (f : Core → Core) (issue : Nat) :
    s.plain c true f issue = s.retire c (f (s.core c)) issue := by
  obtain ⟨hruns, hbars⟩ := h
  simp [State.plain, hruns, hbars]

/-- With no job in hand the kernel disposes of nothing (12 R328). -/
theorem State.disposed_of_inHand_none {s : State} {c : Nat} (h : s.inHand c = none) (r : Report) (k : Core) :
    s.disposed c r k = s := by
  simp [State.disposed, h]

theorem State.raise_takes (s : State) (c : Nat) (r : Report) : Takes (.next (s.raise c r)) s (s.trap c r) c r where
  entered := rfl
  answer := rfl
  plain h := by rw [State.raise, State.disposed_of_inHand_none h]

/-! ### Results (11 R291, R292) -/

theorem shiftAmount_eq (b : Word) : shiftAmount b = b.toNat % 64 := by
  simp [shiftAmount]

theorem flag_slt (a b : Word) : flag (a.slt b) = if a.toInt < b.toInt then 1 else 0 := by
  simp [flag, BitVec.slt]

theorem flag_ult (a b : Word) : flag (a.ult b) = if a.toNat < b.toNat then 1 else 0 := by
  simp [flag, BitVec.ult]

theorem toInt_sext16 (imm : BitVec 16) : (sext16 imm).toInt = imm.toInt :=
  BitVec.toInt_signExtend_of_le (by decide)

/-- LUI's word: the immediate over 16 zero bits. -/
theorem append_zero16 (imm : BitVec 16) : imm ++ (0 : BitVec 16) = BitVec.ofNat 32 (imm.toNat * 2 ^ 16) := by
  apply BitVec.eq_of_toNat_eq
  rw [BitVec.toNat_append, BitVec.toNat_ofNat, Nat.shiftLeft_eq, BitVec.ofNat_eq_ofNat, BitVec.toNat_ofNat, Nat.zero_mod, Nat.or_zero]
  omega

/-- A byte put under a word is the word's next lower digit in base 256. -/
theorem toNat_append_byte {n : Nat} (x : BitVec n) (b : Byte) : (x ++ b).toNat = b.toNat + 256 * x.toNat := by
  rw [BitVec.toNat_append, ← Nat.shiftLeft_add_eq_or_of_lt b.isLt, Nat.shiftLeft_eq]
  omega

theorem resBswap_eq (a : Word) : resBswap a = alu.reversed a := by
  have hdigits : num (le 8 a.toNat).reverse = (alu.reversed a).toNat := by
    simp only [alu.reversed, toNat_append_byte, BitVec.extractLsb'_toNat]
    simp [le, num, Nat.shiftRight_eq_div_pow, Nat.div_div_eq_div_mul]
  rw [resBswap, hdigits, BitVec.ofNat_toNat, BitVec.setWidth_eq]

/-- SHI in the three legal kinds of shift. -/
theorem resShi_eq (a : Word) (imm : BitVec 16) (h : imm.toNat < 256) : resShi a imm =
    if imm.toNat / 64 = 0 then a <<< (imm.toNat % 64)
    else if imm.toNat / 64 = 1 then a >>> (imm.toNat % 64) else a.sshiftRight (imm.toNat % 64) := by
  have hkind : bits imm.toNat 7 6 = imm.toNat / 64 := by
    simp only [bits]
    omega
  have hn : bits imm.toNat 5 0 = imm.toNat % 64 := by simp [bits]
  unfold resShi
  rw [hkind, hn]
  split
  next h0 => rw [if_pos h0]
  next h1 => rw [if_neg (by omega), if_pos h1]
  next h0 h1 => rw [if_neg h0, if_neg h1]

/-- SHI's form is legal when imm[15:8] is 0 and imm[7:6] is not 3. -/
theorem shi_legal (imm : BitVec 16) (h : imm.toNat < 256) (hkind : imm.toNat / 64 ≠ 3) :
    (bits imm.toNat 15 8 == 0 && bits imm.toNat 7 6 != 3) = true := by
  simp only [bits, Bool.and_eq_true, beq_iff_eq, bne_iff_ne]
  omega

/-- Where SHI has a result in the words of the statement, its form is legal and the result is `resShi`. -/
theorem shi_of_alu {k : Nat → Core} {c : CoreId} {rd ra : BitVec 5} {imm : BitVec 16} {x : Nat × BitVec 5 × Word × Nat}
    (h : alu k (.shi c rd ra imm) = some x) :
    (bits imm.toNat 15 8 == 0 && bits imm.toNat 7 6 != 3) = true ∧
      x = (c.toNat, rd, resShi ((k c.toNat).reg ra) imm, 1) := by
  simp only [alu] at h
  split at h
  · cases h
  next hlt =>
    rw [resShi_eq _ _ (by omega)]
    split_ifs at h ⊢ with h0 h1 h2 <;> cases h <;> exact ⟨shi_legal imm (by omega) (by omega), rfl⟩

/-- An instruction with a result in the words of the statement is a register instruction in a legal form that computes it. -/
theorem exec_of_alu {i : Instr} {s : State} {c : Nat} {rd : BitVec 5} {v : Word} {n : Nat}
    (h : alu s.core i = some (c, rd, v, n)) :
    ∃ f : Core → Word, exec i s = .next (s.compute c true rd f n) ∧ f (s.core c) = v := by
  cases i
  case add | sub | and | or | xor | mul | mulh | mulhu | divu | remu | addi | andi | ori | xori =>
    cases h
    exact ⟨_, rfl, rfl⟩
  case sll | srl | sra =>
    cases h
    exact ⟨_, rfl, by rw [shiftAmount_eq]⟩
  case slt =>
    cases h
    exact ⟨_, rfl, flag_slt _ _⟩
  case sltu | sltiu =>
    cases h
    exact ⟨_, rfl, flag_ult _ _⟩
  case slti c rd ra imm =>
    cases h
    exact ⟨_, rfl, by rw [flag_slt, toInt_sext16]⟩
  case csel =>
    cases h
    exact ⟨_, rfl, (ite_not ..).symm⟩
  case bswap c rd ra rb =>
    obtain ⟨rfl, h⟩ := Option.ite_none_right_eq_some.1 h
    cases h
    exact ⟨_, rfl, resBswap_eq _⟩
  case lui c rd ra imm =>
    obtain ⟨rfl, h⟩ := Option.ite_none_right_eq_some.1 h
    cases h
    exact ⟨_, rfl, by rw [append_zero16]⟩
  case shi c rd ra imm =>
    obtain ⟨hlegal, h⟩ := shi_of_alu h
    cases h
    exact ⟨_, by rw [← hlegal]; rfl, rfl⟩
  -- no other instruction has a result in `alu`
  all_goals cases h

/-- Settles O1: each legal form is a `State.compute` of the stated result, which retires. -/
theorem aluInstructionsWriteTheirResult : Obligations.AluInstructionsWriteTheirResult := by
  intro i s c rd v n hi hfree
  obtain ⟨f, hexec, rfl⟩ := exec_of_alu hi
  exact ⟨_, hexec, State.compute_legal hfree rd f n ▸ State.retire_retires s c _ n⟩

/-! ### Branches and jumps (11 R296, R297) -/

/-- A condition code that the statement gives a meaning is none of the reserved ones, and the branch tests it. -/
theorem condHolds_of_taken {cond : BitVec 3} {a b : Word} {t : Bool} (h : taken cond a b = some t) :
    cond.toNat < 6 ∧ condHolds cond a b = t := by
  unfold taken at h
  split at h <;> cases h
  all_goals
    next hcode =>
      refine ⟨by omega, Bool.eq_iff_iff.2 ?_⟩
      simp [condHolds, hcode, BitVec.slt, BitVec.ult]

/-- CB and CBI retire with the pc at the target or behind the branch. -/
theorem State.branch_retires {s : State} {c : Nat} (hfree : Free s c) {cond : BitVec 3} {a b : Word} {t : Bool}
    (h : taken cond a b = some t) (off : Word) :
    Retires s (s.plain c (decide (cond.toNat < 6)) (fun k => k.branch (condHolds cond a b) off) (if condHolds cond a b then 3 else 1)) c
      { s.core c with pc := if t then (s.core c).pc + 4 * off else (s.core c).pc + 4 } (if t then 3 else 1) := by
  obtain ⟨hlegal, rfl⟩ := condHolds_of_taken h
  rw [decide_eq_true hlegal, State.plain_legal hfree]
  exact State.retire_retires s c _ _

/-- JR to an aligned target jumps. -/
theorem execJr_aligned {s : State} {c : CoreId} (rd ra : BitVec 5) (imm : BitVec 16)
    (h : ((s.core c.toNat).reg ra + sext16 imm).toNat % 4 = 0) :
    execJr c rd ra imm s = .next (s.plain c.toNat true
      (fun k => { k.setReg rd (k.pc + 4) with pc := (s.core c.toNat).reg ra + sext16 imm }) 3) :=
  if_neg (by rw [h, bne_self_eq_false, Bool.and_false]; exact Bool.false_ne_true)

/-- JR to a target that is no multiple of 4 raises FETCH at the jump (11 R283). -/
theorem execJr_misaligned {s : State} {c : CoreId} (rd ra : BitVec 5) (imm : BitVec 16) (hruns : s.runs c.toNat = true)
    (h : ((s.core c.toNat).reg ra + sext16 imm).toNat % 4 ≠ 0) :
    execJr c rd ra imm s =
      .next (s.raise c.toNat { exc := .fetch, acc := 3, faddr := (s.core c.toNat).reg ra + sext16 imm }) :=
  if_pos (by rw [hruns, Bool.true_and, bne_iff_ne]; exact h)

/-- Settles O4: each branch and jump is a `State.plain` that retires, and a misaligned JR raises FETCH. -/
theorem branchesAndJumpsSetThePc : Obligations.BranchesAndJumpsSetThePc := by
  intro s c hfree
  refine ⟨?cb, ?cbi, ?j, ?jr, ?jrMisaligned⟩
  case cb =>
    intro ra rb cond off b htaken
    exact ⟨_, rfl, State.branch_retires hfree htaken _⟩
  case cbi =>
    intro ra cond imm off b htaken
    exact ⟨_, rfl, State.branch_retires hfree htaken _⟩
  case j =>
    intro rd off
    exact ⟨_, rfl, State.plain_legal hfree _ _ ▸ State.retire_retires s _ _ _⟩
  case jr =>
    intro rd ra imm haligned
    exact ⟨_, execJr_aligned rd ra imm haligned, State.plain_legal hfree _ _ ▸ State.retire_retires s _ _ _⟩
  case jrMisaligned =>
    intro rd ra imm hmisaligned
    have hexec : exec (.jr c rd ra imm) s = _ := execJr_misaligned rd ra imm hfree.1 hmisaligned
    exact ⟨_, hexec ▸ State.raise_takes s c.toNat _⟩

end Sys2Proof.Machine
end
